-- ==== Sys2Proof/Word.lean ====
section
/-!
DEFINITION. The words of the E1024 and the finite maps its state is written in.

Bit 0 is the least significant bit and a field `[msb:lsb]` includes both ends (R2). Multi-byte values are
little-endian (R2). This file holds only the types and their plainest access.
-/
namespace Sys2Proof

/-- A byte. -/
abbrev Byte := BitVec 8
/-- A 32-bit word. -/
abbrev W32 := BitVec 32
/-- A 64-bit word. -/
abbrev W64 := BitVec 64

/-- A finite map from numbers to values, as a list of pairs; a key that is not listed has the map's default. -/
abbrev AMap (α : Type) := List (Nat × α)

/-- The value of key `k`, `d` where it is not listed. -/
def AMap.get {α : Type} (d : α) : AMap α → Nat → α
  | [], _ => d
  | (k', v) :: m, k => if k' = k then v else AMap.get d m k

/-- The map with key `k` set to `v`: replaced in place, or put before the first larger key. -/
def AMap.put {α : Type} : AMap α → Nat → α → AMap α
  | [], k, v => [(k, v)]
  | (k', v') :: m, k, v =>
    if k' = k then (k, v) :: m
    else if k < k' then (k, v) :: (k', v') :: m
    else (k', v') :: AMap.put m k v

/-- The fixed-length register files: register `i` of `n`. -/
def rget {α : Type} {n : Nat} (v : Vector α n) (i : Fin n) : α := v[i]

/-- The register file with register `i` set. -/
def rset {α : Type} {n : Nat} (v : Vector α n) (i : Fin n) (x : α) : Vector α n := v.set i x

end Sys2Proof
end

