-- ==== Sys2Proof/Syntax.lean ====
section
/-!
DEFINITION. The commands of the E1024: one constructor for each row of spec/opcode_table.json, in its order.

An instruction row carries the fields of its 32-bit word that its mnemonic does not fix (R84), the reserved ones
included, so that every word of the row is a value of the constructor. An event row carries what names the event.
-/
namespace Sys2Proof

/-! ### Operands of the instructions a core thread issues -/

/-- What a core corrects at the issue of an instruction (R413 indices 1-4 and 6): the parity of the line fetched; of a line of the
data cache, by its number, which is dropped; a word of a tile, scale or accumulator; of a vector register or a finished tile; of a
receive queue; the parity of a cached translation, by its virtual page and size, which is dropped. -/
inductive HwFix where
  | icache
  | dcache (line : Nat)
  | tile
  | vector
  | queue
  | translation (vpage log : Nat)
deriving DecidableEq, Repr

/-- What the issue of an instruction meets: nothing, uncorrectable data in its fetch, or uncorrectable data in a register
the instruction reads, with the register-file locator of R414 (R99, R134, R154, R214); an error that is corrected; a parity error
of the range scoreboard (R413 index 6); or that the word fetched is another
one, `w`, which is of no row of the opcode table (R87-R92; DESIGN CHOICE, log 11). -/
inductive HwErr where
  | ok
  | fetch
  | regFile (locator : W64)
  | corrected (f : HwFix)
  | scoreboard
  | word (w : W32)
deriving DecidableEq, Repr

/-- Who issues, and under which predicate (R78, R84): logical core, thread, bit [25] and bits [24:22] of the word,
and what the issue meets. -/
structure Iss where
  core : BitVec 10
  thr : BitVec 2
  pn : Bool
  pi : BitVec 3
  hw : HwErr
deriving DecidableEq, Repr

/-- R format (R84): `rd` [21:17], `ra` [16:12], `rb` [11:7]. -/
structure FmtR where
  rd : BitVec 5
  ra : BitVec 5
  rb : BitVec 5
deriving DecidableEq, Repr

/-- R format of `AMO` (R91): `func`[4] selects 32 bits, `func`[6:5] must be zero. -/
structure FmtAmo where
  rd : BitVec 5
  ra : BitVec 5
  rb : BitVec 5
  z : BitVec 2
  w32 : Bool
deriving DecidableEq, Repr

/-- I format (R84): `rd` [21:17], `ra` [16:12], `imm12` [11:0]. -/
structure FmtI where
  rd : BitVec 5
  ra : BitVec 5
  imm : BitVec 12
deriving DecidableEq, Repr

/-- I format of the shift group (R87): `imm12`[11:8] zero, `imm12`[5:0] the amount. -/
structure FmtSh where
  rd : BitVec 5
  ra : BitVec 5
  z : BitVec 4
  sh : BitVec 6
deriving DecidableEq, Repr

/-- U format (R84): `rd` [21:17], `imm17` [16:0]. -/
structure FmtU where
  rd : BitVec 5
  imm : BitVec 17
deriving DecidableEq, Repr

/-- M format (R84): `rd` or `rs` [21:17], `bn` [16:14], `disp14` [13:0]. -/
structure FmtM where
  r : BitVec 5
  bn : BitVec 3
  disp : BitVec 14
deriving DecidableEq, Repr

/-- P format of `CMP` (R84): `pd` [21:19], `cond` [18:15], `ra` [14:10], `rb` [9:5], [4:0] zero. -/
structure FmtCmp where
  pd : BitVec 3
  cond : BitVec 4
  ra : BitVec 5
  rb : BitVec 5
  z : BitVec 5
deriving DecidableEq, Repr

/-- P format of `CMPI` (R84): `imm10` [9:0]. -/
structure FmtCmpi where
  pd : BitVec 3
  cond : BitVec 4
  ra : BitVec 5
  imm : BitVec 10
deriving DecidableEq, Repr

/-- L format (R84): `pd` [21:19], `pa` [18:16], `pb` [15:13], `op` [12:9], [8:0] zero. -/
structure FmtL where
  pd : BitVec 3
  pa : BitVec 3
  pb : BitVec 3
  z : BitVec 9
deriving DecidableEq, Repr

/-- S format (R84): `func5` [21:17], `ra` [16:12], `imm12` [11:0]. -/
structure FmtS where
  ra : BitVec 5
  imm : BitVec 12
deriving DecidableEq, Repr

/-- X format of `RPT` (R96): `ra` [20:16], [15:12] zero, `STRIDE` [11:0]. -/
structure FmtRpt where
  ra : BitVec 5
  z : BitVec 4
  stride : BitVec 12
deriving DecidableEq, Repr

/-- X format of `RPTN` (R96): `CNT` [20:14], [13:12] zero, `STRIDE` [11:0]. -/
structure FmtRptn where
  cnt : BitVec 7
  z : BitVec 2
  stride : BitVec 12
deriving DecidableEq, Repr

/-- CM format (R84): `vr` [17:13], `bn` [12:10], `disp10` [9:0]. -/
structure FmtCM where
  vr : BitVec 5
  bn : BitVec 3
  disp : BitVec 10
deriving DecidableEq, Repr

/-- `TMMA` (R114): `rm` [17:16], `ACC` [15:14], `TA` [13:11], `TB` [10:8], `Z` [7], [6:0] zero. -/
structure FmtTmma where
  rm : BitVec 2
  acc : BitVec 2
  ta : BitVec 3
  tb : BitVec 3
  zf : Bool
  z : BitVec 7
deriving DecidableEq, Repr

/-- `TZERO` (R111): accumulator mask [3:0], type bits [7:4], [15:8] zero. -/
structure FmtTzero where
  rm : BitVec 2
  z : BitVec 8
  types : BitVec 4
  accs : BitVec 4
deriving DecidableEq, Repr

/-- `TFREE` (R111): tile mask [7:0], accumulator mask [11:8], [15:12] zero. -/
structure FmtTfree where
  rm : BitVec 2
  z : BitVec 4
  accs : BitVec 4
  tiles : BitVec 8
deriving DecidableEq, Repr

/-- `TFIN` (R120): `ACC` [15:14], [13:8] zero, `TAG` [7:0]. -/
structure FmtTfin where
  rm : BitVec 2
  acc : BitVec 2
  z : BitVec 6
  tag : BitVec 8
deriving DecidableEq, Repr

/-- `VARITH` (R143): `vd` [15:11], `va` [10:6], type [5] (1 INT32); the operation [4:0] is the constructor's. -/
structure FmtVar where
  rm : BitVec 2
  vd : BitVec 5
  va : BitVec 5
  int : Bool
deriving DecidableEq, Repr

/-- `VCMP` (R144): `vd`, `va`, `cond` [5:3], type [2] (1 INT32), [1:0] zero. -/
structure FmtVcmp where
  rm : BitVec 2
  vd : BitVec 5
  va : BitVec 5
  cond : BitVec 3
  int : Bool
  z : BitVec 2
deriving DecidableEq, Repr

/-- `VCVT` (R148): `vd`, `va`, `T` [5:2], X [0]; `DIR` [1] is the constructor's. -/
structure FmtVcvt where
  rm : BitVec 2
  vd : BitVec 5
  va : BitVec 5
  ty : BitVec 4
  xf : Bool
deriving DecidableEq, Repr

/-- `VSF` and `VBIT` (R147, R145): `vd`, `va`, [1:0] zero; the function [5:2] is the constructor's. -/
structure FmtVV where
  rm : BitVec 2
  vd : BitVec 5
  va : BitVec 5
  z : BitVec 2
deriving DecidableEq, Repr

/-- `VRED` (R146): `vd`, `va`, `HALF` [2], [1:0] zero; the operation [5:3] is the constructor's. -/
structure FmtVred where
  rm : BitVec 2
  vd : BitVec 5
  va : BitVec 5
  half : Bool
  z : BitVec 2
deriving DecidableEq, Repr

/-- `VPERM` (R145): `vd`, `va`, [5:0] zero. -/
structure FmtVperm where
  rm : BitVec 2
  vd : BitVec 5
  va : BitVec 5
  z : BitVec 6
deriving DecidableEq, Repr

/-- `VMOVT` (R141): `KIND` [14:13], `UNIT` [12:10], `VR` [9:5], `GRP` [4:0]; `DIR` [15] is the constructor's. -/
structure FmtVmovt where
  rm : BitVec 2
  kind : BitVec 2
  unit : BitVec 3
  vr : BitVec 5
  grp : BitVec 5
deriving DecidableEq, Repr

/-- `VFTQ` (R151): r [13:9], g [8:5], [4:0] zero; op [15:14] is the constructor's. -/
structure FmtVftq where
  rm : BitVec 2
  r : BitVec 5
  g : BitVec 4
  z : BitVec 5
deriving DecidableEq, Repr

/-- `VSETVL` (R137): `gd` [15:11], `ga` [10:6], `T` [5:2], [1:0] zero. -/
structure FmtVsetvl where
  rm : BitVec 2
  gd : BitVec 5
  ga : BitVec 5
  ty : BitVec 4
  z : BitVec 2
deriving DecidableEq, Repr

/-- `VMOVG` (R142): g [13:9], v [8:4], [3:0] zero; op [15:14] is the constructor's. -/
structure FmtVmovg where
  rm : BitVec 2
  g : BitVec 5
  v : BitVec 5
  z : BitVec 4
deriving DecidableEq, Repr

/-- `SDESC` (R159): `ra` [15:11], `rb` [10:6], `CH` [5:3], [1:0] zero; `RES` [2] is the constructor's. -/
structure FmtSdesc where
  rm : BitVec 2
  ra : BitVec 5
  rb : BitVec 5
  ch : BitVec 3
  z : BitVec 2
deriving DecidableEq, Repr

/-- `SSTOP` (R161): [15:6] zero, `CH` [5:3], [2:0] zero. -/
structure FmtSstop where
  rm : BitVec 2
  zhi : BitVec 10
  ch : BitVec 3
  zlo : BitVec 3
deriving DecidableEq, Repr

/-- `SSTAT` (R161): `rd` [15:11], [10:6] zero, `CH` [5:3], `SEL` [2:1], [0] zero. -/
structure FmtSstat where
  rm : BitVec 2
  rd : BitVec 5
  zhi : BitVec 5
  ch : BitVec 3
  sel : BitVec 2
  zlo : BitVec 1
deriving DecidableEq, Repr

/-- `SEND` (R182): `ra` [15:11], `rb` [10:6], `REL` [5], [4:0] zero. -/
structure FmtSend where
  rm : BitVec 2
  ra : BitVec 5
  rb : BitVec 5
  rel : Bool
  z : BitVec 5
deriving DecidableEq, Repr

/-- `RECV.SEL` (R193): `rd` [15:11], `QMASK` [10:3], `ROT` [2], [1:0] zero. -/
structure FmtRecvSel where
  rm : BitVec 2
  rd : BitVec 5
  qmask : BitVec 8
  rot : Bool
  z : BitVec 2
deriving DecidableEq, Repr

/-- `MOVQ` (R192): `rd` [15:11], queue [10:8], `W` [7], [6:0] zero. -/
structure FmtMovq where
  rm : BitVec 2
  rd : BitVec 5
  q : BitVec 3
  w : Bool
  z : BitVec 7
deriving DecidableEq, Repr

/-- `PSET` and `PCLR` (R203): `ra` [15:11], [10:0] zero. -/
structure FmtPset where
  rm : BitVec 2
  ra : BitVec 5
  z : BitVec 11
deriving DecidableEq, Repr

/-- `PWAIT` (R204): `rd` [15:11], `ra` [10:6], `CLR` [5], [4:0] zero. -/
structure FmtPwait where
  rm : BitVec 2
  rd : BitVec 5
  ra : BitVec 5
  clr : Bool
  z : BitVec 5
deriving DecidableEq, Repr

/-- `BARR` (R207): `rd` [15:11], barrier [10:4], [1:0] zero; `OP` [3:2] is the constructor's. -/
structure FmtBarr where
  rm : BitVec 2
  rd : BitVec 5
  id : BitVec 7
  z : BitVec 2
deriving DecidableEq, Repr

/-- `BARM` (R206): `ra` [15:11], barrier [10:4], [3:0] zero. -/
structure FmtBarm where
  rm : BitVec 2
  ra : BitVec 5
  id : BitVec 7
  z : BitVec 4
deriving DecidableEq, Repr

/-- `HSIG` (R200): `ra` [15:11], n [10:9], [8:0] zero. -/
structure FmtHsig where
  rm : BitVec 2
  ra : BitVec 5
  n : BitVec 2
  z : BitVec 9
deriving DecidableEq, Repr

/-- Which of `CSRW`, `CSRS` and `CSRC` makes a control-register write that has a row of its own (R82). -/
inductive CsrOp where
  | write
  | set
  | clear
deriving DecidableEq, Repr

/-- The matrix control registers of R109 that a `TCFG_WRITE` names: `TCFG0`-`TCFG7`, `TROW`, `TFAULT`. -/
inductive MatCsr where
  | tcfg (n : BitVec 3)
  | trow
  | tfault
deriving DecidableEq, Repr

/-! ### Operands of the events -/

/-- What the code over the data of an access finds (R276-R278). -/
inductive Ecc where
  | good
  | corrected
  | uncorrectable
deriving DecidableEq, Repr

/-- What the code of a network finds in an item (R413 indices 9, 10): nothing, an error that it corrects, an
uncorrectable payload, an uncorrectable header. -/
inductive NetEcc where
  | good
  | corrected
  | payload
  | header
deriving DecidableEq, Repr

/-- The side of a stream channel that a beat serves (R166). -/
inductive BeatSide where
  | source
  | destination
deriving DecidableEq, Repr

/-- Who sends a refused message again (R184, R199): a thread's message unit, or the control complex for a host
signal of a partition. -/
inductive Resender where
  | thread (core : BitVec 10) (thr : BitVec 2)
  | signal (part : BitVec 3) (sig : Nat)
deriving DecidableEq, Repr

/-- What a `BAR` item says (R375). -/
inductive BarKind where
  | complete
  | release
  | timeout
  | broken
deriving DecidableEq, Repr

/-- A relation of R407 that an audit finds broken (R410-R412): the check's code, its core (0x3FF for none), the value
required, the value found, its index. -/
structure Mismatch where
  check : BitVec 8
  core : BitVec 10
  expect : W64
  found : W64
  index : BitVec 16
deriving DecidableEq, Repr

/-- What the boot flash holds (R432): its bytes from offset 0 on, where the directory lies. -/
structure Flash where
  bytes : List Byte
deriving DecidableEq, Repr

/-- A management message (R465, R466): the SMBus address it is sent to, its MCTP message type and its PCI vendor ID. -/
structure MctpHead where
  addr : BitVec 7
  type : Byte
  vendor : BitVec 16
deriving DecidableEq, Repr

/-- A Set Endpoint ID request (R465; DSP0236). -/
structure SetEid where
  head : MctpHead
  eid : Byte
deriving DecidableEq, Repr

/-- A vendor-defined request (R466): its command byte, how many bytes follow that, and the offset that the first four give. -/
structure MctpReq where
  head : MctpHead
  cmd : Byte
  len : Nat
  off : W32
deriving DecidableEq, Repr

/-- A scan of the TAP (R467): the level of `TRST_N`, and the bits shifted into the boundary register. -/
structure Scan where
  trstN : Bool
  bits : List Bool
deriving DecidableEq, Repr

/-- What a control processor meets (R413 index 17): which one, and whether its memory's code corrects it. -/
structure CpError where
  cp1 : Bool
  corrected : Bool
deriving DecidableEq, Repr

/-- A flit as it is received (R346, R347): FEC codewords corrected and uncorrectable in it, and its 256 bytes. -/
structure Flit where
  fecCorr : Nat
  fecUnc : Nat
  bytes : List Byte
deriving DecidableEq, Repr

/-- What a check of the credits learns from the peer of one direction, by class (R356, R358): of the direction to the peer,
the credits of its receive buffer that hold items, of the other one, the credits that it may spend; and the credits in
flight. -/
structure CreditSide where
  held : List Nat
  moving : List Nat
deriving DecidableEq, Repr

/-- The same of both directions: to the peer, and from it. -/
structure CreditView where
  tx : CreditSide
  rx : CreditSide
deriving DecidableEq, Repr

/-- What the codes find at a beat of a stream channel: over the bytes that it moves, and over its descriptor (R179). -/
structure BeatEcc where
  data : Ecc
  store : Ecc
deriving DecidableEq, Repr

/-- A write of a completion to its ring, and what the link meets for it (R309, R413 index 14): nothing, a replay, an error that it
reports. -/
structure ComplWrite where
  ring : BitVec 9
  link : Ecc
deriving DecidableEq, Repr

/-- A port that tries to train, and whether it has a peer (R348). -/
structure PortPeer where
  port : BitVec 4
  peer : Bool
deriving DecidableEq, Repr

/-- A write to a doorbell page (R294, R301): the function through whose BAR2 it comes, the page, the bytes written. -/
structure DoorWrite where
  fn : BitVec 4
  page : BitVec 8
  size : BitVec 4
deriving DecidableEq, Repr

/-- The page of a partition's registers: through the BAR0 of the PF, or of the VF that serves it (R294). -/
structure PartPage where
  vf : Bool
  part : BitVec 3
deriving DecidableEq, Repr

/-- The header of an item from another device (R354): request identifier, origin device, core, thread, offset, and
whether it travels on `BULK`; whether a control complex sent it, and its stream channel. The offset of a `MSG` is 0. -/
structure RemIn where
  req : W32
  dev : BitVec 17
  core : BitVec 10
  thr : BitVec 2
  off : W64
  bulk : Bool
  cc : Bool
  stream : BitVec 3
deriving DecidableEq, Repr

/-- An item on a link (R354): the fields of its header, with its dateline class, whether the control complex sent it and
its stream channel; the offset, operation and send time of its extension, where it has one, else its request's offset
(R363); its payload. -/
structure Transit where
  ty : BitVec 4
  chan : BitVec 3
  dl : Bool
  dst : BitVec 17
  org : BitVec 17
  core : BitVec 10
  cc : Bool
  thr : BitVec 2
  stream : BitVec 3
  req : W32
  off : W64
  op : BitVec 17
  time : W64
  payload : List Byte
deriving DecidableEq, Repr

/-- The answer to a request of this device (R354, R369). -/
inductive RemAns where
  | data (bytes : List Byte)
  | ack
  | err (code : BitVec 4)
  | answer (accepted : Bool)
deriving DecidableEq, Repr

/-- What the decoder's reads of host memory bring with a packet (R305): whether the read of its slots succeeded, and the opcode and
the slot count in the header at `HEAD` of other ring pairs. -/
structure HostFetch where
  ok : Bool
  heads : List (BitVec 9 × Byte × Byte)
deriving DecidableEq, Repr

/-- What the host writes to the controls of a function in its configuration space (R292, R313): Bus Master Enable, D3hot in place
of D0, Enable and Function Mask of MSI-X, and the bits that clear in the AER uncorrectable error status of the PF. -/
structure PciControl where
  busMaster : Bool
  d3hot : Bool
  msixOn : Bool
  msixMask : Bool
  aerClear : W32
deriving DecidableEq, Repr

/-- The bytes of an 8-byte register that an access covers (R469): all, the low half, the high half; none, for an access of
another size or one that is not naturally aligned. -/
inductive RegHalf where
  | all
  | low
  | high
  | other
deriving DecidableEq, Repr


/-- The commands. -/
inductive Instr where
  /-- `ADD` (R88). ALU instruction that adds two 64-bit registers with wrap-around. -/
  | add (x : Iss) (o : FmtR)
  /-- `SUB` (R88). ALU instruction that subtracts rb from ra with wrap-around. -/
  | sub (x : Iss) (o : FmtR)
  /-- `AND` (R88). ALU instruction: bitwise AND of two registers. -/
  | and (x : Iss) (o : FmtR)
  /-- `OR` (R88). ALU instruction: bitwise OR of two registers. -/
  | or (x : Iss) (o : FmtR)
  /-- `XOR` (R88). ALU instruction: bitwise XOR of two registers. -/
  | xor (x : Iss) (o : FmtR)
  /-- `ANDN` (R88). ALU instruction: ra AND NOT rb. -/
  | andn (x : Iss) (o : FmtR)
  /-- `SLL` (R88). ALU instruction: logical shift left by rb[5:0]. -/
  | sll (x : Iss) (o : FmtR)
  /-- `SRL` (R88). ALU instruction: logical shift right by rb[5:0]. -/
  | srl (x : Iss) (o : FmtR)
  /-- `SRA` (R88). ALU instruction: arithmetic shift right by rb[5:0]. -/
  | sra (x : Iss) (o : FmtR)
  /-- `MIN` (R88). ALU instruction: signed minimum. -/
  | min (x : Iss) (o : FmtR)
  /-- `MAX` (R88). ALU instruction: signed maximum. -/
  | max (x : Iss) (o : FmtR)
  /-- `MINU` (R88). ALU instruction: unsigned minimum. -/
  | minu (x : Iss) (o : FmtR)
  /-- `MAXU` (R88). ALU instruction: unsigned maximum. -/
  | maxu (x : Iss) (o : FmtR)
  /-- `CLZ` (R88). ALU instruction: count leading zeros, 64 for zero. -/
  | clz (x : Iss) (o : FmtR)
  /-- `CTZ` (R88). ALU instruction: count trailing zeros, 64 for zero. -/
  | ctz (x : Iss) (o : FmtR)
  /-- `POPC` (R88). ALU instruction: population count. -/
  | popc (x : Iss) (o : FmtR)
  /-- `MUL` (R88). ALU instruction: low 64 bits of the product, usable after 3 cycles. -/
  | mul (x : Iss) (o : FmtR)
  /-- `MULH` (R88). ALU instruction: high 64 bits of the signed product. -/
  | mulh (x : Iss) (o : FmtR)
  /-- `MULHU` (R88). ALU instruction: high 64 bits of the unsigned product. -/
  | mulhu (x : Iss) (o : FmtR)
  /-- `DIV` (R88). ALU instruction: signed truncating division, never raising an exception. -/
  | div (x : Iss) (o : FmtR)
  /-- `DIVU` (R88). ALU instruction: unsigned division. -/
  | divu (x : Iss) (o : FmtR)
  /-- `REM` (R88). ALU instruction: signed remainder with the sign of ra. -/
  | rem (x : Iss) (o : FmtR)
  /-- `REMU` (R88). ALU instruction: unsigned remainder. -/
  | remu (x : Iss) (o : FmtR)
  /-- `ADDI` (R87). Adds a sign-extended 12-bit immediate to ra. -/
  | addi (x : Iss) (o : FmtI)
  /-- `ANDI` (R87). ANDs ra with a zero-extended immediate. -/
  | andi (x : Iss) (o : FmtI)
  /-- `ORI` (R87). ORs ra with a zero-extended immediate. -/
  | ori (x : Iss) (o : FmtI)
  /-- `XORI` (R87). XORs ra with a zero-extended immediate. -/
  | xori (x : Iss) (o : FmtI)
  /-- `SLLI` (R87). Shifts ra left by an immediate amount. -/
  | slli (x : Iss) (o : FmtSh)
  /-- `SRLI` (R87). Shifts ra right logically by an immediate amount. -/
  | srli (x : Iss) (o : FmtSh)
  /-- `SRAI` (R87). Shifts ra right arithmetically by an immediate amount. -/
  | srai (x : Iss) (o : FmtSh)
  /-- `LUI` (R87). Writes rd with the sign-extended 17-bit immediate times 4,096. -/
  | lui (x : Iss) (o : FmtU)
  /-- `CMP` (R90). Compares two registers under a condition and writes a predicate. -/
  | cmp (x : Iss) (o : FmtCmp)
  /-- `CMPI` (R90). Compares a register with a sign-extended immediate and writes a predicate. -/
  | cmpi (x : Iss) (o : FmtCmpi)
  /-- `PLOG_AND` (R90). Predicate logic: pd = pa AND pb. -/
  | plogAnd (x : Iss) (o : FmtL)
  /-- `PLOG_OR` (R90). Predicate logic: pd = pa OR pb. -/
  | plogOr (x : Iss) (o : FmtL)
  /-- `PLOG_XOR` (R90). Predicate logic: pd = pa XOR pb. -/
  | plogXor (x : Iss) (o : FmtL)
  /-- `PLOG_ANDN` (R90). Predicate logic: pd = pa AND NOT pb. -/
  | plogAndn (x : Iss) (o : FmtL)
  /-- `PLOG_ORN` (R90). Predicate logic: pd = pa OR NOT pb. -/
  | plogOrn (x : Iss) (o : FmtL)
  /-- `PLOG_MOV` (R90). Predicate logic: pd = pa. -/
  | plogMov (x : Iss) (o : FmtL)
  /-- `PLOG_NOT` (R90). Predicate logic: pd = NOT pa. -/
  | plogNot (x : Iss) (o : FmtL)
  /-- `PLOG_SET` (R90). Predicate logic: pd = true. -/
  | plogSet (x : Iss) (o : FmtL)
  /-- `PLOG_CLR` (R90). Predicate logic: pd = false. -/
  | plogClr (x : Iss) (o : FmtL)
  /-- `BR` (R87). Branches to PC plus the displacement. -/
  | br (x : Iss) (disp : BitVec 22)
  /-- `CALL` (R87). Writes the return address to g1 and branches. -/
  | call (x : Iss) (disp : BitVec 22)
  /-- `JALR` (R87). Writes the return address and jumps to a register target. -/
  | jalr (x : Iss) (o : FmtI)
  /-- `RPT` (R96). Repeat prefix that runs the next instruction a register count of times, interruptible between repetitions. -/
  | rpt (x : Iss) (o : FmtRpt) (next : W32)
  /-- `RPTN` (R96). Repeat prefix with an immediate count, not interruptible until its last repetition. -/
  | rptn (x : Iss) (o : FmtRptn) (next : W32)
  /-- `CSRR` (R82). Reads a control register into rd. -/
  | csrr (x : Iss) (o : FmtI)
  /-- `CSRW` (R82). Writes a control register from ra. -/
  | csrw (x : Iss) (o : FmtI)
  /-- `CSRS` (R82). Sets the named bits of a control register. -/
  | csrs (x : Iss) (o : FmtI)
  /-- `CSRC` (R82). Clears the named bits of a control register. -/
  | csrc (x : Iss) (o : FmtI)
  /-- `LD8` (R87). Loads a sign-extended byte, visible to the third following instruction. -/
  | ld8 (x : Iss) (o : FmtM)
  /-- `LD8U` (R87). Loads a zero-extended byte. -/
  | ld8u (x : Iss) (o : FmtM)
  /-- `LD16` (R87). Loads a sign-extended 16-bit value. -/
  | ld16 (x : Iss) (o : FmtM)
  /-- `LD16U` (R87). Loads a zero-extended 16-bit value. -/
  | ld16u (x : Iss) (o : FmtM)
  /-- `LD32` (R87). Loads a sign-extended 32-bit value. -/
  | ld32 (x : Iss) (o : FmtM)
  /-- `LD32U` (R87). Loads a zero-extended 32-bit value. -/
  | ld32u (x : Iss) (o : FmtM)
  /-- `LD64` (R87). Loads a 64-bit value. -/
  | ld64 (x : Iss) (o : FmtM)
  /-- `ST8` (R87). Stores the low byte of rs, written through to its home. -/
  | st8 (x : Iss) (o : FmtM)
  /-- `ST16` (R87). Stores the low 16 bits of rs. -/
  | st16 (x : Iss) (o : FmtM)
  /-- `ST32` (R87). Stores the low 32 bits of rs. -/
  | st32 (x : Iss) (o : FmtM)
  /-- `ST64` (R87). Stores rs. -/
  | st64 (x : Iss) (o : FmtM)
  /-- `LD_ACQ` (R225). Acquire load: waits for earlier accesses, invalidates the whole data cache, reads at the home and holds later accesses. -/
  | ldAcq (x : Iss) (o : FmtM)
  /-- `ST_REL` (R227). Release store performed after every earlier local access of the thread is complete. -/
  | stRel (x : Iss) (o : FmtM)
  /-- `LD_ACQR` (R226). Acquire load that invalidates only an aligned power-of-two block of the data cache. -/
  | ldAcqr (x : Iss) (o : FmtR) (func : BitVec 7)
  /-- `AMO_ADD` (R229). Atomic add performed indivisibly at the home, returning the old value. -/
  | amoAdd (x : Iss) (o : FmtAmo)
  /-- `AMO_AND` (R229). Atomic AND at the home. -/
  | amoAnd (x : Iss) (o : FmtAmo)
  /-- `AMO_OR` (R229). Atomic OR at the home. -/
  | amoOr (x : Iss) (o : FmtAmo)
  /-- `AMO_XOR` (R229). Atomic XOR at the home. -/
  | amoXor (x : Iss) (o : FmtAmo)
  /-- `AMO_SWAP` (R229). Atomic swap at the home. -/
  | amoSwap (x : Iss) (o : FmtAmo)
  /-- `AMO_MIN` (R229). Atomic signed minimum at the home. -/
  | amoMin (x : Iss) (o : FmtAmo)
  /-- `AMO_MAX` (R229). Atomic signed maximum at the home. -/
  | amoMax (x : Iss) (o : FmtAmo)
  /-- `AMO_MINU` (R229). Atomic unsigned minimum at the home. -/
  | amoMinu (x : Iss) (o : FmtAmo)
  /-- `AMO_MAXU` (R229). Atomic unsigned maximum at the home. -/
  | amoMaxu (x : Iss) (o : FmtAmo)
  /-- `AMO_CAS` (R91). Atomic compare-and-swap at the home. -/
  | amoCas (x : Iss) (o : FmtAmo)
  /-- `WAITM` (R230). Reads a word at its home and waits for it to differ from rb, up to a cycle limit. -/
  | waitm (x : Iss) (o : FmtR) (func : BitVec 7)
  /-- `SYS_NOP` (R89). The no-operation instruction. -/
  | sysNop (x : Iss) (o : FmtS)
  /-- `SYSCALL` (R89). Raises the SYSCALL exception with the immediate in STVAL. -/
  | syscall (x : Iss) (o : FmtS)
  /-- `BREAK` (R89). Raises the BREAKPOINT exception. -/
  | brk (x : Iss) (o : FmtS)
  /-- `ERET` (R100). Restores MODE and IE and resumes at SEPC, continuing repetitions when active. -/
  | eret (x : Iss) (o : FmtS)
  /-- `REMFENCE` (R232). Waits until every earlier remote write of the thread is acknowledged, raising ACCESS on a failed one. -/
  | remfence (x : Iss) (o : FmtS)
  /-- `IINV` (R89). Invalidates the core's instruction cache. -/
  | iinv (x : Iss) (o : FmtS)
  /-- `CTXSV` (R103). Saves the context of a stopped thread of the same core to memory. -/
  | ctxsv (x : Iss) (o : FmtS)
  /-- `CTXLD` (R103). Loads the context of a stopped thread of the same core from memory and clears HALTED. -/
  | ctxld (x : Iss) (o : FmtS)
  /-- `TLD` (R126). Loads tile rows from memory from row TROW on, resumable at row boundaries. -/
  | tld (x : Iss) (o : FmtCM)
  /-- `TST` (R126). Stores tile rows to memory from row TROW on, resumable at row boundaries. -/
  | tst (x : Iss) (o : FmtCM)
  /-- `TMMA` (R115). Multiplies two operand tiles into an accumulator with one rounding per element. -/
  | tmma (x : Iss) (o : FmtTmma)
  /-- `TZERO` (R111). Sets the named accumulators to zero, marks them in use and sets their types. -/
  | tzero (x : Iss) (o : FmtTzero)
  /-- `TFREE` (R111). Frees and zeroes the named tiles and accumulators. -/
  | tfree (x : Iss) (o : FmtTfree)
  /-- `TSLD` (R121). Loads a scale register from memory, all rows or none. -/
  | tsld (x : Iss) (o : FmtCM)
  /-- `TSST` (R121). Stores a scale register to memory, all rows or none. -/
  | tsst (x : Iss) (o : FmtCM)
  /-- `TFIN` (R120). Hands an accumulator to the finished-tile queue and frees it. -/
  | tfin (x : Iss) (o : FmtTfin)
  /-- `TALD` (R121). Loads an accumulator from memory with a stated type. -/
  | tald (x : Iss) (o : FmtCM)
  /-- `TAST` (R121). Stores an accumulator to memory. -/
  | tast (x : Iss) (o : FmtCM)
  /-- `VLD` (R140). Loads four 64-byte rows into a vector register, all or none. -/
  | vld (x : Iss) (o : FmtCM)
  /-- `VST` (R140). Stores a vector register as four rows, written through. -/
  | vst (x : Iss) (o : FmtCM)
  /-- `VARITH_ADD` (R143). Vector lane-wise add of FP32 or INT32 lanes below VL. -/
  | varithAdd (x : Iss) (o : FmtVar)
  /-- `VARITH_SUB` (R143). Vector lane-wise subtract. -/
  | varithSub (x : Iss) (o : FmtVar)
  /-- `VARITH_MUL` (R143). Vector lane-wise multiply. -/
  | varithMul (x : Iss) (o : FmtVar)
  /-- `VARITH_MIN` (R143). Vector lane-wise minimum. -/
  | varithMin (x : Iss) (o : FmtVar)
  /-- `VARITH_MAX` (R143). Vector lane-wise maximum. -/
  | varithMax (x : Iss) (o : FmtVar)
  /-- `VARITH_FMA` (R143). Vector fused multiply-add (MAC for INT32), rounded once. -/
  | varithFma (x : Iss) (o : FmtVar)
  /-- `VARITH_FMS` (R143). Vector fused multiply-subtract, rounded once. -/
  | varithFms (x : Iss) (o : FmtVar)
  /-- `VARITH_ABS` (R143). Vector lane-wise absolute value. -/
  | varithAbs (x : Iss) (o : FmtVar)
  /-- `VARITH_NEG` (R143). Vector lane-wise negation. -/
  | varithNeg (x : Iss) (o : FmtVar)
  /-- `VCMP` (R144). Vector lane-wise compare writing all-ones or zero per lane. -/
  | vcmp (x : Iss) (o : FmtVcmp)
  /-- `VCVT_NARROW` (R148). Converts a group of wide registers into a narrow type, with optional block scales. -/
  | vcvtNarrow (x : Iss) (o : FmtVcvt)
  /-- `VCVT_WIDEN` (R148). Converts a narrow register into a group of wide registers, with optional block scales. -/
  | vcvtWiden (x : Iss) (o : FmtVcvt)
  /-- `VSF_EXP` (R147). Vector special function e^x. -/
  | vsfExp (x : Iss) (o : FmtVV)
  /-- `VSF_EXP2` (R147). Vector special function 2^x. -/
  | vsfExp2 (x : Iss) (o : FmtVV)
  /-- `VSF_LOG` (R147). Vector special function natural logarithm. -/
  | vsfLog (x : Iss) (o : FmtVV)
  /-- `VSF_LOG2` (R147). Vector special function base-2 logarithm. -/
  | vsfLog2 (x : Iss) (o : FmtVV)
  /-- `VSF_RCP` (R147). Vector reciprocal, correctly rounded. -/
  | vsfRcp (x : Iss) (o : FmtVV)
  /-- `VSF_SQRT` (R147). Vector square root, correctly rounded. -/
  | vsfSqrt (x : Iss) (o : FmtVV)
  /-- `VSF_RSQRT` (R147). Vector reciprocal square root. -/
  | vsfRsqrt (x : Iss) (o : FmtVV)
  /-- `VSF_TANH` (R147). Vector hyperbolic tangent. -/
  | vsfTanh (x : Iss) (o : FmtVV)
  /-- `VSF_SIGMOID` (R147). Vector sigmoid. -/
  | vsfSigmoid (x : Iss) (o : FmtVV)
  /-- `VSF_ERF` (R147). Vector error function. -/
  | vsfErf (x : Iss) (o : FmtVV)
  /-- `VSF_SIN` (R147). Vector sine. -/
  | vsfSin (x : Iss) (o : FmtVV)
  /-- `VSF_COS` (R147). Vector cosine. -/
  | vsfCos (x : Iss) (o : FmtVV)
  /-- `VRED_SUM` (R146). FP32 exact sum of a segment, rounded once and broadcast. -/
  | vredSum (x : Iss) (o : FmtVred)
  /-- `VRED_MAX` (R146). FP32 maximum of a segment, broadcast. -/
  | vredMax (x : Iss) (o : FmtVred)
  /-- `VRED_MIN` (R146). FP32 minimum of a segment, broadcast. -/
  | vredMin (x : Iss) (o : FmtVred)
  /-- `VRED_ARGMAX` (R146). Lowest lane index holding the FP32 maximum of a segment. -/
  | vredArgmax (x : Iss) (o : FmtVred)
  /-- `VRED_INT_SUM` (R146). INT32 saturated sum of a segment. -/
  | vredIntSum (x : Iss) (o : FmtVred)
  /-- `VRED_INT_MAX` (R146). INT32 maximum of a segment. -/
  | vredIntMax (x : Iss) (o : FmtVred)
  /-- `VRED_INT_MIN` (R146). INT32 minimum of a segment. -/
  | vredIntMin (x : Iss) (o : FmtVred)
  /-- `VPERM` (R145). Permutes the lanes of va into vd by indices held in vd. -/
  | vperm (x : Iss) (o : FmtVperm)
  /-- `VMOVT_TO_MATRIX` (R141). Bit-copies a vector register into a tile, scale register or accumulator group. -/
  | vmovtToMatrix (x : Iss) (o : FmtVmovt)
  /-- `VMOVT_TO_VECTOR` (R141). Bit-copies a tile, scale or accumulator group into a vector register. -/
  | vmovtToVector (x : Iss) (o : FmtVmovt)
  /-- `VFTQ_READ` (R151). Copies two rows of the head finished-tile queue entry into a vector register, stalling while empty. -/
  | vftqRead (x : Iss) (o : FmtVftq)
  /-- `VFTQ_POP` (R151). Removes the head finished-tile queue entry and sets pennant 21. -/
  | vftqPop (x : Iss) (o : FmtVftq)
  /-- `VFTQ_STAT` (R151). Writes the head entry's tag, type, accumulator and the entry count to a general register. -/
  | vftqStat (x : Iss) (o : FmtVftq)
  /-- `VSETVL` (R137). Sets VL to the minimum of a register and the type's cap and returns it. -/
  | vsetvl (x : Iss) (o : FmtVsetvl)
  /-- `VBIT_AND` (R145). Vector bitwise AND. -/
  | vbitAnd (x : Iss) (o : FmtVV)
  /-- `VBIT_OR` (R145). Vector bitwise OR. -/
  | vbitOr (x : Iss) (o : FmtVV)
  /-- `VBIT_XOR` (R145). Vector bitwise XOR. -/
  | vbitXor (x : Iss) (o : FmtVV)
  /-- `VBIT_ANDN` (R145). Vector bitwise AND NOT. -/
  | vbitAndn (x : Iss) (o : FmtVV)
  /-- `VBIT_SLL` (R145). Vector lane-wise logical shift left. -/
  | vbitSll (x : Iss) (o : FmtVV)
  /-- `VBIT_SRL` (R145). Vector lane-wise logical shift right. -/
  | vbitSrl (x : Iss) (o : FmtVV)
  /-- `VBIT_SRA` (R145). Vector lane-wise arithmetic shift right. -/
  | vbitSra (x : Iss) (o : FmtVV)
  /-- `VBIT_SEL` (R145). Vector bitwise select under a mask register. -/
  | vbitSel (x : Iss) (o : FmtVV)
  /-- `VBIT_MOV` (R145). Vector lane copy. -/
  | vbitMov (x : Iss) (o : FmtVV)
  /-- `VMOVG_BCAST` (R142). Broadcasts a general register's low 32 bits to all lanes. -/
  | vmovgBcast (x : Iss) (o : FmtVmovg)
  /-- `VMOVG_GET0` (R142). Moves lane 0 of a vector register to a general register. -/
  | vmovgGet0 (x : Iss) (o : FmtVmovg)
  /-- `VMOVG_GET` (R142). Moves a named lane of a vector register to a general register. -/
  | vmovgGet (x : Iss) (o : FmtVmovg)
  /-- `SDESC_POST` (R159). Checks and loads a descriptor list into a channel and starts it. -/
  | sdescPost (x : Iss) (o : FmtSdesc)
  /-- `SDESC_RESUME` (R159). Resumes a STOPPED or resumable FAULTED channel. -/
  | sdescResume (x : Iss) (o : FmtSdesc)
  /-- `SSTOP` (R161). Moves a RUNNING channel to STOPPING. -/
  | sstop (x : Iss) (o : FmtSstop)
  /-- `SSTAT` (R161). Reads a channel status word into a register. -/
  | sstat (x : Iss) (o : FmtSstat)
  /-- `SEND` (R184). Checks a header and injects a Towpath message, blocking until it is accepted. -/
  | send (x : Iss) (o : FmtSend)
  /-- `RECV_SEL` (R193). Pops one word from the chosen non-empty queue of a mask. -/
  | recvSel (x : Iss) (o : FmtRecvSel)
  /-- `MOVQ` (R192). Pops one or two words from a receive queue. -/
  | movq (x : Iss) (o : FmtMovq)
  /-- `PSET` (R203). Sets pennants named by a register. -/
  | pset (x : Iss) (o : FmtPset)
  /-- `PCLR` (R203). Clears pennants named by a register. -/
  | pclr (x : Iss) (o : FmtPset)
  /-- `PWAIT` (R204). Waits for a pennant of PMASK or a cycle limit. -/
  | pwait (x : Iss) (o : FmtPwait)
  /-- `BARR_WAIT` (R207). Arrives at a barrier and waits for its outcome. -/
  | barrWait (x : Iss) (o : FmtBarr)
  /-- `BARR_ARRIVE` (R207). Arrives at a barrier and continues; pennant 28 reports the outcome. -/
  | barrArrive (x : Iss) (o : FmtBarr)
  /-- `BARR_TEST` (R207). Reports a barrier outcome without arriving. -/
  | barrTest (x : Iss) (o : FmtBarr)
  /-- `BARM` (R206). Arms a barrier with a count and timeout. -/
  | barm (x : Iss) (o : FmtBarm)
  /-- `HSIG` (R200). Hands a value to the control complex for a host-signal completion. -/
  | hsig (x : Iss) (o : FmtHsig)
  /-- `ENGBIND_WRITE` (R83). Write of ENGBIND that drains both engines and rebinds them, clearing TROW on a matrix change. -/
  | engbindWrite (x : Iss) (op : CsrOp) (ra : BitVec 5)
  /-- `TCFG_WRITE` (R109). Write of a matrix control register after the engine drains. -/
  | tcfgWrite (x : Iss) (op : CsrOp) (ra : BitVec 5) (reg : MatCsr)
  /-- `TIU_WRITE` (R110). Write of TIU marking registers in use or freeing them. -/
  | tiuWrite (x : Iss) (op : CsrOp) (ra : BitVec 5)
  /-- `VL_WRITE` (R137). Write of VL, clamped to 512, after queued vector instructions. -/
  | vlWrite (x : Iss) (op : CsrOp) (ra : BitVec 5)
  /-- `SRSEED_WRITE` (R66). Write of the thread's generator state, 0 stored as 1. -/
  | srseedWrite (x : Iss) (op : CsrOp) (ra : BitVec 5)
  /-- `THREAD_RUN_REQUEST` (R79). Write of RUN = 1 that starts a stopped thread unless it is halted. -/
  | threadRunRequest (x : Iss) (op : CsrOp) (ra : BitVec 5) (target : BitVec 2)
  /-- `THREAD_STOP_REQUEST` (R79). Write of RUN = 0 that requests a thread stop. -/
  | threadStopRequest (x : Iss) (op : CsrOp) (ra : BitVec 5) (target : BitVec 2)
  /-- `THREAD_STOP` (R102). A requested stop taken at a qualifying instruction boundary, retiring issued instructions. -/
  | threadStop (core : BitVec 10) (thr : BitVec 2)
  /-- `INTERRUPT_ENTRY` (R101). A pending enabled interrupt is taken at a qualifying instruction boundary. -/
  | interruptEntry (core : BitVec 10) (thr : BitVec 2)
  /-- `LOAD_ARRIVAL` (R93). A loaded value arrives and becomes visible at its visibility point. -/
  | loadArrival (core : BitVec 10) (id : Nat) (net : NetEcc)
  /-- `HOME_READ` (R216). A read is performed at the home of its bytes in the home order. -/
  | homeRead (core : BitVec 10) (id : Nat) (ecc : Ecc)
  /-- `HOME_WRITE` (R216). A write is performed at its home and acknowledged. -/
  | homeWrite (core : BitVec 10) (id : Nat) (net : NetEcc)
  /-- `HOME_ATOMIC` (R229). An atomic read-modify-write is performed indivisibly at its home. -/
  | homeAtomic (core : BitVec 10) (id : Nat) (ecc : Ecc)
  /-- `WRITE_ACKNOWLEDGEMENT` (R217). A write's acknowledgement reaches the writing core and releases its scoreboard entry. -/
  | writeAcknowledgement (core : BitVec 10) (id : Nat)
  /-- `REMOTE_WRITE_ERROR` (R233). An error response to a posted remote write sets pennant 31 and arms ACCESS at REMFENCE. -/
  | remoteWriteError (core : BitVec 10) (id : Nat)
  /-- `WAITM_WATCH_TRIGGER` (R230). A write at the home changes a watched word and ends the WAITM. -/
  | waitmWatchTrigger (core : BitVec 10) (thr : BitVec 2)
  /-- `WAITM_POLL` (R230). A WAITM without a free watch rereads its word every 256 cycles. -/
  | waitmPoll (core : BitVec 10) (thr : BitVec 2) (ecc : Ecc)
  /-- `WAITM_TIMEOUT` (R230). The WAITM limit runs out and it returns rb. -/
  | waitmTimeout (core : BitVec 10) (thr : BitVec 2)
  /-- `TMMA_COLLECT` (R119). A TMMA copies its operand rows and scales into a collector buffer once the port and a buffer are free. -/
  | tmmaCollect (core : BitVec 10) (ecc : Ecc)
  /-- `TMMA_FINISH` (R119). A TMMA's finish stage adds the accumulator input, compares the checksum, rounds and writes. -/
  | tmmaFinish (core : BitVec 10) (mismatch : Bool)
  /-- `CHECKSUM_FAIL` (R131). A second checksum mismatch raises CHECKSUM_FAIL and marks the core suspect. -/
  | checksumFail (core : BitVec 10)
  /-- `TFIN_COPY_DONE` (R120). A TFIN copy ends, the queue entry becomes readable and the accumulator is freed. -/
  | tfinCopyDone (core : BitVec 10)
  /-- `TILE_ROW_TRANSFER` (R126). One row of a TLD or TST is transferred and TROW advances. -/
  | tileRowTransfer (core : BitVec 10) (thr : BitVec 2) (ecc : Ecc)
  /-- `CHANNEL_BEAT` (R166). A stream channel performs one read or write beat through its holding register. -/
  | channelBeat (core : BitVec 10) (ch : BitVec 3) (side : BeatSide) (ecc : BeatEcc)
  /-- `BLOCK_LIST_ENTRY_READ` (R165). A channel reads and checks a block-list entry before its first byte. -/
  | blockListEntryRead (core : BitVec 10) (ch : BitVec 3) (side : BeatSide) (ecc : Ecc)
  /-- `DESCRIPTOR_COMPLETE` (R166). A descriptor completes when all its writes are acknowledged, and the channel moves on, stops or goes idle. -/
  | descriptorComplete (core : BitVec 10) (ch : BitVec 3)
  /-- `NI_SLOT_INJECT` (R173). The network interface injects one item of its slot's kind in a core cycle. -/
  | niSlotInject (core : BitVec 10) (slot : BitVec 4)
  /-- `MESSAGE_ARRIVAL` (R190). A message arrives, is matched and is placed in a queue, spilled or refused. -/
  | messageArrival (id : Nat) (net : NetEcc)
  /-- `SEND_ANSWER_ARRIVAL` (R184). An acceptance or refusal reaches the sender, retiring the SEND or holding the message. -/
  | sendAnswerArrival (core : BitVec 10) (thr : BitVec 2)
  /-- `MESSAGE_RESEND` (R184). A held refused message is sent again 64 cycles after the refusal. -/
  | messageResend (src : Resender)
  /-- `SEND_WAIT` (R185). SWLIM is reached and the held message is withdrawn with the SEND_WAIT exception. -/
  | sendWait (core : BitVec 10) (thr : BitVec 2)
  /-- `SPILL_RECORD_MOVE` (R191). The oldest spill record moves into its queue once it fits. -/
  | spillRecordMove (core : BitVec 10) (queue : BitVec 3) (ecc : Ecc)
  /-- `DEAD_LETTER_WRITE` (R196). A held dead-letter record is written to the partition's ring when space exists. -/
  | deadLetterWrite (part : BitVec 3)
  /-- `BARRIER_ARRIVAL` (R208). An arrival reaches the root and counts in ARRIVED. -/
  | barrierArrival (part : BitVec 3) (bar : BitVec 7) (core : BitVec 10) (thr : BitVec 2)
  /-- `BARRIER_TIMEOUT` (R210). TMO_US passes without release and the barrier becomes TIMEDOUT. -/
  | barrierTimeout (part : BitVec 3) (bar : BitVec 7)
  /-- `LINK_LINE_SEND` (R242). The link unit reads a planned line and launches it on a neighbour link. -/
  | linkLineSend (core : BitVec 10) (dir : BitVec 2)
  /-- `LINK_LINE_WRITE` (R244). A neighbour-link line is written into the destination LM in its planned cycle. -/
  | linkLineWrite (core : BitVec 10) (dir : BitVec 2) (ecc : Ecc)
  /-- `PWAIT_WAKE` (R204). A waiting PWAIT wakes when a masked pennant sets or its limit passes. -/
  | pwaitWake (core : BitVec 10) (thr : BitVec 2) (limit : Bool)
  /-- `DEVTIME_TICK` (R383). The time base adds 1 + r ns in each CLK_TB cycle. -/
  | devtimeTick
  /-- `STEP_BOUNDARY` (R35). DEVTIME reaches a partition boundary and, if taken, the boundary actions run in order. -/
  | stepBoundary (part : BitVec 3) (found : Option Mismatch)
  /-- `SNAPSHOT_COMPLETE` (R402). The control complex finishes writing a snapshot buffer and flips BUF. -/
  | snapshotComplete (part : BitVec 3)
  /-- `STEP_END` (R30). The last core reaches the final barrier, ending the step and forming final completions. -/
  | stepEnd (part : BitVec 3)
  /-- `BAND_OVERRUN` (R52). A step passes its band's B_NS and BAND_OVR counts. -/
  | bandOverrun (part : BitVec 3)
  /-- `OVERRUN` (R52). A step passes B, OVERRUN is set and the Sluice refuses the partition. -/
  | overrun (part : BitVec 3)
  /-- `WDOG_FIRED` (R52). A step passes P; unfinished threads take WATCHDOG and the partition is held. -/
  | wdogFired (part : BitVec 3)
  /-- `PACKET_READ` (R305). The command decoder reads the next whole packet of a ring when allowed and dispatches it. -/
  | packetRead (ring : BitVec 9) (bytes : List Byte) (ok : HostFetch)
  /-- `COMPLETION_WRITE` (R309). A completion, with any pad, is written to its ring once space exists. -/
  | completionWrite (ring : ComplWrite)
  /-- `COALESCING_TIMER` (R311). COAL_US passes since the first counted completion and a message is sent. -/
  | coalescingTimer (ring : BitVec 9)
  /-- `RESTORE_START` (R288). A committed restore starts after the previous one ends. -/
  | restoreStart (part : BitVec 3)
  /-- `RESTORE_END` (R287). A restore finishes copying pages and checks, or fails and aborts the item. -/
  | restoreEnd (part : BitVec 3)
  /-- `MOOR_RECORD_COMPLETE` (R285). The last write of a mooring record is acknowledged, or it fails. -/
  | moorRecordComplete (part : BitVec 3)
  /-- `SCRUB_ACCESS` (R278). A controller scrubs one word or line in an indivisible read-correct-write. -/
  | scrubAccess (pa : W64) (ecc : Ecc) (last : Bool)
  /-- `TRACE_RECORD_WRITE` (R398). The trace writer writes a record to its ring or loses it when full. -/
  | traceRecordWrite (part : BitVec 3)
  /-- `QUARANTINE` (R424). A suspect core is removed from service, with its messages dead-lettered and barriers broken. -/
  | quarantine (core : BitVec 10)
  /-- `DEVICE_CONSERVATION_AUDIT` (R412). CP1 audits shared conserved state every 1 ms. -/
  | deviceConservationAudit (found : Option Mismatch)
  /-- `THERMAL_TRIP` (R417). A sensor reaches 115 °C; clocks stop and THERMTRIP_N goes low. -/
  | thermalTrip
  /-- `SUPPLY_RAIL_OUT_OF_WINDOW` (R453). A monitored rail leaves its window, causing a SUPPLY fault. -/
  | supplyRailOutOfWindow
  /-- `THROTTLE_EVALUATION` (R462). Prelin compares a half's TMAX with THROT and writes its CAP. -/
  | throttleEvaluation (half : Bool) (temp : BitVec 8)
  /-- `POWER_CAP_EVALUATION` (R463). Every 10 ms Prelin compares average power with LIMIT_W and caps or uncaps a half. -/
  | powerCapEvaluation (avg peak west east : BitVec 16)
  /-- `VOLTAGE_LOWER_REQUEST` (R257). 1 µs after a lowering clock change, the lower rail voltage is requested. -/
  | voltageLowerRequest (half : Bool)
  /-- `PG_CHANGE` (R457). A core rail power-good input changes, setting VGOOD or raising a SUPPLY fault. -/
  | pgChange (half : Bool) (level : Bool)
  /-- `PG_WINDOW_EXPIRY` (R457). 100 µs after a VSEL change, a still-low PG becomes a SUPPLY fault. -/
  | pgWindowExpiry (half : Bool)
  /-- `REFERENCE_CLOCK_LOSS` (R458). A PLL loses lock after POR, causing a SUPPLY fault. -/
  | referenceClockLoss
  /-- `PORST_N_FALL` (R455). PORST_N low takes the device to OFF from any state. -/
  | porstNFall
  /-- `PORST_N_RISE` (R428). PORST_N rises and the device enters POR. -/
  | porstNRise (straps : BitVec 3)
  /-- `WARMRST_N_ASSERT` (R455). WARMRST_N falls, starting the 10 µs warm reset qualification. -/
  | warmrstNAssert
  /-- `WARM_RESET` (R455). WARMRST_N has been low 10 µs; the device stops and enters POR. -/
  | warmReset
  /-- `WARMRST_N_RISE` (R428). WARMRST_N rises, letting POR start its work. -/
  | warmrstNRise
  /-- `POR` (R428). With both resets high, POR burns fuse requests, reads fuses, locks PLLs and checks flash. -/
  | por (flash : Flash)
  /-- `SELFTEST` (R428). POR ends and built-in tests of all cores and the die-to-die interface run. -/
  | selftest (failed : List Nat) (d2d : Bool)
  /-- `TRAIN` (R428). SELFTEST ends and memories, fabric ports and device time are trained. -/
  | train (hbm : BitVec 8) (lp : BitVec 24)
  /-- `BOOT` (R433). The first TRAIN pass ends and firmware is authenticated and started. -/
  | boot
  /-- `HOLD` (R428). Prelin reports ready and the device enters HOLD, autocommitting a flash image if marked. -/
  | hold
  /-- `TRAIN_PASS_COMPLETE` (R444). A later TRAIN pass gets a parent and set time and the device enters RUN. -/
  | trainPassComplete
  /-- `PE_PERST_N` (R313). PE_PERST_N resets the host link state and every ring. -/
  | pePerstN (level : Bool)
  /-- `PPS_IN_EDGE` (R388). A PPS_IN rising edge is latched, judged and may adjust the rate. -/
  | ppsInEdge
  /-- `PPS_OUT_EDGE` (R389). DEVTIME passes the phase of the second and PPS_OUT rises. -/
  | ppsOutEdge
  /-- `PPS_LOCK_TIMEOUT` (R388). 3 s with no accepted edge clears PPS_LOCKED. -/
  | ppsLockTimeout
  /-- `KFL_FLIT_RECEIVE` (R351). A flit is received, accepted in sequence or discarded with a NAK. -/
  | kflFlitReceive (port : BitVec 4) (flit : Flit)
  /-- `LINK_ACK_TIMER` (R351). With nothing to send, a link-control flit carries an acknowledgement every 200 ns. -/
  | linkAckTimer (port : BitVec 4)
  /-- `NAK_UNANSWERED` (R356). A NAK unanswered for 2 µs starts a retrain. -/
  | nakUnanswered (port : BitVec 4)
  /-- `LANE_LOCK_LOSS` (R356). A lane of the mode loses lock and the port retrains. -/
  | laneLockLoss (port : BitVec 4) (lane : BitVec 2)
  /-- `RETRAIN_COMPLETE` (R356). Lanes relock, state is exchanged, replay follows and the port returns to UP. -/
  | retrainComplete (port : BitVec 4) (good : BitVec 4) (expect : BitVec 12) (view : CreditView)
  /-- `RETRAIN_TIMEOUT` (R379). A retrain exceeds 100 µs and the port fails. -/
  | retrainTimeout (port : BitVec 4)
  /-- `PORT_TRAINING_COMPLETE` (R349). Training ends with an identity check, giving UP or MISWIRED. -/
  | portTrainingComplete (port : BitVec 4) (good : BitVec 4) (peer : BitVec 17) (peerPort : BitVec 4) (peerDir : BitVec 3)
  /-- `PORT_TRAINING_RETRY` (R348). A port that did not reach UP retries every 5 ms. -/
  | portTrainingRetry (port : PortPeer)
  /-- `LIGHT_CHANGE` (R350). A port's laser feed appears or falls below threshold. -/
  | lightChange (port : BitVec 4) (on : Bool)
  /-- `CREDIT_CHECK` (R358). Every 1 ms both ends check credit conservation, failing the port on mismatch. -/
  | creditCheck (port : BitVec 4) (tx rx : CreditSide)
  /-- `TIME_EXCHANGE` (R377). TIME flits are exchanged every 1 µs and the child slews its counter: the peer's flit says when
  the peer received this device's last one and when it sent its own, and its `DEPTH`. -/
  | timeExchange (port : BitVec 4) (peerRx peerTx : W64) (depth : BitVec 16)
  /-- `TIME_HOLDOVER` (R378). 10 ms without an exchange with the parent sets HOLDOVER. -/
  | timeHoldover
  /-- `TRANSIT_FORWARD` (R364). An item passing through the device is switched from input port to output port. -/
  | transitForward (port : BitVec 4) (item : Transit)
  /-- `REMOTE_READ` (R367). A READ item arrives, is checked against export entries and performed or answered ERR. -/
  | remoteRead (r : RemIn) (len : Nat) (ecc : Ecc)
  /-- `REMOTE_WRITE` (R367). A WRITE item arrives, is checked and performed, then acknowledged. -/
  | remoteWrite (r : RemIn) (bytes : List Byte)
  /-- `REMOTE_AMO` (R367). An AMO item arrives, is checked and performed at its home. -/
  | remoteAmo (r : RemIn) (op : BitVec 4) (w32 : Bool) (opnd exp : W64) (ecc : Ecc)
  /-- `REMOTE_MSG` (R367). A MSG item arrives for a core of this device and is accepted or refused. -/
  | remoteMsg (r : RemIn) (dst : BitVec 10) (tag : BitVec 16) (time : W64) (words : List W32)
  /-- `REMOTE_RESPONSE` (R369). A DATA, ACK or ERR item reaches its origin and completes or fails the request. -/
  | remoteResponse (req : Nat) (ans : RemAns)
  /-- `FAB_RTO_EXPIRY` (R370). No answer within LIMIT_US; the origin answers itself with TIMEOUT. -/
  | fabRtoExpiry (req : Nat)
  /-- `POST_PLACEMENT` (R373). All items of a post have arrived; the post unit places it or refuses it. -/
  | postPlacement (r : RemIn) (chan : BitVec 3) (tag : W32) (time : W64) (bytes : List Byte)
  /-- `POST_RESEND` (R373). A refused post is sent again 1 µs after its refusal. -/
  | postResend (core : BitVec 10) (ch : BitVec 3)
  /-- `FABRIC_BARRIER_EVENT` (R375). A BAR item of completion, release, timeout or break arrives and is applied. -/
  | fabricBarrierEvent (dev : BitVec 17) (group : BitVec 16) (kind : BarKind) (par : Bool)
  /-- `FLR` (R312). A Function Level Reset resets its partitions and writes their ABORTED completions. -/
  | flr (fn : BitVec 4)
  /-- `FLR_END` (R312). 100 ms after an FLR starts, unwritten completions are counted lost and rings disabled. -/
  | flrEnd (fn : BitVec 4)
  /-- `BUS_MASTER_ENABLE_CHANGE` (R313). Bus Master Enable changes, stopping or resuming a function's ring service; with it the
  other controls of the function. -/
  | busMasterEnableChange (fn : BitVec 4) (on : PciControl)
  /-- `VF_ENABLE_CHANGE` (R293). An SR-IOV control write moves partitions between functions, disabling their rings. -/
  | vfEnableChange (en : Bool) (num : BitVec 4)
  /-- `BAR_RESIZE` (R296). A Resizable BAR write changes the BAR4 size while memory space is disabled. -/
  | barResize (log : BitVec 6) (mse : Bool)
  /-- `MSIX_UNMASK` (R311). A vector with its pending bit set is unmasked and its message is sent. -/
  | msixUnmask (fn : BitVec 4) (vec : BitVec 11)
  /-- `BAR4_READ` (R296). A host read through BAR4 is performed at its home or returns an error. -/
  | bar4Read (off : W64) (len : Nat) (ecc : Ecc)
  /-- `BAR4_WRITE` (R296). A host write through BAR4 is performed at its home or discarded with WINERR. -/
  | bar4Write (off : W64) (bytes : List Byte)
  /-- `SQ_TAIL` (R302). Submission doorbell publishing new packets, accepted or refused. -/
  | sqTail (door : DoorWrite) (v : W32)
  /-- `CQ_HEAD` (R302). Completion doorbell freeing consumed completion slots. -/
  | cqHead (door : DoorWrite) (v : W32)
  /-- `RING_ENABLE` (R300). Write of EN from 0 to 1 resets a ring's counts and phase. -/
  | ringEnable (ring : BitVec 9) (cq : Bool) (v : W64)
  /-- `RING_DISABLE` (R300). Write of EN from 1 to 0 stops a ring, holding pending completions. -/
  | ringDisable (ring : BitVec 9) (cq : Bool) (v : W64)
  /-- `HST_WINBASE_WRITE` (R298). Moves the BAR4 window base, ignored when unaligned. -/
  | hstWinbaseWrite (v : W64)
  /-- `PRT_TTFLUSH` (R272). Write of GO starts a flush of the partition's translation caches. -/
  | prtTtflush (part : BitVec 3) (v : W64)
  /-- `TTFLUSH_COMPLETE` (R275). A translation cache flush completes and BUSY clears. -/
  | ttflushComplete (part : BitVec 3)
  /-- `TIM_SET` (R384). Sets DEVTIME when allowed, restarting PPS acceptance. -/
  | timSet (v : W64)
  /-- `ERR_QFORCE` (R423). Write of GO quarantines the named core within 2 µs. -/
  | errQforce (v : W64)
  /-- `ERR_LOGCONS_WRITE` (R420). The host advances the error log's consumed count. -/
  | errLogconsWrite (v : W64)
  /-- `TRC_CFG_WRITE` (R397). Write of the trace ring config; enabling resets PROD and CONS. -/
  | trcCfgWrite (part : BitVec 3) (v : W64)
  /-- `TRC_CONS_WRITE` (R397). The host advances the trace ring's consumed count. -/
  | trcConsWrite (part : BitVec 3) (v : W64)
  /-- `PRT_DLCONS_WRITE` (R196). The reader advances the dead-letter consumed count, letting held records be written. -/
  | prtDlconsWrite (part : BitVec 3) (v : W64)
  /-- `REFUSE_POS_WRITE` (R15). Requests a physical position to be fused out at the next reset. -/
  | refusePosWrite (n : BitVec 6) (v : W32)
  /-- `HALFOP_REQ_WRITE` (R255). Stages a requested operating point for a half, ignored above DECL when LOCKED. -/
  | halfopReqWrite (half : Bool) (v : W64)
  /-- `HALFOP_CAP_WRITE` (R255). Sets a half's capping ceiling, acting through the target. -/
  | halfopCapWrite (half : Bool) (v : W64)
  /-- `FAB_PCTL_RETRAIN` (R350). Write of RETRAIN starts a retrain that may widen the port. -/
  | fabPctlRetrain (port : BitVec 4) (v : W64)
  /-- `FAB_PCTL_DISABLE` (R379). Write of ENABLE = 0 takes the port DOWN, answering held items. -/
  | fabPctlDisable (port : BitVec 4) (v : W64)
  /-- `POST_RING_DISABLE` (R382). Write of EN = 0 to a post ring refuses later posts. -/
  | postRingDisable (r : BitVec 6) (v : W64)
  /-- `ERR_SUSP_CLEAR` (R423). W1C clear of a suspect bit withdraws suspicion without quarantine. -/
  | errSuspClear (k : BitVec 4) (v : W64)
  /-- `REGISTER_WRITE` (R4). A write to a register with no row of its own acts by its access codes. -/
  | registerWrite (fn : BitVec 4) (off : W32) (half : RegHalf) (v : W64)
  /-- `SLC_STAT_READ` (R48). Read that returns and clears OVERRATE. -/
  | slcStatRead (acc : RegHalf)
  /-- `SLC_CNT_READ` (R48). Read that returns and clears a Sluice outcome count. -/
  | slcCntRead (part : BitVec 3) (k : BitVec 3) (acc : RegHalf)
  /-- `PRT_WDOG_READ` (R52). Read that returns and clears BAND_OVR. -/
  | prtWdogRead (page : PartPage) (acc : RegHalf)
  /-- `PWR_HALFOP_READ` (R255). Read that returns and clears DEFER. -/
  | pwrHalfopRead (half : Bool) (acc : RegHalf)
  /-- `HST_FLRLOST_READ` (R298). Read that returns and clears the FLR lost count. -/
  | hstFlrlostRead (acc : RegHalf)
  /-- `SCOREBOARD_READ` (R221). Read that returns and clears the scoreboard PEAK. -/
  | scoreboardRead (core : BitVec 10) (acc : RegHalf)
  /-- `FAB_PSTAT_READ` (R350). Read that returns and clears RETRAINS. -/
  | fabPstatRead (port : BitVec 4) (acc : RegHalf)
  /-- `FAB_PFEC_READ` (R350). Read that returns and clears FEC counts. -/
  | fabPfecRead (port : BitVec 4) (acc : RegHalf)
  /-- `FAB_PRETRY_READ` (R350). Read that returns and clears replay and CRC counts. -/
  | fabPretryRead (port : BitVec 4) (acc : RegHalf)
  /-- `FAB_RTO_READ` (R370). Read that returns and clears LATE. -/
  | fabRtoRead (acc : RegHalf)
  /-- `TIM_PPSERR_READ` (R388). Read that returns and clears BAD. -/
  | timPpserrRead (acc : RegHalf)
  /-- `TRC_SNAPSTAT_READ` (R404). Read that returns and clears SKIPPED. -/
  | trcSnapstatRead (part : BitVec 3) (acc : RegHalf)
  /-- `ERR_CNT_READ` (R419). Read that returns and clears an error source's counts. -/
  | errCntRead (k : BitVec 5) (acc : RegHalf)
  /-- `ERR_LOGLOST_READ` (R420). Read that returns and clears LOST. -/
  | errLoglostRead (acc : RegHalf)
  /-- `PWR_POWER_READ` (R463). Read that returns and clears PEAK_W. -/
  | pwrPowerRead (acc : RegHalf)
  /-- `NOP` (R330). Host no-operation, answered OK with the current DEVTIME. -/
  | nopCmd (ring : BitVec 9)
  /-- `QUERY_DEVICE` (R332). QUERY SEL 0 reports device state, ID and partition states. -/
  | queryDevice (ring : BitVec 9) (ecc : Ecc)
  /-- `QUERY_PARTITION` (R332). QUERY SEL 1 reports the own partition's step and counts. -/
  | queryPartition (ring : BitVec 9) (ecc : Ecc)
  /-- `QUERY_BERTH` (R332). QUERY SEL 2 reports a berth's state and item. -/
  | queryBerth (ring : BitVec 9) (ecc : Ecc)
  /-- `QUERY_INDEX` (R332). QUERY SEL 3 reports a mooring index's state and units. -/
  | queryIndex (ring : BitVec 9) (ecc : Ecc)
  /-- `FENCE` (R333). Completes after earlier packets of its ring pair have completed. -/
  | fence (ring : BitVec 9) (ecc : Ecc)
  /-- `STAGE_CONFIG` (R337). Reads, checks and stages a configuration image. -/
  | stageConfig (ring : BitVec 9) (ecc : Ecc) (head : List Byte) (ok : Bool)
  /-- `COMMIT_CONFIG` (R445). Commits a staged partition image, taking effect at T0 or a boundary. -/
  | commitConfig (ring : BitVec 9) (ecc : Ecc)
  /-- `COMMIT_CONFIG_DEVICE` (R444). Commits a staged device image according to the device state. -/
  | commitConfigDevice (ring : BitVec 9) (ecc : Ecc)
  /-- `COMMIT_TAKES_EFFECT` (R445). An accepted partition commit takes effect, loading the program and restarting cores. -/
  | commitTakesEffect (target : BitVec 3)
  /-- `OPEN_BERTH` (R334). Decides a berth opening in the Sluice's order, effective at the next boundary. -/
  | openBerth (ring : BitVec 9) (ecc : Ecc)
  /-- `SUBMIT` (R45). The Sluice decides a request: accept, defer, refuse or error. -/
  | submit (ecc : Ecc)
  /-- `CANCEL` (R328). Removes or stops an admitted item named by tag and berth. -/
  | cancel (ring : BitVec 9) (ecc : Ecc)
  /-- `CLOSE_BERTH` (R334). Moves an OPEN berth to CLOSING and FREE at the next boundary. -/
  | closeBerth (ring : BitVec 9) (ecc : Ecc)
  /-- `MOOR` (R285). Checks and accepts mooring of an OPEN berth into an EMPTY index. -/
  | moor (ring : BitVec 9) (ecc : Ecc)
  /-- `UNMOOR` (R286). Discards a MOORED record, setting the index EMPTY. -/
  | unmoor (ring : BitVec 9) (ecc : Ecc)
  /-- `COPY_IN` (R336). Copies host memory into partition virtual memory. -/
  | copyIn (ring : BitVec 9) (ecc : Ecc)
  /-- `COPY_OUT` (R336). Copies partition virtual memory to host memory. -/
  | copyOut (ring : BitVec 9) (ecc : Ecc)
  /-- `FILL` (R336). Fills a partition virtual range with a 64-bit pattern. -/
  | fill (ring : BitVec 9) (ecc : Ecc)
  /-- `SIGNAL` (R329). Sends a host message to a core and sets a host-signal pennant. -/
  | signal (ring : BitVec 9)
  /-- `TRACE_CONTROL_SET_RING` (R406). TRACE_CONTROL SUBOP 0 writes TRC_BASE then TRC_CFG. -/
  | traceControlSetRing (ring : BitVec 9) (ecc : Ecc)
  /-- `TRACE_CONTROL_SET_CFG` (R406). TRACE_CONTROL SUBOP 1 writes TRC_CFG. -/
  | traceControlSetCfg (ring : BitVec 9) (ecc : Ecc)
  /-- `TRACE_CONTROL_SET_CONS` (R406). TRACE_CONTROL SUBOP 2 writes TRC_CONS and returns PROD. -/
  | traceControlSetCons (ring : BitVec 9) (ecc : Ecc)
  /-- `TRACE_CONTROL_SET_SNAPBASE` (R406). TRACE_CONTROL SUBOP 3 stages TRC_SNAPBASE. -/
  | traceControlSetSnapbase (ring : BitVec 9) (ecc : Ecc)
  /-- `TRACE_CONTROL_READ` (R406). TRACE_CONTROL SUBOP 4 returns PROD and LOST. -/
  | traceControlRead (ring : BitVec 9) (ecc : Ecc)
  /-- `COUNTER_SNAPSHOT_LATEST` (R405). COUNTER_SNAPSHOT SUBOP 0 copies the latest complete snapshot to the host. -/
  | counterSnapshotLatest (ring : BitVec 9) (ecc : Ecc)
  /-- `COUNTER_SNAPSHOT_NOW` (R405). COUNTER_SNAPSHOT SUBOP 1 reads the counters now into host memory. -/
  | counterSnapshotNow (ring : BitVec 9) (ecc : Ecc)
  /-- `RESET_PARTITION` (R340). Stops and resets a partition, aborting its outstanding commands. -/
  | resetPartition (ring : BitVec 9) (ecc : Ecc)
  /-- `HOLD_PARTITION_HOLD` (R339). Holds a partition, draining any running step. -/
  | holdPartitionHold (ring : BitVec 9) (ecc : Ecc)
  /-- `HOLD_PARTITION_RELEASE` (R339). Releases a HELD partition so steps resume. -/
  | holdPartitionRelease (ring : BitVec 9) (ecc : Ecc)
  /-- `SET_OPERATING_POINT` (R338). Stages REQ of the named halves, all or none. -/
  | setOperatingPoint (ring : BitVec 9) (ecc : Ecc)
  /-- `FABRIC_CONTROL_PORT` (R380). FABRIC_CONTROL SUBOP 0 writes FAB_PCTL of a port. -/
  | fabricControlPort (ring : BitVec 9) (ecc : Ecc)
  /-- `FABRIC_CONTROL_TORUS` (R380). FABRIC_CONTROL SUBOP 1 writes FAB_TORUS and the direction masks. -/
  | fabricControlTorus (ring : BitVec 9) (ecc : Ecc)
  /-- `FABRIC_CONTROL_EXPORT` (R380). FABRIC_CONTROL SUBOP 2 writes an export entry. -/
  | fabricControlExport (ring : BitVec 9) (ecc : Ecc)
  /-- `FABRIC_CONTROL_POST_RING` (R380). FABRIC_CONTROL SUBOP 3 writes a post ring. -/
  | fabricControlPostRing (ring : BitVec 9) (ecc : Ecc)
  /-- `FABRIC_CONTROL_BARRIER` (R380). FABRIC_CONTROL SUBOP 4 writes a fabric barrier entry. -/
  | fabricControlBarrier (ring : BitVec 9) (ecc : Ecc)
  /-- `FABRIC_CONTROL_TIME` (R380). FABRIC_CONTROL SUBOP 5 writes FAB_TSGM and FAB_RTO. -/
  | fabricControlTime (ring : BitVec 9) (ecc : Ecc)
  /-- `FABRIC_CONTROL_READ_PORT` (R380). FABRIC_CONTROL SUBOP 6 returns FAB_PSTAT of a port. -/
  | fabricControlReadPort (ring : BitVec 9) (ecc : Ecc)
  /-- `HSIG_COMPLETION_POST` (R200). The control complex posts a held HSIG completion once ring space exists. -/
  | hsigCompletionPost (part : BitVec 3)
  /-- `SMBUS_BLOCK_READ` (R465). SMBus Block Read 0xF0 returns GLB_STATE and ERR_STAT. -/
  | smbusBlockRead
  /-- `SET_ENDPOINT_ID` (R465). MCTP control message assigning the endpoint ID. -/
  | setEndpointId (m : SetEid)
  /-- `MCTP_READ` (R466). Vendor-defined READ of an allowed BAR0 offset, not clearing RC fields. -/
  | mctpRead (m : MctpReq)
  /-- `MCTP_WRITE` (R466). Vendor-defined WRITE of PWR_PCAP or ERR_LOGCONS. -/
  | mctpWrite (m : MctpReq) (v : W64)
  /-- `MCTP_SENSORS` (R466). Vendor-defined SENSORS returning thermal, power and operating point registers. -/
  | mctpSensors
  /-- `BYPASS` (R467). JTAG BYPASS instruction. -/
  | bypass
  /-- `IDCODE` (R467). JTAG IDCODE instruction selecting the identity register. -/
  | idcode
  /-- `SAMPLE_PRELOAD` (R467). JTAG SAMPLE/PRELOAD of the boundary register. -/
  | samplePreload (scan : Scan)
  /-- `EXTEST` (R467). JTAG EXTEST driving pins from the boundary register while PORST_N is low. -/
  | extest (scan : Scan)
  /-- `CLAMP` (R467). JTAG CLAMP while PORST_N is low. -/
  | clamp
  /-- `HIGHZ` (R467). JTAG HIGHZ floating outputs while PORST_N is low. -/
  | highz
  /-- `LOCKSTEP_MISMATCH` (R24). A lockstep mismatch or uncorrected memory error in CP0 or CP1 takes the device to FAULT with cause CP0 or CP1. -/
  | lockstepMismatch (e : CpError)
  /-- `HBM_STACK_FAILURE` (R413). A tier 1 stack fails its interface at run time and the device enters FAULT with cause HBM. -/
  | hbmStackFailure (stack : BitVec 3)
  /-- `TIER2_PORT_LINK_FAILURE` (R413). An LPDDR5X port fails its link, its INSVC bit clears, and later reads return poison while writes get error responses. -/
  | tier2PortLinkFailure (port : BitVec 5)
  /-- `D2D_FLIT_CRC_ERROR` (R413). A die-to-die flit fails its CRC-32C, and the flit is replayed and counted as corrected. -/
  | d2dFlitCrcError
  /-- `D2D_RETRAIN_TIMEOUT` (R413). A die-to-die retrain that has not ended within 10 µs takes the device to FAULT with cause D2D. -/
  | d2dRetrainTimeout
  /-- `VDD_AUX_LOSS` (R431). A fall of VDD_AUX below 0.18 V discards the retained fuse requests; a fall below 1.62 V may keep them or discard them. -/
  | vddAuxLoss (mv : BitVec 12)
  /-- `PCIE_LINK_STATE_CHANGE` (R298). The PCIe link trains, retrains, changes speed or width, or goes down, which updates SPEED, WIDTH, FLIT and UP in HST_LINK. -/
  | pcieLinkStateChange (speed : BitVec 4) (width : BitVec 5) (flit up : Bool)
  /-- `COPY_COMPLETE` (R336). A COPY_IN, COPY_OUT, FILL, STAGE_CONFIG image read or COUNTER_SNAPSHOT transfer ends once its last bytes have moved, or fails, and its completion is formed. -/
  | copyComplete (ring : BitVec 9) (bytes : List Byte) (ok : Bool)
deriving DecidableEq, Repr

end Sys2Proof
end

