-- ==== Sys2Proof/Decode.lean ====
section
/-!
DEFINITION. The 32-bit words of the instruction rows (R84, R87-R92 and the operand tables of the units), read both
ways, and `decodeTableWord`: spec/opcode_table.json gives no row any bits, so no table word spells a command.
-/
namespace Sys2Proof

/-- Opcode, predicate negate bit and predicate index of a word (R84). -/
def encHead (op : Nat) (x : Iss) : Nat := op * 2 ^ 26 + x.pn.toNat * 2 ^ 25 + x.pi.toNat * 2 ^ 22

/-- Opcode and minor of a coprocessor word (R92). -/
def encMinor (op minor : Nat) (x : Iss) : Nat := encHead op x + minor * 2 ^ 18

/-- A field of a word. -/
def wf (w lo n : Nat) : Nat := w / 2 ^ lo % 2 ^ n

def encR (op : Nat) (sub : Nat) (x : Iss) (o : FmtR) : Nat :=
  encHead op x + o.rd.toNat * 2 ^ 17 + o.ra.toNat * 2 ^ 12 + o.rb.toNat * 2 ^ 7 + sub
def encI (op : Nat) (x : Iss) (o : FmtI) : Nat :=
  encHead op x + o.rd.toNat * 2 ^ 17 + o.ra.toNat * 2 ^ 12 + o.imm.toNat
def encSh (op : Nat) (sub : Nat) (x : Iss) (o : FmtSh) : Nat :=
  encHead op x + o.rd.toNat * 2 ^ 17 + o.ra.toNat * 2 ^ 12 + o.z.toNat * 2 ^ 8 + o.sh.toNat + sub * 2 ^ 6
def encU (op : Nat) (x : Iss) (o : FmtU) : Nat :=
  encHead op x + o.rd.toNat * 2 ^ 17 + o.imm.toNat
def encCmp (op : Nat) (x : Iss) (o : FmtCmp) : Nat :=
  encHead op x + o.pd.toNat * 2 ^ 19 + o.cond.toNat * 2 ^ 15 + o.ra.toNat * 2 ^ 10 + o.rb.toNat * 2 ^ 5 + o.z.toNat
def encCmpi (op : Nat) (x : Iss) (o : FmtCmpi) : Nat :=
  encHead op x + o.pd.toNat * 2 ^ 19 + o.cond.toNat * 2 ^ 15 + o.ra.toNat * 2 ^ 10 + o.imm.toNat
def encL (op : Nat) (sub : Nat) (x : Iss) (o : FmtL) : Nat :=
  encHead op x + o.pd.toNat * 2 ^ 19 + o.pa.toNat * 2 ^ 16 + o.pb.toNat * 2 ^ 13 + o.z.toNat + sub * 2 ^ 9
def encDisp (op : Nat) (x : Iss) (disp : BitVec 22) : Nat := encHead op x + disp.toNat
def encRpt (op : Nat) (sub : Nat) (x : Iss) (o : FmtRpt) : Nat :=
  encHead op x + o.ra.toNat * 2 ^ 16 + o.z.toNat * 2 ^ 12 + o.stride.toNat + sub * 2 ^ 21
def encRptn (op : Nat) (sub : Nat) (x : Iss) (o : FmtRptn) : Nat :=
  encHead op x + o.cnt.toNat * 2 ^ 14 + o.z.toNat * 2 ^ 12 + o.stride.toNat + sub * 2 ^ 21
def encM (op : Nat) (x : Iss) (o : FmtM) : Nat :=
  encHead op x + o.r.toNat * 2 ^ 17 + o.bn.toNat * 2 ^ 14 + o.disp.toNat
def encRf (op : Nat) (x : Iss) (o : FmtR) (func : BitVec 7) : Nat :=
  encHead op x + o.rd.toNat * 2 ^ 17 + o.ra.toNat * 2 ^ 12 + o.rb.toNat * 2 ^ 7 + func.toNat
def encAmo (op : Nat) (sub : Nat) (x : Iss) (o : FmtAmo) : Nat :=
  encHead op x + o.rd.toNat * 2 ^ 17 + o.ra.toNat * 2 ^ 12 + o.rb.toNat * 2 ^ 7 + o.z.toNat * 2 ^ 5 + o.w32.toNat * 2 ^ 4 + sub
def encS (op : Nat) (sub : Nat) (x : Iss) (o : FmtS) : Nat :=
  encHead op x + o.ra.toNat * 2 ^ 12 + o.imm.toNat + sub * 2 ^ 17
def encCM (op minor : Nat) (x : Iss) (o : FmtCM) : Nat :=
  encMinor op minor x + o.vr.toNat * 2 ^ 13 + o.bn.toNat * 2 ^ 10 + o.disp.toNat
def encTmma (op minor : Nat) (x : Iss) (o : FmtTmma) : Nat :=
  encMinor op minor x + o.rm.toNat * 2 ^ 16 + o.acc.toNat * 2 ^ 14 + o.ta.toNat * 2 ^ 11 + o.tb.toNat * 2 ^ 8 + o.zf.toNat * 2 ^ 7 + o.z.toNat
def encTzero (op minor : Nat) (x : Iss) (o : FmtTzero) : Nat :=
  encMinor op minor x + o.rm.toNat * 2 ^ 16 + o.z.toNat * 2 ^ 8 + o.types.toNat * 2 ^ 4 + o.accs.toNat
def encTfree (op minor : Nat) (x : Iss) (o : FmtTfree) : Nat :=
  encMinor op minor x + o.rm.toNat * 2 ^ 16 + o.z.toNat * 2 ^ 12 + o.accs.toNat * 2 ^ 8 + o.tiles.toNat
def encTfin (op minor : Nat) (x : Iss) (o : FmtTfin) : Nat :=
  encMinor op minor x + o.rm.toNat * 2 ^ 16 + o.acc.toNat * 2 ^ 14 + o.z.toNat * 2 ^ 8 + o.tag.toNat
def encVar (op minor : Nat) (sub : Nat) (x : Iss) (o : FmtVar) : Nat :=
  encMinor op minor x + o.rm.toNat * 2 ^ 16 + o.vd.toNat * 2 ^ 11 + o.va.toNat * 2 ^ 6 + o.int.toNat * 2 ^ 5 + sub
def encVcmp (op minor : Nat) (x : Iss) (o : FmtVcmp) : Nat :=
  encMinor op minor x + o.rm.toNat * 2 ^ 16 + o.vd.toNat * 2 ^ 11 + o.va.toNat * 2 ^ 6 + o.cond.toNat * 2 ^ 3 + o.int.toNat * 2 ^ 2 + o.z.toNat
def encVcvt (op minor : Nat) (sub : Nat) (x : Iss) (o : FmtVcvt) : Nat :=
  encMinor op minor x + o.rm.toNat * 2 ^ 16 + o.vd.toNat * 2 ^ 11 + o.va.toNat * 2 ^ 6 + o.ty.toNat * 2 ^ 2 + o.xf.toNat + sub * 2 ^ 1
def encVV (op minor : Nat) (sub : Nat) (x : Iss) (o : FmtVV) : Nat :=
  encMinor op minor x + o.rm.toNat * 2 ^ 16 + o.vd.toNat * 2 ^ 11 + o.va.toNat * 2 ^ 6 + o.z.toNat + sub * 2 ^ 2
def encVred (op minor : Nat) (sub : Nat) (x : Iss) (o : FmtVred) : Nat :=
  encMinor op minor x + o.rm.toNat * 2 ^ 16 + o.vd.toNat * 2 ^ 11 + o.va.toNat * 2 ^ 6 + o.half.toNat * 2 ^ 2 + o.z.toNat + sub * 2 ^ 3
def encVperm (op minor : Nat) (x : Iss) (o : FmtVperm) : Nat :=
  encMinor op minor x + o.rm.toNat * 2 ^ 16 + o.vd.toNat * 2 ^ 11 + o.va.toNat * 2 ^ 6 + o.z.toNat
def encVmovt (op minor : Nat) (sub : Nat) (x : Iss) (o : FmtVmovt) : Nat :=
  encMinor op minor x + o.rm.toNat * 2 ^ 16 + o.kind.toNat * 2 ^ 13 + o.unit.toNat * 2 ^ 10 + o.vr.toNat * 2 ^ 5 + o.grp.toNat + sub * 2 ^ 15
def encVftq (op minor : Nat) (sub : Nat) (x : Iss) (o : FmtVftq) : Nat :=
  encMinor op minor x + o.rm.toNat * 2 ^ 16 + o.r.toNat * 2 ^ 9 + o.g.toNat * 2 ^ 5 + o.z.toNat + sub * 2 ^ 14
def encVsetvl (op minor : Nat) (x : Iss) (o : FmtVsetvl) : Nat :=
  encMinor op minor x + o.rm.toNat * 2 ^ 16 + o.gd.toNat * 2 ^ 11 + o.ga.toNat * 2 ^ 6 + o.ty.toNat * 2 ^ 2 + o.z.toNat
def encVmovg (op minor : Nat) (sub : Nat) (x : Iss) (o : FmtVmovg) : Nat :=
  encMinor op minor x + o.rm.toNat * 2 ^ 16 + o.g.toNat * 2 ^ 9 + o.v.toNat * 2 ^ 4 + o.z.toNat + sub * 2 ^ 14
def encSdesc (op minor : Nat) (sub : Nat) (x : Iss) (o : FmtSdesc) : Nat :=
  encMinor op minor x + o.rm.toNat * 2 ^ 16 + o.ra.toNat * 2 ^ 11 + o.rb.toNat * 2 ^ 6 + o.ch.toNat * 2 ^ 3 + o.z.toNat + sub * 2 ^ 2
def encSstop (op minor : Nat) (x : Iss) (o : FmtSstop) : Nat :=
  encMinor op minor x + o.rm.toNat * 2 ^ 16 + o.zhi.toNat * 2 ^ 6 + o.ch.toNat * 2 ^ 3 + o.zlo.toNat
def encSstat (op minor : Nat) (x : Iss) (o : FmtSstat) : Nat :=
  encMinor op minor x + o.rm.toNat * 2 ^ 16 + o.rd.toNat * 2 ^ 11 + o.zhi.toNat * 2 ^ 6 + o.ch.toNat * 2 ^ 3 + o.sel.toNat * 2 ^ 1 + o.zlo.toNat
def encSend (op minor : Nat) (x : Iss) (o : FmtSend) : Nat :=
  encMinor op minor x + o.rm.toNat * 2 ^ 16 + o.ra.toNat * 2 ^ 11 + o.rb.toNat * 2 ^ 6 + o.rel.toNat * 2 ^ 5 + o.z.toNat
def encRecvSel (op minor : Nat) (x : Iss) (o : FmtRecvSel) : Nat :=
  encMinor op minor x + o.rm.toNat * 2 ^ 16 + o.rd.toNat * 2 ^ 11 + o.qmask.toNat * 2 ^ 3 + o.rot.toNat * 2 ^ 2 + o.z.toNat
def encMovq (op minor : Nat) (x : Iss) (o : FmtMovq) : Nat :=
  encMinor op minor x + o.rm.toNat * 2 ^ 16 + o.rd.toNat * 2 ^ 11 + o.q.toNat * 2 ^ 8 + o.w.toNat * 2 ^ 7 + o.z.toNat
def encPset (op minor : Nat) (x : Iss) (o : FmtPset) : Nat :=
  encMinor op minor x + o.rm.toNat * 2 ^ 16 + o.ra.toNat * 2 ^ 11 + o.z.toNat
def encPwait (op minor : Nat) (x : Iss) (o : FmtPwait) : Nat :=
  encMinor op minor x + o.rm.toNat * 2 ^ 16 + o.rd.toNat * 2 ^ 11 + o.ra.toNat * 2 ^ 6 + o.clr.toNat * 2 ^ 5 + o.z.toNat
def encBarr (op minor : Nat) (sub : Nat) (x : Iss) (o : FmtBarr) : Nat :=
  encMinor op minor x + o.rm.toNat * 2 ^ 16 + o.rd.toNat * 2 ^ 11 + o.id.toNat * 2 ^ 4 + o.z.toNat + sub * 2 ^ 2
def encBarm (op minor : Nat) (x : Iss) (o : FmtBarm) : Nat :=
  encMinor op minor x + o.rm.toNat * 2 ^ 16 + o.ra.toNat * 2 ^ 11 + o.id.toNat * 2 ^ 4 + o.z.toNat
def encHsig (op minor : Nat) (x : Iss) (o : FmtHsig) : Nat :=
  encMinor op minor x + o.rm.toNat * 2 ^ 16 + o.ra.toNat * 2 ^ 11 + o.n.toNat * 2 ^ 9 + o.z.toNat

/-- The word of an instruction row; none for the other rows. The writes of control registers that have rows of their
own are `CSRW`, `CSRS` and `CSRC` words with `rd` = 0. -/
def csrWord (op : CsrOp) (x : Iss) (ra : BitVec 5) (num : Nat) : Nat :=
  encI (match op with | .write => 17 | .set => 18 | .clear => 19) x ⟨0, ra, BitVec.ofNat 12 num⟩

/-- The control register number of a `TCFG_WRITE` (R82). -/
def MatCsr.num : MatCsr → Nat
  | .tcfg n => 0x20 + n.toNat
  | .trow => 0x29
  | .tfault => 0x2A

/-- The word of a command that an instruction row stands for. -/
def encode : Instr → Option Nat
  | .add x o => some (encR 1 0 x o)
  | .sub x o => some (encR 1 1 x o)
  | .and x o => some (encR 1 2 x o)
  | .or x o => some (encR 1 3 x o)
  | .xor x o => some (encR 1 4 x o)
  | .andn x o => some (encR 1 5 x o)
  | .sll x o => some (encR 1 6 x o)
  | .srl x o => some (encR 1 7 x o)
  | .sra x o => some (encR 1 8 x o)
  | .min x o => some (encR 1 9 x o)
  | .max x o => some (encR 1 10 x o)
  | .minu x o => some (encR 1 11 x o)
  | .maxu x o => some (encR 1 12 x o)
  | .clz x o => some (encR 1 13 x o)
  | .ctz x o => some (encR 1 14 x o)
  | .popc x o => some (encR 1 15 x o)
  | .mul x o => some (encR 1 16 x o)
  | .mulh x o => some (encR 1 17 x o)
  | .mulhu x o => some (encR 1 18 x o)
  | .div x o => some (encR 1 19 x o)
  | .divu x o => some (encR 1 20 x o)
  | .rem x o => some (encR 1 21 x o)
  | .remu x o => some (encR 1 22 x o)
  | .addi x o => some (encI 2 x o)
  | .andi x o => some (encI 3 x o)
  | .ori x o => some (encI 4 x o)
  | .xori x o => some (encI 5 x o)
  | .slli x o => some (encSh 6 0 x o)
  | .srli x o => some (encSh 6 1 x o)
  | .srai x o => some (encSh 6 2 x o)
  | .lui x o => some (encU 7 x o)
  | .cmp x o => some (encCmp 8 x o)
  | .cmpi x o => some (encCmpi 9 x o)
  | .plogAnd x o => some (encL 10 0 x o)
  | .plogOr x o => some (encL 10 1 x o)
  | .plogXor x o => some (encL 10 2 x o)
  | .plogAndn x o => some (encL 10 3 x o)
  | .plogOrn x o => some (encL 10 4 x o)
  | .plogMov x o => some (encL 10 5 x o)
  | .plogNot x o => some (encL 10 6 x o)
  | .plogSet x o => some (encL 10 7 x o)
  | .plogClr x o => some (encL 10 8 x o)
  | .br x disp => some (encDisp 12 x disp)
  | .call x disp => some (encDisp 13 x disp)
  | .jalr x o => some (encI 14 x o)
  | .rpt x o _ => some (encRpt 15 0 x o)
  | .rptn x o _ => some (encRptn 15 1 x o)
  | .csrr x o => some (encI 16 x o)
  | .csrw x o => some (encI 17 x o)
  | .csrs x o => some (encI 18 x o)
  | .csrc x o => some (encI 19 x o)
  | .ld8 x o => some (encM 20 x o)
  | .ld8u x o => some (encM 21 x o)
  | .ld16 x o => some (encM 22 x o)
  | .ld16u x o => some (encM 23 x o)
  | .ld32 x o => some (encM 24 x o)
  | .ld32u x o => some (encM 25 x o)
  | .ld64 x o => some (encM 26 x o)
  | .st8 x o => some (encM 27 x o)
  | .st16 x o => some (encM 28 x o)
  | .st32 x o => some (encM 29 x o)
  | .st64 x o => some (encM 30 x o)
  | .ldAcq x o => some (encM 31 x o)
  | .stRel x o => some (encM 32 x o)
  | .ldAcqr x o func => some (encRf 33 x o func)
  | .amoAdd x o => some (encAmo 34 0 x o)
  | .amoAnd x o => some (encAmo 34 1 x o)
  | .amoOr x o => some (encAmo 34 2 x o)
  | .amoXor x o => some (encAmo 34 3 x o)
  | .amoSwap x o => some (encAmo 34 4 x o)
  | .amoMin x o => some (encAmo 34 5 x o)
  | .amoMax x o => some (encAmo 34 6 x o)
  | .amoMinu x o => some (encAmo 34 7 x o)
  | .amoMaxu x o => some (encAmo 34 8 x o)
  | .amoCas x o => some (encAmo 34 9 x o)
  | .waitm x o func => some (encRf 35 x o func)
  | .sysNop x o => some (encS 0 0 x o)
  | .syscall x o => some (encS 0 1 x o)
  | .brk x o => some (encS 0 2 x o)
  | .eret x o => some (encS 0 3 x o)
  | .remfence x o => some (encS 0 4 x o)
  | .iinv x o => some (encS 0 5 x o)
  | .ctxsv x o => some (encS 0 6 x o)
  | .ctxld x o => some (encS 0 7 x o)
  | .tld x o => some (encCM 56 0 x o)
  | .tst x o => some (encCM 56 1 x o)
  | .tmma x o => some (encTmma 56 2 x o)
  | .tzero x o => some (encTzero 56 3 x o)
  | .tfree x o => some (encTfree 56 4 x o)
  | .tsld x o => some (encCM 56 5 x o)
  | .tsst x o => some (encCM 56 6 x o)
  | .tfin x o => some (encTfin 56 7 x o)
  | .tald x o => some (encCM 56 8 x o)
  | .tast x o => some (encCM 56 9 x o)
  | .vld x o => some (encCM 57 0 x o)
  | .vst x o => some (encCM 57 1 x o)
  | .varithAdd x o => some (encVar 57 2 0 x o)
  | .varithSub x o => some (encVar 57 2 1 x o)
  | .varithMul x o => some (encVar 57 2 2 x o)
  | .varithMin x o => some (encVar 57 2 3 x o)
  | .varithMax x o => some (encVar 57 2 4 x o)
  | .varithFma x o => some (encVar 57 2 5 x o)
  | .varithFms x o => some (encVar 57 2 6 x o)
  | .varithAbs x o => some (encVar 57 2 7 x o)
  | .varithNeg x o => some (encVar 57 2 8 x o)
  | .vcmp x o => some (encVcmp 57 3 x o)
  | .vcvtNarrow x o => some (encVcvt 57 4 0 x o)
  | .vcvtWiden x o => some (encVcvt 57 4 1 x o)
  | .vsfExp x o => some (encVV 57 5 0 x o)
  | .vsfExp2 x o => some (encVV 57 5 1 x o)
  | .vsfLog x o => some (encVV 57 5 2 x o)
  | .vsfLog2 x o => some (encVV 57 5 3 x o)
  | .vsfRcp x o => some (encVV 57 5 4 x o)
  | .vsfSqrt x o => some (encVV 57 5 5 x o)
  | .vsfRsqrt x o => some (encVV 57 5 6 x o)
  | .vsfTanh x o => some (encVV 57 5 7 x o)
  | .vsfSigmoid x o => some (encVV 57 5 8 x o)
  | .vsfErf x o => some (encVV 57 5 9 x o)
  | .vsfSin x o => some (encVV 57 5 10 x o)
  | .vsfCos x o => some (encVV 57 5 11 x o)
  | .vredSum x o => some (encVred 57 6 0 x o)
  | .vredMax x o => some (encVred 57 6 1 x o)
  | .vredMin x o => some (encVred 57 6 2 x o)
  | .vredArgmax x o => some (encVred 57 6 3 x o)
  | .vredIntSum x o => some (encVred 57 6 4 x o)
  | .vredIntMax x o => some (encVred 57 6 5 x o)
  | .vredIntMin x o => some (encVred 57 6 6 x o)
  | .vperm x o => some (encVperm 57 7 x o)
  | .vmovtToMatrix x o => some (encVmovt 57 8 0 x o)
  | .vmovtToVector x o => some (encVmovt 57 8 1 x o)
  | .vftqRead x o => some (encVftq 57 9 0 x o)
  | .vftqPop x o => some (encVftq 57 9 1 x o)
  | .vftqStat x o => some (encVftq 57 9 2 x o)
  | .vsetvl x o => some (encVsetvl 57 10 x o)
  | .vbitAnd x o => some (encVV 57 11 0 x o)
  | .vbitOr x o => some (encVV 57 11 1 x o)
  | .vbitXor x o => some (encVV 57 11 2 x o)
  | .vbitAndn x o => some (encVV 57 11 3 x o)
  | .vbitSll x o => some (encVV 57 11 4 x o)
  | .vbitSrl x o => some (encVV 57 11 5 x o)
  | .vbitSra x o => some (encVV 57 11 6 x o)
  | .vbitSel x o => some (encVV 57 11 7 x o)
  | .vbitMov x o => some (encVV 57 11 8 x o)
  | .vmovgBcast x o => some (encVmovg 57 12 0 x o)
  | .vmovgGet0 x o => some (encVmovg 57 12 1 x o)
  | .vmovgGet x o => some (encVmovg 57 12 2 x o)
  | .sdescPost x o => some (encSdesc 58 0 0 x o)
  | .sdescResume x o => some (encSdesc 58 0 1 x o)
  | .sstop x o => some (encSstop 58 1 x o)
  | .sstat x o => some (encSstat 58 2 x o)
  | .send x o => some (encSend 59 0 x o)
  | .recvSel x o => some (encRecvSel 59 1 x o)
  | .movq x o => some (encMovq 59 2 x o)
  | .pset x o => some (encPset 59 3 x o)
  | .pclr x o => some (encPset 59 4 x o)
  | .pwait x o => some (encPwait 59 5 x o)
  | .barrWait x o => some (encBarr 59 6 0 x o)
  | .barrArrive x o => some (encBarr 59 6 1 x o)
  | .barrTest x o => some (encBarr 59 6 2 x o)
  | .barm x o => some (encBarm 59 7 x o)
  | .hsig x o => some (encHsig 59 8 x o)
  | .engbindWrite x op ra => some (csrWord op x ra 0x18)
  | .tcfgWrite x op ra reg => some (csrWord op x ra reg.num)
  | .tiuWrite x op ra => some (csrWord op x ra 0x28)
  | .vlWrite x op ra => some (csrWord op x ra 0x30)
  | .srseedWrite x op ra => some (csrWord op x ra 0x08)
  | .threadRunRequest x op ra n => some (csrWord op x ra (0x10 + n.toNat))
  | .threadStopRequest x op ra n => some (csrWord op x ra (0x10 + n.toNat))
  | _ => none

/-! ### Reading a word -/

def decR (w : Nat) : FmtR :=
  { rd := BitVec.ofNat 5 (wf w 17 5), ra := BitVec.ofNat 5 (wf w 12 5), rb := BitVec.ofNat 5 (wf w 7 5) }
def decI (w : Nat) : FmtI :=
  { rd := BitVec.ofNat 5 (wf w 17 5), ra := BitVec.ofNat 5 (wf w 12 5), imm := BitVec.ofNat 12 (wf w 0 12) }
def decSh (w : Nat) : FmtSh :=
  { rd := BitVec.ofNat 5 (wf w 17 5), ra := BitVec.ofNat 5 (wf w 12 5), z := BitVec.ofNat 4 (wf w 8 4), sh := BitVec.ofNat 6 (wf w 0 6) }
def decU (w : Nat) : FmtU :=
  { rd := BitVec.ofNat 5 (wf w 17 5), imm := BitVec.ofNat 17 (wf w 0 17) }
def decCmp (w : Nat) : FmtCmp :=
  { pd := BitVec.ofNat 3 (wf w 19 3), cond := BitVec.ofNat 4 (wf w 15 4), ra := BitVec.ofNat 5 (wf w 10 5), rb := BitVec.ofNat 5 (wf w 5 5), z := BitVec.ofNat 5 (wf w 0 5) }
def decCmpi (w : Nat) : FmtCmpi :=
  { pd := BitVec.ofNat 3 (wf w 19 3), cond := BitVec.ofNat 4 (wf w 15 4), ra := BitVec.ofNat 5 (wf w 10 5), imm := BitVec.ofNat 10 (wf w 0 10) }
def decL (w : Nat) : FmtL :=
  { pd := BitVec.ofNat 3 (wf w 19 3), pa := BitVec.ofNat 3 (wf w 16 3), pb := BitVec.ofNat 3 (wf w 13 3), z := BitVec.ofNat 9 (wf w 0 9) }
def decRpt (w : Nat) : FmtRpt :=
  { ra := BitVec.ofNat 5 (wf w 16 5), z := BitVec.ofNat 4 (wf w 12 4), stride := BitVec.ofNat 12 (wf w 0 12) }
def decRptn (w : Nat) : FmtRptn :=
  { cnt := BitVec.ofNat 7 (wf w 14 7), z := BitVec.ofNat 2 (wf w 12 2), stride := BitVec.ofNat 12 (wf w 0 12) }
def decM (w : Nat) : FmtM :=
  { r := BitVec.ofNat 5 (wf w 17 5), bn := BitVec.ofNat 3 (wf w 14 3), disp := BitVec.ofNat 14 (wf w 0 14) }
def decAmo (w : Nat) : FmtAmo :=
  { rd := BitVec.ofNat 5 (wf w 17 5), ra := BitVec.ofNat 5 (wf w 12 5), rb := BitVec.ofNat 5 (wf w 7 5), z := BitVec.ofNat 2 (wf w 5 2), w32 := wf w 4 1 == 1 }
def decS (w : Nat) : FmtS :=
  { ra := BitVec.ofNat 5 (wf w 12 5), imm := BitVec.ofNat 12 (wf w 0 12) }
def decCM (w : Nat) : FmtCM :=
  { vr := BitVec.ofNat 5 (wf w 13 5), bn := BitVec.ofNat 3 (wf w 10 3), disp := BitVec.ofNat 10 (wf w 0 10) }
def decTmma (w : Nat) : FmtTmma :=
  { rm := BitVec.ofNat 2 (wf w 16 2), acc := BitVec.ofNat 2 (wf w 14 2), ta := BitVec.ofNat 3 (wf w 11 3), tb := BitVec.ofNat 3 (wf w 8 3), zf := wf w 7 1 == 1, z := BitVec.ofNat 7 (wf w 0 7) }
def decTzero (w : Nat) : FmtTzero :=
  { rm := BitVec.ofNat 2 (wf w 16 2), z := BitVec.ofNat 8 (wf w 8 8), types := BitVec.ofNat 4 (wf w 4 4), accs := BitVec.ofNat 4 (wf w 0 4) }
def decTfree (w : Nat) : FmtTfree :=
  { rm := BitVec.ofNat 2 (wf w 16 2), z := BitVec.ofNat 4 (wf w 12 4), accs := BitVec.ofNat 4 (wf w 8 4), tiles := BitVec.ofNat 8 (wf w 0 8) }
def decTfin (w : Nat) : FmtTfin :=
  { rm := BitVec.ofNat 2 (wf w 16 2), acc := BitVec.ofNat 2 (wf w 14 2), z := BitVec.ofNat 6 (wf w 8 6), tag := BitVec.ofNat 8 (wf w 0 8) }
def decVar (w : Nat) : FmtVar :=
  { rm := BitVec.ofNat 2 (wf w 16 2), vd := BitVec.ofNat 5 (wf w 11 5), va := BitVec.ofNat 5 (wf w 6 5), int := wf w 5 1 == 1 }
def decVcmp (w : Nat) : FmtVcmp :=
  { rm := BitVec.ofNat 2 (wf w 16 2), vd := BitVec.ofNat 5 (wf w 11 5), va := BitVec.ofNat 5 (wf w 6 5), cond := BitVec.ofNat 3 (wf w 3 3), int := wf w 2 1 == 1, z := BitVec.ofNat 2 (wf w 0 2) }
def decVcvt (w : Nat) : FmtVcvt :=
  { rm := BitVec.ofNat 2 (wf w 16 2), vd := BitVec.ofNat 5 (wf w 11 5), va := BitVec.ofNat 5 (wf w 6 5), ty := BitVec.ofNat 4 (wf w 2 4), xf := wf w 0 1 == 1 }
def decVV (w : Nat) : FmtVV :=
  { rm := BitVec.ofNat 2 (wf w 16 2), vd := BitVec.ofNat 5 (wf w 11 5), va := BitVec.ofNat 5 (wf w 6 5), z := BitVec.ofNat 2 (wf w 0 2) }
def decVred (w : Nat) : FmtVred :=
  { rm := BitVec.ofNat 2 (wf w 16 2), vd := BitVec.ofNat 5 (wf w 11 5), va := BitVec.ofNat 5 (wf w 6 5), half := wf w 2 1 == 1, z := BitVec.ofNat 2 (wf w 0 2) }
def decVperm (w : Nat) : FmtVperm :=
  { rm := BitVec.ofNat 2 (wf w 16 2), vd := BitVec.ofNat 5 (wf w 11 5), va := BitVec.ofNat 5 (wf w 6 5), z := BitVec.ofNat 6 (wf w 0 6) }
def decVmovt (w : Nat) : FmtVmovt :=
  { rm := BitVec.ofNat 2 (wf w 16 2), kind := BitVec.ofNat 2 (wf w 13 2), unit := BitVec.ofNat 3 (wf w 10 3), vr := BitVec.ofNat 5 (wf w 5 5), grp := BitVec.ofNat 5 (wf w 0 5) }
def decVftq (w : Nat) : FmtVftq :=
  { rm := BitVec.ofNat 2 (wf w 16 2), r := BitVec.ofNat 5 (wf w 9 5), g := BitVec.ofNat 4 (wf w 5 4), z := BitVec.ofNat 5 (wf w 0 5) }
def decVsetvl (w : Nat) : FmtVsetvl :=
  { rm := BitVec.ofNat 2 (wf w 16 2), gd := BitVec.ofNat 5 (wf w 11 5), ga := BitVec.ofNat 5 (wf w 6 5), ty := BitVec.ofNat 4 (wf w 2 4), z := BitVec.ofNat 2 (wf w 0 2) }
def decVmovg (w : Nat) : FmtVmovg :=
  { rm := BitVec.ofNat 2 (wf w 16 2), g := BitVec.ofNat 5 (wf w 9 5), v := BitVec.ofNat 5 (wf w 4 5), z := BitVec.ofNat 4 (wf w 0 4) }
def decSdesc (w : Nat) : FmtSdesc :=
  { rm := BitVec.ofNat 2 (wf w 16 2), ra := BitVec.ofNat 5 (wf w 11 5), rb := BitVec.ofNat 5 (wf w 6 5), ch := BitVec.ofNat 3 (wf w 3 3), z := BitVec.ofNat 2 (wf w 0 2) }
def decSstop (w : Nat) : FmtSstop :=
  { rm := BitVec.ofNat 2 (wf w 16 2), zhi := BitVec.ofNat 10 (wf w 6 10), ch := BitVec.ofNat 3 (wf w 3 3), zlo := BitVec.ofNat 3 (wf w 0 3) }
def decSstat (w : Nat) : FmtSstat :=
  { rm := BitVec.ofNat 2 (wf w 16 2), rd := BitVec.ofNat 5 (wf w 11 5), zhi := BitVec.ofNat 5 (wf w 6 5), ch := BitVec.ofNat 3 (wf w 3 3), sel := BitVec.ofNat 2 (wf w 1 2), zlo := BitVec.ofNat 1 (wf w 0 1) }
def decSend (w : Nat) : FmtSend :=
  { rm := BitVec.ofNat 2 (wf w 16 2), ra := BitVec.ofNat 5 (wf w 11 5), rb := BitVec.ofNat 5 (wf w 6 5), rel := wf w 5 1 == 1, z := BitVec.ofNat 5 (wf w 0 5) }
def decRecvSel (w : Nat) : FmtRecvSel :=
  { rm := BitVec.ofNat 2 (wf w 16 2), rd := BitVec.ofNat 5 (wf w 11 5), qmask := BitVec.ofNat 8 (wf w 3 8), rot := wf w 2 1 == 1, z := BitVec.ofNat 2 (wf w 0 2) }
def decMovq (w : Nat) : FmtMovq :=
  { rm := BitVec.ofNat 2 (wf w 16 2), rd := BitVec.ofNat 5 (wf w 11 5), q := BitVec.ofNat 3 (wf w 8 3), w := wf w 7 1 == 1, z := BitVec.ofNat 7 (wf w 0 7) }
def decPset (w : Nat) : FmtPset :=
  { rm := BitVec.ofNat 2 (wf w 16 2), ra := BitVec.ofNat 5 (wf w 11 5), z := BitVec.ofNat 11 (wf w 0 11) }
def decPwait (w : Nat) : FmtPwait :=
  { rm := BitVec.ofNat 2 (wf w 16 2), rd := BitVec.ofNat 5 (wf w 11 5), ra := BitVec.ofNat 5 (wf w 6 5), clr := wf w 5 1 == 1, z := BitVec.ofNat 5 (wf w 0 5) }
def decBarr (w : Nat) : FmtBarr :=
  { rm := BitVec.ofNat 2 (wf w 16 2), rd := BitVec.ofNat 5 (wf w 11 5), id := BitVec.ofNat 7 (wf w 4 7), z := BitVec.ofNat 2 (wf w 0 2) }
def decBarm (w : Nat) : FmtBarm :=
  { rm := BitVec.ofNat 2 (wf w 16 2), ra := BitVec.ofNat 5 (wf w 11 5), id := BitVec.ofNat 7 (wf w 4 7), z := BitVec.ofNat 4 (wf w 0 4) }
def decHsig (w : Nat) : FmtHsig :=
  { rm := BitVec.ofNat 2 (wf w 16 2), ra := BitVec.ofNat 5 (wf w 11 5), n := BitVec.ofNat 2 (wf w 9 2), z := BitVec.ofNat 9 (wf w 0 9) }

/-- Who issues a word: its predicate fields come from the word. -/
def decIss (core : BitVec 10) (thr : BitVec 2) (hw : HwErr) (w : Nat) : Iss :=
  { core := core, thr := thr, pn := wf w 25 1 == 1, pi := BitVec.ofNat 3 (wf w 22 3), hw := hw }

/-- The `SYS` group (R89). -/
def decSys (x : Iss) (w : Nat) : Option Instr :=
  match wf w 17 5 with
  | 0 => some (.sysNop x (decS w))
  | 1 => some (.syscall x (decS w))
  | 2 => some (.brk x (decS w))
  | 3 => some (.eret x (decS w))
  | 4 => some (.remfence x (decS w))
  | 5 => some (.iinv x (decS w))
  | 6 => some (.ctxsv x (decS w))
  | 7 => some (.ctxld x (decS w))
  | _ => none

/-- The `ALU` group (R88). -/
def decAlu (x : Iss) (w : Nat) : Option Instr :=
  match wf w 0 7 with
  | 0 => some (.add x (decR w))
  | 1 => some (.sub x (decR w))
  | 2 => some (.and x (decR w))
  | 3 => some (.or x (decR w))
  | 4 => some (.xor x (decR w))
  | 5 => some (.andn x (decR w))
  | 6 => some (.sll x (decR w))
  | 7 => some (.srl x (decR w))
  | 8 => some (.sra x (decR w))
  | 9 => some (.min x (decR w))
  | 10 => some (.max x (decR w))
  | 11 => some (.minu x (decR w))
  | 12 => some (.maxu x (decR w))
  | 13 => some (.clz x (decR w))
  | 14 => some (.ctz x (decR w))
  | 15 => some (.popc x (decR w))
  | 16 => some (.mul x (decR w))
  | 17 => some (.mulh x (decR w))
  | 18 => some (.mulhu x (decR w))
  | 19 => some (.div x (decR w))
  | 20 => some (.divu x (decR w))
  | 21 => some (.rem x (decR w))
  | 22 => some (.remu x (decR w))
  | _ => none

/-- The shift group (R87). -/
def decShift (x : Iss) (w : Nat) : Option Instr :=
  match wf w 6 2 with
  | 0 => some (.slli x (decSh w))
  | 1 => some (.srli x (decSh w))
  | 2 => some (.srai x (decSh w))
  | _ => none

/-- The `PLOG` group (R90). -/
def decPlog (x : Iss) (w : Nat) : Option Instr :=
  match wf w 9 4 with
  | 0 => some (.plogAnd x (decL w))
  | 1 => some (.plogOr x (decL w))
  | 2 => some (.plogXor x (decL w))
  | 3 => some (.plogAndn x (decL w))
  | 4 => some (.plogOrn x (decL w))
  | 5 => some (.plogMov x (decL w))
  | 6 => some (.plogNot x (decL w))
  | 7 => some (.plogSet x (decL w))
  | 8 => some (.plogClr x (decL w))
  | _ => none

/-- The repeat prefixes (R96). -/
def decRep (x : Iss) (w : Nat) (next : W32) : Option Instr :=
  match wf w 21 1 with
  | 0 => some (.rpt x (decRpt w) next)
  | _ => some (.rptn x (decRptn w) next)

/-- The `AMO` group (R91). -/
def decAmoGroup (x : Iss) (w : Nat) : Option Instr :=
  match wf w 0 4 with
  | 0 => some (.amoAdd x (decAmo w))
  | 1 => some (.amoAnd x (decAmo w))
  | 2 => some (.amoOr x (decAmo w))
  | 3 => some (.amoXor x (decAmo w))
  | 4 => some (.amoSwap x (decAmo w))
  | 5 => some (.amoMin x (decAmo w))
  | 6 => some (.amoMax x (decAmo w))
  | 7 => some (.amoMinu x (decAmo w))
  | 8 => some (.amoMaxu x (decAmo w))
  | 9 => some (.amoCas x (decAmo w))
  | _ => none

/-- Block 56 (R92). -/
def decB56 (x : Iss) (w : Nat) : Option Instr :=
  match wf w 18 4 with
  | 0 => some (.tld x (decCM w))
  | 1 => some (.tst x (decCM w))
  | 2 => some (.tmma x (decTmma w))
  | 3 => some (.tzero x (decTzero w))
  | 4 => some (.tfree x (decTfree w))
  | 5 => some (.tsld x (decCM w))
  | 6 => some (.tsst x (decCM w))
  | 7 => some (.tfin x (decTfin w))
  | 8 => some (.tald x (decCM w))
  | 9 => some (.tast x (decCM w))
  | _ => none

/-- Block 57, minor 2 (R92). -/
def decB57m2 (x : Iss) (w : Nat) : Option Instr :=
  match wf w 0 5 with
  | 0 => some (.varithAdd x (decVar w))
  | 1 => some (.varithSub x (decVar w))
  | 2 => some (.varithMul x (decVar w))
  | 3 => some (.varithMin x (decVar w))
  | 4 => some (.varithMax x (decVar w))
  | 5 => some (.varithFma x (decVar w))
  | 6 => some (.varithFms x (decVar w))
  | 7 => some (.varithAbs x (decVar w))
  | 8 => some (.varithNeg x (decVar w))
  | _ => none

/-- Block 57, minor 4 (R92). -/
def decB57m4 (x : Iss) (w : Nat) : Option Instr :=
  match wf w 1 1 with
  | 0 => some (.vcvtNarrow x (decVcvt w))
  | _ => some (.vcvtWiden x (decVcvt w))

/-- Block 57, minor 5 (R92). -/
def decB57m5 (x : Iss) (w : Nat) : Option Instr :=
  match wf w 2 4 with
  | 0 => some (.vsfExp x (decVV w))
  | 1 => some (.vsfExp2 x (decVV w))
  | 2 => some (.vsfLog x (decVV w))
  | 3 => some (.vsfLog2 x (decVV w))
  | 4 => some (.vsfRcp x (decVV w))
  | 5 => some (.vsfSqrt x (decVV w))
  | 6 => some (.vsfRsqrt x (decVV w))
  | 7 => some (.vsfTanh x (decVV w))
  | 8 => some (.vsfSigmoid x (decVV w))
  | 9 => some (.vsfErf x (decVV w))
  | 10 => some (.vsfSin x (decVV w))
  | 11 => some (.vsfCos x (decVV w))
  | _ => none

/-- Block 57, minor 6 (R92). -/
def decB57m6 (x : Iss) (w : Nat) : Option Instr :=
  match wf w 3 3 with
  | 0 => some (.vredSum x (decVred w))
  | 1 => some (.vredMax x (decVred w))
  | 2 => some (.vredMin x (decVred w))
  | 3 => some (.vredArgmax x (decVred w))
  | 4 => some (.vredIntSum x (decVred w))
  | 5 => some (.vredIntMax x (decVred w))
  | 6 => some (.vredIntMin x (decVred w))
  | _ => none

/-- Block 57, minor 8 (R92). -/
def decB57m8 (x : Iss) (w : Nat) : Option Instr :=
  match wf w 15 1 with
  | 0 => some (.vmovtToMatrix x (decVmovt w))
  | _ => some (.vmovtToVector x (decVmovt w))

/-- Block 57, minor 9 (R92). -/
def decB57m9 (x : Iss) (w : Nat) : Option Instr :=
  match wf w 14 2 with
  | 0 => some (.vftqRead x (decVftq w))
  | 1 => some (.vftqPop x (decVftq w))
  | 2 => some (.vftqStat x (decVftq w))
  | _ => none

/-- Block 57, minor 11 (R92). -/
def decB57m11 (x : Iss) (w : Nat) : Option Instr :=
  match wf w 2 4 with
  | 0 => some (.vbitAnd x (decVV w))
  | 1 => some (.vbitOr x (decVV w))
  | 2 => some (.vbitXor x (decVV w))
  | 3 => some (.vbitAndn x (decVV w))
  | 4 => some (.vbitSll x (decVV w))
  | 5 => some (.vbitSrl x (decVV w))
  | 6 => some (.vbitSra x (decVV w))
  | 7 => some (.vbitSel x (decVV w))
  | 8 => some (.vbitMov x (decVV w))
  | _ => none

/-- Block 57, minor 12 (R92). -/
def decB57m12 (x : Iss) (w : Nat) : Option Instr :=
  match wf w 14 2 with
  | 0 => some (.vmovgBcast x (decVmovg w))
  | 1 => some (.vmovgGet0 x (decVmovg w))
  | 2 => some (.vmovgGet x (decVmovg w))
  | _ => none

/-- Block 57 (R92). -/
def decB57 (x : Iss) (w : Nat) : Option Instr :=
  match wf w 18 4 with
  | 0 => some (.vld x (decCM w))
  | 1 => some (.vst x (decCM w))
  | 2 => decB57m2 x w
  | 3 => some (.vcmp x (decVcmp w))
  | 4 => decB57m4 x w
  | 5 => decB57m5 x w
  | 6 => decB57m6 x w
  | 7 => some (.vperm x (decVperm w))
  | 8 => decB57m8 x w
  | 9 => decB57m9 x w
  | 10 => some (.vsetvl x (decVsetvl w))
  | 11 => decB57m11 x w
  | 12 => decB57m12 x w
  | _ => none

/-- Block 58, minor 0 (R92). -/
def decB58m0 (x : Iss) (w : Nat) : Option Instr :=
  match wf w 2 1 with
  | 0 => some (.sdescPost x (decSdesc w))
  | _ => some (.sdescResume x (decSdesc w))

/-- Block 58 (R92). -/
def decB58 (x : Iss) (w : Nat) : Option Instr :=
  match wf w 18 4 with
  | 0 => decB58m0 x w
  | 1 => some (.sstop x (decSstop w))
  | 2 => some (.sstat x (decSstat w))
  | _ => none

/-- Block 59, minor 6 (R92). -/
def decB59m6 (x : Iss) (w : Nat) : Option Instr :=
  match wf w 2 2 with
  | 0 => some (.barrWait x (decBarr w))
  | 1 => some (.barrArrive x (decBarr w))
  | 2 => some (.barrTest x (decBarr w))
  | _ => none

/-- Block 59 (R92). -/
def decB59 (x : Iss) (w : Nat) : Option Instr :=
  match wf w 18 4 with
  | 0 => some (.send x (decSend w))
  | 1 => some (.recvSel x (decRecvSel w))
  | 2 => some (.movq x (decMovq w))
  | 3 => some (.pset x (decPset w))
  | 4 => some (.pclr x (decPset w))
  | 5 => some (.pwait x (decPwait w))
  | 6 => decB59m6 x w
  | 7 => some (.barm x (decBarm w))
  | 8 => some (.hsig x (decHsig w))
  | _ => none

/-- The instruction row that a word stands for; none where the word belongs to no row, which a core answers with
`UNDEF` (R87-R92). `next` is the word after a repeat prefix. -/
def decodeCore (core : BitVec 10) (thr : BitVec 2) (hw : HwErr) (next : W32) (w : Nat) : Option Instr :=
  let x := decIss core thr hw w
  match wf w 26 6 with
  | 0 => decSys x w
  | 1 => decAlu x w
  | 2 => some (.addi x (decI w))
  | 3 => some (.andi x (decI w))
  | 4 => some (.ori x (decI w))
  | 5 => some (.xori x (decI w))
  | 6 => decShift x w
  | 7 => some (.lui x (decU w))
  | 8 => some (.cmp x (decCmp w))
  | 9 => some (.cmpi x (decCmpi w))
  | 10 => decPlog x w
  | 12 => some (.br x (BitVec.ofNat 22 (wf w 0 22)))
  | 13 => some (.call x (BitVec.ofNat 22 (wf w 0 22)))
  | 14 => some (.jalr x (decI w))
  | 15 => decRep x w next
  | 16 => some (.csrr x (decI w))
  | 17 => some (.csrw x (decI w))
  | 18 => some (.csrs x (decI w))
  | 19 => some (.csrc x (decI w))
  | 20 => some (.ld8 x (decM w))
  | 21 => some (.ld8u x (decM w))
  | 22 => some (.ld16 x (decM w))
  | 23 => some (.ld16u x (decM w))
  | 24 => some (.ld32 x (decM w))
  | 25 => some (.ld32u x (decM w))
  | 26 => some (.ld64 x (decM w))
  | 27 => some (.st8 x (decM w))
  | 28 => some (.st16 x (decM w))
  | 29 => some (.st32 x (decM w))
  | 30 => some (.st64 x (decM w))
  | 31 => some (.ldAcq x (decM w))
  | 32 => some (.stRel x (decM w))
  | 33 => some (.ldAcqr x (decR w) (BitVec.ofNat 7 (wf w 0 7)))
  | 34 => decAmoGroup x w
  | 35 => some (.waitm x (decR w) (BitVec.ofNat 7 (wf w 0 7)))
  | 56 => decB56 x w
  | 57 => decB57 x w
  | 58 => decB58 x w
  | 59 => decB59 x w
  | _ => none

/-- The command that a word spells by the table's bits: the table gives no row any bits. -/
def decodeTableWord (_nbits _w : Nat) : Option Instr := none

end Sys2Proof
end

