-- ==== Sys2Proof/Machine/CoreState.lean ====
section
/-!
DEFINITION. What one core holds (R17, R81-R83, R106, R135, R155-R158, R188-R208, R217-R224): its threads, engines,
stream channels, message queues, and the accesses it has in flight.
-/
namespace Sys2Proof.Machine

/-! ### Addresses -/

/-- Where the bytes of an access lie: a device physical address of this device, local memory windows and tiers alike
(R265), or a global fabric address of another device (R269). -/
inductive Place where
  | here (pa : Nat)
  | remote (gfa : W64)
deriving DecidableEq, Repr

/-- The address spaces within which the range scoreboard compares (R220): a core's LM, the partition virtual space,
the global fabric space of another device. -/
inductive Space where
  | lm (core : Nat)
  | virt
  | glob (dev : Nat)
deriving DecidableEq, Repr

/-- An address resolved: its place, its scoreboard space, and its position in that space. -/
structure Resolved where
  place : Place
  space : Space
  lo : Nat
deriving DecidableEq, Repr

/-! ### Exceptions (R99) -/

/-- An exception that an instruction raises. -/
structure Exc where
  code : Nat
  stval : W64
  emul : Bool := false
  loc : Bool := false
deriving DecidableEq, Repr

/-! ### Threads -/

/-- A load in its visible delay (R93): the access it belongs to, the number of its instruction among those R93
counts, its register, and its value once that has arrived. -/
structure PLoad where
  id : Nat
  n : Nat
  rd : BitVec 5
  val : Option W64
deriving DecidableEq, Repr

/-- Where the message of a blocked `SEND` is (R184-R185): on its way to the destination, its answer on the way back
(accepted or refused), held by the sender's message unit, or discarded in a port that failed (R379). -/
inductive SendPhase where
  | flying
  | answered (accepted : Bool)
  | held
  | lost
deriving DecidableEq, Repr

/-- What a multi-row read fills once its last byte has arrived (R217): a vector register, a scale register, an
accumulator, row `r` of a tile, a thread's context, a channel's descriptor store. -/
inductive GatherKind where
  | vld (vr : BitVec 5)
  | tsld (ts : BitVec 3)
  | tald (acc : BitVec 2) (int : Bool)
  | row (tile : BitVec 3) (r : Nat) (base stride : W64)
  | ctxld (target : BitVec 2) (base : W64) (stage : Nat) (vs : Bool) (tiu : Nat)
  | sdesc (ch : BitVec 3) (list : W64) (n : Nat)
deriving DecidableEq, Repr

/-- What a thread waits in (R78); `pc` names the waiting instruction. -/
inductive Wait where
  /-- `MOVQ` on a queue (R192). -/
  | movq (rd : BitVec 5) (q : BitVec 3) (two : Bool)
  /-- `RECV.SEL` on the queues of a mask (R193). -/
  | recvSel (rd : BitVec 5) (mask : BitVec 8) (rot : Bool)
  /-- `VFTQ READ` of group `g` into `vr` on an empty finished-tile queue (R151); the locator of the entry whose data fail
  their code when it reads them (R154). -/
  | vftqRead (vr : BitVec 5) (g : BitVec 4) (bad : Option W64)
  /-- `VFTQ POP` on an empty finished-tile queue (R151). -/
  | vftqPop
  /-- A blocked `SEND` (R184): the message, where it is, and whether an event waits for its answer (R185). -/
  | send (header : W64) (words : List W32) (time : W64) (phase : SendPhase) (event : Bool)
  /-- `PWAIT` (R204). -/
  | pwait (rd : BitVec 5) (limit : W64) (clr : Bool)
  /-- `WAITM` on the word at a place (R230): its register, compared value, limit and address, whether its first read has been
  performed, whether a watch is registered (else it polls), and the value that ends it once a write made one. -/
  | waitm (rd : BitVec 5) (cmp limit ea : W64) (place : Place) (readDone watching : Bool) (hit : Option W64)
  /-- `BARR WAIT` (R207). -/
  | barr (rd : BitVec 5) (id : BitVec 7)
  /-- `REMFENCE` (R232). -/
  | remfence
  /-- `HSIG` while the control complex holds 64 signals (R200), and when it issued (R322). -/
  | hsig (value : W64) (n : BitVec 2) (time : W64)
  /-- `SDESC` while its channel is `RUNNING` or `STOPPING`, or its list read is held back (R159): its place in the
  core's issue order, the list address and length, or a resume. -/
  | sdesc (seq : Nat) (ch : BitVec 3) (list : W64) (n : W64) (resume : Bool)
  /-- A `TLD` (or `TST`) between its rows (R126): its number among the core's accesses, the tile, row 0's address and
  the row stride. -/
  | rows (id : Nat) (store : Bool) (tile : BitVec 3) (base stride : W64)
  /-- A multi-row read some of whose lines come from another device (R368): its number among the core's accesses, the
  bytes of each line that has arrived, and the lines still to be asked for, with their length (R174): number, address,
  global fabric address. -/
  | gather (id : Nat) (kind : GatherKind) (lines : List (Option (List Byte))) (todo : List (Nat × W64 × W64)) (len : Nat)
  /-- An exception of the instruction that waits for the thread's earlier work to complete (R98, R100). -/
  | trapping (e : Exc)
deriving DecidableEq, Repr

/-- The state of one thread (R79, R81, R82). -/
structure Thread where
  /-- General registers; `g0` is never written (R81). -/
  g : Vector W64 32
  /-- Predicates; bit 0 is never read (R81). -/
  p : BitVec 8
  pc : W64
  /-- `THRSTAT` (R82). -/
  stat : W64
  scause : W64
  sepc : W64
  stval : W64
  svec : W64
  sscr : W64
  imask : W64
  pmask : W64
  srseed : W32
  /-- `RPTCNT` (R97). -/
  rptcnt : W64
  /-- A repetition sequence is being executed now, and it is an `RPTN` (R96). -/
  rptOn : Bool
  rptN : Bool
  /-- Addresses of the repeated instructions at which exceptions have suspended an `RPTN` sequence that has not been
  resumed since (R97). -/
  rptSusp : List W64
  /-- The number of its first repetition, and the base register that each repetition advances, `true` for the CM
  format (R96). -/
  rptFrom : Nat
  rptBase : Option (BitVec 5 × Bool)
  swlim : W64
  /-- Instructions counted by R93 so far. -/
  n : Nat
  loads : List PLoad
  barPend : BitVec 80
  barPar : BitVec 80
  /-- The queue of the last `RECV.SEL` with `ROT` = 1 (R193). -/
  rot : BitVec 3
  wait : Option Wait
  /-- Address of the first failed remote write since the last `REMFENCE` (R233). -/
  remErr : Option W64
  /-- A `WATCHDOG` waits for its boundary (R99). -/
  wdog : Bool
deriving DecidableEq, Repr

/-- `THRCTLn` of R79 but for its `PC`, which is the thread's, and a stop that has been requested but not taken. -/
structure ThrCtl where
  prio : BitVec 2
  run : Bool
  stopped : Bool
  halted : Bool
  hcause : BitVec 6
  stopReq : Bool
deriving DecidableEq, Repr

/-! ### Accesses in flight -/

/-- The kinds of scalar access that hold a scoreboard entry (R217). -/
inductive AccKind where
  /-- A load of `size` bytes into `rd`; `plain` loads use the data cache (R222), `acq` loads hold what follows. -/
  | load (rd : BitVec 5) (size : Nat) (signed plain acq : Bool)
  | store (size : Nat) (data : W64)
  /-- `AMO` (R91): the operation's `func`[3:0], 32 bits, operand, expected value of `CAS`. -/
  | amo (rd : BitVec 5) (op : BitVec 4) (w32 : Bool) (opnd exp : W64)
  /-- The first read of a `WAITM`. -/
  | waitm
  /-- The rows that the collector reads from LM for a `TMMA` with `SRC` = 1. -/
  | collect
  /-- The lines of an instruction that moves many, written or read; the ranges that bound those of them that lie in
  further spaces. -/
  | lines (write : Bool) (more : List (Space × Nat × Nat))
  /-- The rows of a `VST` that has read its register and waits until nothing of its thread before it can raise an exception
  (R98), with their bytes. -/
  | vst (ls : List (W64 × Resolved)) (data : BitVec 2048)
deriving DecidableEq, Repr

/-- One access in flight: its issuing thread and instruction number, its place, the range and space the scoreboard
compares, whether it has left the core (R173) and been performed at its home (R216), the value it read, the line it
fills, and the thread as it was before the instruction, to which a late exception returns (R98). -/
structure Acc where
  id : Nat
  thr : BitVec 2
  n : Nat
  kind : AccKind
  ea : W64
  place : Place
  space : Space
  lo : Nat
  len : Nat
  injected : Bool
  performed : Bool
  val : W64
  /-- The data cache line read with the value, and whether it may still be installed (R224). -/
  line : Option (BitVec 512)
  fill : Bool
  /-- The exception that its home's answer raises: code and `STVAL`. -/
  err : Option (Nat × W64)
  snap : Thread
  /-- Its thread has been stopped at once since (R340): it completes without it (R238). -/
  orphan : Bool := false
  /-- The store of an `ST.REL` (R227). -/
  rel : Bool := false
deriving DecidableEq, Repr

/-- A write to another device that has been injected and not answered (R231). -/
structure RemWrite where
  id : Nat
  thr : BitVec 2
  gfa : W64
deriving DecidableEq, Repr

/-- A valid line of the data cache (R222), by the place of its first byte and the effective address it was filled
by. -/
structure DLine where
  place : Place
  ea : Nat
  bytes : BitVec 512
deriving DecidableEq, Repr

/-- A leaf of the translation cache (R275): the virtual page, its size in address bits, and the level-2 entry. -/
structure TlbEntry where
  vpage : Nat
  log : Nat
  leaf : W64
deriving DecidableEq, Repr

/-! ### The engines -/

/-- A read of many lines by an instruction in an engine's queue, lines of another device among them: its number among the
core's accesses, the bytes of each line that has arrived, and the lines still to be asked for, with their length. -/
structure Gather where
  id : Nat
  lines : List (Option (List Byte))
  todo : List (Nat × W64 × W64)
  len : Nat
deriving DecidableEq, Repr

/-- The memory instructions of the matrix engine (R121). -/
inductive TileMem where
  | tld
  | tst
  | tsld
  | tsst
  | tald
  | tast
deriving DecidableEq, Repr

/-- The operands of a `TMMA` as its collector buffer holds them (R119): both element rows and scale bytes. -/
structure Collected where
  rowsA : BitVec 16384
  rowsB : BitVec 16384
  scalesA : BitVec 4096
  scalesB : BitVec 4096
deriving DecidableEq, Repr

/-- An instruction in the matrix queue that has not retired (R118): `TMMA` with the configuration in force at its
issue and the start of its generator run (R68), `TFIN`, `TZERO` and `TFREE`, a memory instruction with its number among
the core's accesses, its register field, row 0's address and the row stride, and the place of a `VMOVT` in the order
(R141). -/
inductive MKind where
  | tmma (rm : BitVec 2) (acc : BitVec 2) (ta tb : BitVec 3) (zf : Bool) (cfgA cfgB : W64) (seed : W32)
      (buf : Option Collected)
  | tfin (acc : BitVec 2) (tag : BitVec 8) (waited : Bool)
  | zero (tiles : BitVec 8) (accs : BitVec 4)
  | mem (op : TileMem) (id : Nat) (reg : BitVec 5) (base stride : W64)
  | movt
deriving DecidableEq, Repr

/-- A queued matrix instruction with its thread, its instruction number, and thread and `TIU` before it (R98). -/
structure MOp where
  thr : BitVec 2
  n : Nat
  kind : MKind
  snap : Thread
  tiu : W64
deriving DecidableEq, Repr

/-- An entry of the finished-tile queue (R150). -/
structure FtEntry where
  bytes : BitVec 32768
  tag : BitVec 8
  int : Bool
  acc : BitVec 2
deriving DecidableEq, Repr

/-- `VARITH` operations (R143). -/
inductive VarOp where
  | add
  | sub
  | mul
  | min
  | max
  | fma
  | fms
  | abs
  | neg
deriving DecidableEq, Repr

/-- `VRED` operations (R146). -/
inductive RedOp where
  | sum
  | max
  | min
  | argmax
  | intSum
  | intMax
  | intMin
deriving DecidableEq, Repr

/-- `VSF` functions (R147). -/
inductive SfOp where
  | exp
  | exp2
  | log
  | log2
  | rcp
  | sqrt
  | rsqrt
  | tanh
  | sigmoid
  | erf
  | sin
  | cos
deriving DecidableEq, Repr

/-- A vector instruction that can stand in the engine's queue (R138): its operands, the value that `VMOVG BCAST` moves, the
direction of a `VMOVT`, and the number among the core's accesses, row 0's address and the row stride of `VLD` and
`VST`. -/
inductive VKind where
  | arith (op : VarOp) (o : FmtVar)
  | cmp (o : FmtVcmp)
  | bit (op : Nat) (o : FmtVV)
  | perm (o : FmtVperm)
  | red (op : RedOp) (o : FmtVred)
  | sf (op : SfOp) (o : FmtVV)
  | narrow (o : FmtVcvt)
  | widen (o : FmtVcvt)
  | bcast (v : BitVec 5) (x : W32)
  | movt (toVector : Bool) (o : FmtVmovt)
  | vld (id : Nat) (vr : BitVec 5) (base stride : W64)
  | vst (id : Nat) (vr : BitVec 5) (base stride : W64)
deriving DecidableEq, Repr

/-- A queued vector instruction with its thread, its instruction number, `VL` and the start of its generator run at its
issue (R68, R154), and its thread before it (R98). -/
structure VOp where
  thr : BitVec 2
  n : Nat
  kind : VKind
  vl : W64
  seed : W32
  snap : Thread
deriving DecidableEq, Repr

/-- A vector instruction that has ended and may still be discarded (R98): the registers and `VL` before it, and the entry
that a `VFTQ POP` removed. -/
structure VDone where
  thr : BitVec 2
  n : Nat
  v : Vector (BitVec 2048) 32
  vl : W64
  popped : Option FtEntry
deriving DecidableEq, Repr

/-! ### Stream channels -/

/-- The states of a stream channel (R158). -/
inductive ChState where
  | idle
  | running
  | stopping
  | stopped
  | faulted
deriving DecidableEq, Repr

/-- A stream channel (R158-R167). -/
structure Channel where
  state : ChState
  fnr : Bool
  list : W64
  /-- Descriptors of the list, and the store (R158). -/
  n : Nat
  store : List (BitVec 256)
  didx : Nat
  fcode : BitVec 6
  fent : Bool
  fside : Bool
  fidx : BitVec 16
  faddr : W64
  /-- Elements of the current descriptor read, and destination bytes of it written (R161 `DONE`). -/
  rd : Nat
  wr : Nat
  /-- The holding register: converted destination bytes, oldest first, and the bytes of a part-read element. -/
  hold : List Byte
  part : List Byte
  /-- The block-list entries in use on the two sides (R165): index, the checked entry, bytes of it consumed. -/
  srcIdx : Nat
  srcEnt : Option (BitVec 128)
  srcOff : Nat
  dstIdx : Nat
  dstEnt : Option (BitVec 128)
  dstOff : Nat
  /-- The mode of the posting thread (R274) and the core's access count at the start of the list (R219). -/
  user : Bool
  since : Nat
  /-- Writes of the current descriptor to another device not yet acknowledged (R166). -/
  remOut : Nat
  /-- The channel's pennant is due once those are acknowledged (R171). -/
  pennDue : Bool
  /-- Writes of lists that a `POST` has replaced since, not yet acknowledged, and a pennant due once they are (R159,
  R171). -/
  oldOut : Nat
  oldDue : Bool
  /-- Bytes of the post that the current descriptor makes, so far (R371). -/
  post : List Byte
deriving DecidableEq, Repr

/-! ### Messages -/

/-- A message at its destination or on its way (R181): delivered header, send time and payload. -/
structure Msg where
  header : W64
  time : W64
  words : List W32
deriving DecidableEq, Repr

/-- A message in a receive queue (R190): its number in order of acceptance (R195), the message, words of it popped so
far, words left, and whether its payload arrived uncorrectable (R413 source 10). -/
structure QMsg where
  seq : Nat
  msg : Msg
  popped : Nat
  left : List W32
  bad : Bool
deriving DecidableEq, Repr

/-- The counters of R198. -/
structure MsgCounts where
  out : W64
  inn : W64
  refused : W64
  wordsIn : W64
  wordsPop : W64
  wordsGone : W64
deriving DecidableEq, Repr

/-- The counters of R177 and R401. -/
structure CoreCounts where
  srcEl : W64
  dstEl : W64
  dropEl : W64
  dstBytes : W64
  pcTmma : W64
  pcReissue : W64
  pcArray : W64
  pcVinstr : W64
  pcNird : W64
  pcNiwr : W64
  pcNirem : W64
  pcNiidle : W64
deriving DecidableEq, Repr

/-- The matrix engine (R106). -/
structure Matrix where
  t : Vector (BitVec 16384) 8
  ts : Vector (BitVec 4096) 8
  a : Vector (BitVec 32768) 4
  tcfg : Vector W64 8
  tiu : W64
  trow : W64
  tfault : W64
  queue : List MOp
  ftq : List FtEntry
  ftIn : W64
  ftOut : W64
  /-- Corrected reissues of the step in progress (R132). -/
  reissues : Nat
  /-- The read of other devices' lines that the queue's memory instruction makes. -/
  gath : Option Gather
deriving DecidableEq, Repr

/-- The vector engine (R135). -/
structure VecEng where
  v : Vector (BitVec 2048) 32
  vl : W64
  /-- Issued instructions that have not run, those that have run and not retired, oldest first (R98, R138), and the read of
  other devices' lines that the queue's `VLD` makes. -/
  queue : List VOp
  done : List VDone
  gath : Option Gather
deriving DecidableEq, Repr

/-- The message unit (R188-R191). -/
structure MsgUnit where
  qcfg : Vector W64 8
  tagm : Vector W64 8
  q : Vector (List QMsg) 8
  /-- `SPHEAD` of each queue (R189), and of each of its spilled messages, oldest first, the form `HDR` in which it was
  accepted and its number in order of acceptance; the records are in LM (R191). -/
  spHead : Vector Nat 8
  spForms : Vector (List (Nat × Nat)) 8
  counts : MsgCounts
deriving DecidableEq, Repr

/-- The memory side of a core: scoreboard, data cache, translation cache, remote writes (R217-R233, R275). -/
structure MemUnit where
  accs : List Acc
  nextId : Nat
  peak : Nat
  dcache : List DLine
  tlb : List TlbEntry
  remOut : List RemWrite
deriving DecidableEq, Repr

/-- One core (R17). -/
structure Core where
  thr : Vector Thread 4
  ctl : Vector ThrCtl 4
  /-- Stall counter i of thread t is entry 16 t + i (R178). -/
  stall : Vector W64 64
  engbind : W64
  /-- The thread that issued last (R78). -/
  last : BitVec 2
  /-- The lines that the instruction cache holds, by effective address, the latest first (R17). -/
  icache : List Nat
  mx : Matrix
  vx : VecEng
  ch : Vector Channel 8
  /-- The channel last served at each priority p by each resource r of R168, as entry 4 r + p. -/
  served : Vector (BitVec 3) 12
  mu : MsgUnit
  mem : MemUnit
  penn : W32
  nisplit : W32
  nisplitStaged : Option W32
  seqno : W32
  /-- Trace records formed in the step in progress (R399). -/
  traced : Nat
  cnt : CoreCounts
  /-- Times of the corrected events of R422's window, and the source index that made the core suspect (R423). -/
  corr : List W64
  suspSrc : Nat
deriving DecidableEq, Repr

/-! ### Reset (R79, R82, R108, R137, R161, R175, R189, R194) -/

/-- A thread after device reset. -/
def Thread.reset : Thread where
  g := Vector.replicate 32 0
  p := 0
  pc := 0
  stat := 0
  scause := 0
  sepc := 0
  stval := 0
  svec := 0
  sscr := 0
  imask := 0
  pmask := 0
  srseed := 1
  rptcnt := 0
  rptOn := false
  rptN := false
  rptSusp := []
  rptFrom := 0
  rptBase := none
  swlim := 0x10000
  n := 0
  loads := []
  barPend := 0
  barPar := 0
  rot := 7
  wait := none
  remErr := none
  wdog := false

/-- `THRCTL` after device reset: stopped (R79). -/
def ThrCtl.reset : ThrCtl := ⟨0, false, true, false, 0, false⟩

/-- A channel after reset (R158, R161). -/
def Channel.reset : Channel where
  state := .idle
  fnr := false
  list := 0
  n := 0
  store := []
  didx := 0
  fcode := 0
  fent := false
  fside := false
  fidx := 0
  faddr := 0
  rd := 0
  wr := 0
  hold := []
  part := []
  srcIdx := 0
  srcEnt := none
  srcOff := 0
  dstIdx := 0
  dstEnt := none
  dstOff := 0
  user := false
  since := 0
  remOut := 0
  pennDue := false
  oldOut := 0
  oldDue := false
  post := []

/-- The matrix engine after reset: `ROWS` = 32 and `RBYTES` = 64 in every `TCFG` (R108). -/
def Matrix.reset : Matrix where
  t := Vector.replicate 8 0
  ts := Vector.replicate 8 0
  a := Vector.replicate 4 0
  tcfg := Vector.replicate 8 (BitVec.ofNat 64 (32 * 16 + 64 * 1024))
  tiu := 0
  trow := 0
  tfault := 0
  queue := []
  ftq := []
  ftIn := 0
  ftOut := 0
  reissues := 0
  gath := none

/-- The vector engine after reset: `LEN` = 64 (R137). -/
def VecEng.reset : VecEng := ⟨Vector.replicate 32 0, 64, [], [], none⟩

/-- The message unit after reset: `RINGLOG` = 8 in every `QCFG` (R189). -/
def MsgUnit.reset : MsgUnit where
  qcfg := Vector.replicate 8 (BitVec.ofNat 64 (8 * 256))
  tagm := Vector.replicate 8 0
  q := Vector.replicate 8 []
  spHead := Vector.replicate 8 0
  spForms := Vector.replicate 8 []
  counts := ⟨0, 0, 0, 0, 0, 0⟩

/-- The memory side after reset: nothing in flight, caches empty (R224). -/
def MemUnit.reset : MemUnit := ⟨[], 0, 0, [], [], []⟩

/-- A core after device reset. -/
def Core.reset : Core where
  thr := Vector.replicate 4 Thread.reset
  ctl := Vector.replicate 4 ThrCtl.reset
  stall := Vector.replicate 64 0
  engbind := 0
  last := 3
  icache := []
  mx := Matrix.reset
  vx := VecEng.reset
  ch := Vector.replicate 8 Channel.reset
  served := Vector.replicate 12 7
  mu := MsgUnit.reset
  mem := MemUnit.reset
  penn := 0
  nisplit := 0x84848484
  nisplitStaged := none
  seqno := 0
  traced := 0
  cnt := ⟨0, 0, 0, 0, 0, 0, 0, 0, 0, 0, 0, 0⟩
  corr := []
  suspSrc := 0

end Sys2Proof.Machine
end

