-- ==== Sys2Proof/Machine/DevState.lean ====
section
/-!
DEFINITION. What the device holds outside its cores: partitions, messages and requests on their way, and what has
left the device.
-/
namespace Sys2Proof.Machine

/-! ### Networks -/

/-- The sender of a message on its way (R184, R199, R367): a thread, a host `SIGNAL` of a partition by its number, another device. -/
inductive MsgSrc where
  | thread (core : Nat) (thr : BitVec 2)
  | host (part : Nat) (sig : Nat)
  | fabric (req : RemIn)
deriving DecidableEq, Repr

/-- A message on its way to a core of this device. -/
structure Flight where
  id : Nat
  src : MsgSrc
  dst : Nat
  msg : Msg
deriving DecidableEq, Repr

/-- What a request to another device serves at this one (R368). -/
inductive RemOrigin where
  /-- A load, `AMO` or `WAITM` read: the access's number. -/
  | acc (core : Nat) (id : Nat)
  /-- A line of the multi-row read the thread waits in. -/
  | line (core : Nat) (thr : BitVec 2) (i : Nat)
  /-- A line of the read of many that is number `id` of the core's accesses, at the head of the queue of an engine, the vector
  one or the matrix one. -/
  | eline (core : Nat) (vec : Bool) (id : Nat) (i : Nat)
  /-- A repeated `WAITM` read. -/
  | poll (core : Nat) (thr : BitVec 2)
  /-- A posted write (R231). -/
  | write (core : Nat) (thr : BitVec 2)
  | send (core : Nat) (thr : BitVec 2)
  /-- A stream channel's read or write beat, its read of a block-list entry of either side, or its post. -/
  | chanRead (core : Nat) (ch : BitVec 3)
  | chanWrite (core : Nat) (ch : BitVec 3) (gfa : W64)
  | chanEntry (core : Nat) (ch : BitVec 3) (dst : Bool)
  /-- A beat, entry or post of a list that the channel has left since: the channel waits for its acknowledgement (R171). -/
  | chanOld (core : Nat) (ch : BitVec 3) (counts : Bool) (read : Bool)
  /-- A post, with the time of its first injection (R391). -/
  | post (core : Nat) (ch : BitVec 3) (time : W64)
deriving DecidableEq, Repr

/-- An item that this device has sent into the fabric (R354, R368, R369). -/
inductive FabItem where
  /-- `READ` and `WRITE`; `bulk` for a stream channel's. -/
  | read (req : Nat) (core : Nat) (bulk : Bool) (gfa : W64) (len : Nat)
  | write (req : Nat) (core : Nat) (bulk : Bool) (gfa : W64) (bytes : List Byte)
  | amo (req : Nat) (core : Nat) (gfa : W64) (op : BitVec 4) (w32 : Bool) (opnd exp : W64)
  | msg (req : Nat) (core : Nat) (dev dst : Nat) (m : Msg)
  /-- A post of a channel, with its descriptor's `TAG` and its send time (R373). -/
  | post (req : Nat) (core : Nat) (ch : BitVec 3) (tag : Nat) (time : W64) (gfa : W64) (bytes : List Byte)
  /-- Answers, each for the request that it answers. -/
  | data (req : RemIn) (bytes : List Byte)
  | ack (req : RemIn)
  | err (req : RemIn) (code : BitVec 4)
  | answer (req : RemIn) (accepted : Bool)
  | bar (dev : Nat) (group : Nat) (kind : BarKind) (gen : Bool)
deriving DecidableEq, Repr

/-- A request to another device that awaits its answer (R370). -/
structure RemReq where
  id : Nat
  org : RemOrigin
  /-- The address that an error of it reports (R369). -/
  addr : W64
  /-- The elapsed time at its injection. -/
  sent : W64
deriving DecidableEq, Repr

/-! ### What the device sends to the host -/

/-- What has left over the PCIe link, oldest first: a posted write of bytes to host memory by the function that
serves a partition (R293), and an MSI-X message of a function's vector (R311; function 0 is the PF). -/
inductive HostOut where
  | write (part : Nat) (addr : Nat) (bytes : List Byte)
  | msix (fn vec : Nat)
deriving DecidableEq, Repr

/-! ### Partitions -/

/-- A host signal that the control complex holds (R200): sender, number and value, and when it was handed over. -/
structure HSig where
  core : Nat
  thr : BitVec 2
  n : BitVec 2
  value : W64
  time : W64
deriving DecidableEq, Repr

/-- An arrival at a barrier (R208): on its way to the root, or counted in the current generation; made by `ARRIVE` or
by `WAIT`. -/
structure BarArr where
  bar : Nat
  core : Nat
  thr : BitVec 2
  arrive : Bool
  counted : Bool
deriving DecidableEq, Repr

/-! ### Command packets (R315-R341) -/

/-- A packet that the decoder has read (R305): its number in order of reading, its device ring, opcode, bytes,
doorbell arrival and the time it was read. -/
structure Packet where
  id : Nat
  ring : Nat
  op : Nat
  bytes : List Byte
  arrival : W64
  read : W64
deriving DecidableEq, Repr

/-- The completions that a packet read still owes (R305, R321): entries held, and whether its first is written. -/
structure Owed where
  id : Nat
  ring : Nat
  entries : Nat
  first : Bool
deriving DecidableEq, Repr

/-- A completion formed and not yet written (R321); `DONE` is the time of writing where `done` says so, and `judge`
holds the partition and the counts of causes at admission of a hard item's final completion (R51). -/
structure Compl where
  ring : Nat
  pkt : Nat
  hsig : Bool
  op : Nat
  tag : Nat
  final : Bool
  status : Nat
  cause : Nat
  accepted : W64
  promised : W64
  done : Bool
  berth : Nat
  kind : Nat
  start : W64
  detail : W64
  /-- Bytes 0-55 of slots 1-3. -/
  extra : List (List Byte)
  /-- The final completion of an admitted item (R48). -/
  item : Bool
  judge : Option (Nat × List Nat)
  /-- Packets whose completions are written before this one (R328, R340). -/
  after : List Nat
  /-- The share of tier 2 that the item's restore time was computed with, 0 where it has no restore (R50). -/
  share : Nat
  /-- The bytes that its command moved or read: what its `ABORTED` completion reports at a reset (R323). -/
  moved : Nat
  /-- Its command waited for a boundary, a step end, a record or host memory (R331). -/
  waited : Bool
deriving DecidableEq, Repr

/-- What a firmware packet that has started still does before it completes (R331). -/
inductive JobKind where
  /-- `COPY_IN`, `COPY_OUT`, `FILL` (R336): device physical address and length of each 64-byte piece, in order. -/
  | copy (lines : List (Nat × Nat))
  /-- `STAGE_CONFIG` reading its image (R337): the bytes read for its scope check, and `LEN`. -/
  | stage (head : List Byte) (len : Nat)
  /-- `COUNTER_SNAPSHOT`: the bytes to send (R405). -/
  | snapshot (bytes : List Byte)
  | commit (target : Nat)
  | openB (berth : Nat)
  | closeB (berth : Nat)
  | moor (berth idx : Nat)
  | hold (part : Nat)
  | fence
deriving DecidableEq, Repr

/-- A firmware packet that has started, and the time at which CP0 finished its checks. -/
structure Job where
  pkt : Packet
  accepted : W64
  kind : JobKind
deriving DecidableEq, Repr

/-- A host `SIGNAL` whose message is not yet accepted (R329): its packet, core, signal, message, and whether the
message is on its way (else the control complex holds it). -/
structure HostSignal where
  pkt : Packet
  core : Nat
  n : Nat
  msg : Msg
  flying : Bool
deriving DecidableEq, Repr

/-! ### Programs, items, berths -/

/-- A band of the cost table (R32). -/
structure Band where
  occ : Nat
  units : Nat
  ns : Nat
deriving DecidableEq, Repr

/-- A partition image in the machine's terms (R437, R439): `PROGRAM`, `CODE`, `SLOTPLAN`, `COSTTABLE`, `BARRIERS`,
`REGS`. -/
structure Program where
  serial : Nat
  pus : Nat
  bns : Nat
  unitCyc : Nat
  sects : Nat
  seam : Nat
  decl : Nat
  traceMax : Nat
  cslots : Nat
  finalBar : Nat
  start : Bool
  entry : W64
  absent : List Nat
  code : List (Nat × List Byte)
  plans : AMap (List (BitVec 128))
  bands : List Band
  sets : List Nat
  pairs : List (W64 × W64)
deriving DecidableEq, Repr

/-- A partition commit that waits to take effect (R445): its program, the new T0 if it sets one, and its packet. -/
structure Commit where
  prog : Program
  t0 : Option W64
  job : Job
deriving DecidableEq, Repr

/-- A restore (R287-R289): its index, planned start and end, whether it has started, whether it has ended, and the
`T2SLOTS` that its time was computed with (R50). -/
structure Restore where
  idx : Nat
  startAt : W64
  endAt : W64
  started : Bool
  ended : Bool
  share : Nat
deriving DecidableEq, Repr

/-- An admitted item (R45-R55, R325). -/
structure Item where
  pkt : Packet
  cls : Nat
  berth : Option Nat
  /-- The `SUBMIT` named its berth. -/
  named : Bool
  steps : Nat
  weight : Nat
  deadline : W64
  accepted : W64
  promise : W64
  k0 : Nat
  /-- Steps completed; the item runs in the step in progress; its first step has started; a `CANCEL` ends it with the
  running step; its step was ended by `WDOG_FIRED` or broken by a quarantine. -/
  done : Nat
  running : Bool
  started : Bool
  cancelled : Bool
  broken : Bool
  rest : Option Restore
  causes : List Nat
deriving DecidableEq, Repr

/-- The states of a berth (R39). -/
inductive BerthState where
  | free
  | opened
  | admitted
  | running
  | closing
deriving DecidableEq, Repr

/-- A berth (R39, R334): its state, its class, and the `APP` of an opening that waits for its boundary. -/
structure Berth where
  st : BerthState
  cls : Nat
  opening : Option (List Byte)
deriving DecidableEq, Repr

/-- A step in progress (R30, R52): index, boundary time, elapsed time at the boundary, band; it has passed `B_NS` of
its band, it has passed B; a quarantine has broken it; a core was quarantined in it (R425). -/
structure StepRun where
  k : Nat
  time : W64
  began : W64
  band : Nat
  banded : Bool
  late : Bool
  broken : Bool
  quar : Bool
deriving DecidableEq, Repr

/-- What the Sluice has committed to an item (R45-R46): its packet, class and weight, its first step, the steps left to place, and
whether it has started. -/
structure Commitment where
  id : Nat
  cls : Nat
  weight : Nat
  k0 : Nat
  left : Nat
  started : Bool
deriving DecidableEq, Repr

/-- The counts that the audits hold against the rest of the state (R407), by partition `n`: berths held, at 4n + class; items
admitted whose final completion is not written; completion entries in use; what the section nodes of the Towpath have counted, at
1024n + 8 times the barrier + section; the commitments; and by seam queue its free credits, at 4 times the row + direction. -/
structure Tally where
  held : AMap Nat
  out : AMap Nat
  pend : AMap Nat
  nodes : AMap Nat
  weights : AMap (List Commitment)
  credits : AMap Nat
deriving DecidableEq, Repr

/-- Nothing is counted yet. -/
def Tally.reset : Tally := ⟨[], [], [], [], [], []⟩

/-- The link units in the step in progress: lines that a core has passed in a direction, of those that stay in its half and of
those that cross the seam; the first cycle in which its link is free; for each seam queue the cycles in which its latest lines
are written, oldest first (R242, R251). -/
structure LinkRun where
  pos : AMap Nat
  free : AMap Nat
  dues : AMap (List Nat)
deriving DecidableEq, Repr

/-- Before the first line of a step. -/
def LinkRun.reset : LinkRun := ⟨[], [], []⟩

/-- A neighbour-link line on its way (R242): its sender, its direction, destination core and line, the bytes read, whether
they were uncorrectable, the cycle of the destination core in which it is written, and whether it holds a credit of its seam
queue (R251). -/
structure LinkLine where
  src : Nat
  dir : Nat
  dst : Nat
  line : Nat
  bytes : List Byte
  bad : Bool
  due : Nat
  credit : Bool
deriving DecidableEq, Repr

/-- What a partition holds beside its registers and cores. -/
structure Part where
  /-- One more than the occurrences so far of each cause of R51, by its code. -/
  cause : Vector Nat 8
  /-- `TRACE_MAX` of the program (R399). -/
  traceMax : Nat
  /-- Trace records formed and not yet written, oldest first (R398), and losses since the last `TRACE_LOST`. -/
  trcPend : List (BitVec 256)
  trcLost : Nat
  hsigs : List HSig
  /-- Dead-letter records that wait for their ring, oldest first (R196). -/
  dead : List (BitVec 512)
  bars : List BarArr
  /-- Time of the first arrival of a barrier's current generation (R210). -/
  barFirst : AMap W64
  /-- Devices whose share of a fabric barrier's current generation is complete, by barrier 64-79 (R375). -/
  barKids : AMap (List Nat)
  /-- The child devices that have reported to a barrier (R375): barrier, group tag, device. -/
  barKnown : List (Nat × Nat × Nat)
  /-- The final barrier of the step in progress has been released, and the cores that reached it (R30, R425). -/
  finalDone : Bool
  finalSeen : List Nat
  prog : Option Program
  commits : List Commit
  /-- A program committed with `START` = 1 outside `RUN` waits for the device to enter it (R446). -/
  startWait : Bool
  /-- The boundary of R29 that is next to be reached. -/
  nextK : Nat
  step : Option StepRun
  /-- Admitted items, hard ones and `BULK` ones, oldest first (R47, R53). -/
  items : List Item
  berths : AMap Berth
  signals : List HostSignal
  /-- Arrivals of the packets that the Sluice decides, those whose microsecond a packet still to come may share (R44). -/
  arrivals : List W64
  /-- The hold in force followed an overrun (R51). -/
  lateHold : Bool
  /-- `MOOR`s whose record is being written (R285): the packet's job, whether its boundary has come. -/
  moors : List (Job × Bool)
  /-- A snapshot in progress: its step and its bytes (R402-R404). -/
  snap : Option (Nat × List Byte)
  /-- How far the link units are, and lines on their way (R239-R245). -/
  link : LinkRun
  lines : List LinkLine
  /-- The packet of the latest `RESET_PARTITION` (R343), 0 for none. -/
  resetPkt : Nat
  /-- Cores of a PARKED half that an outcome of a barrier with a pending `ARRIVE` has reached: pennant 28 is due (R26, R208). -/
  barDue : List Nat
  /-- The watchdog has held the partition, until `RESET_PARTITION`, whatever a write does to `WDOG_FIRED` (R52, R339). -/
  wdogHold : Bool
deriving DecidableEq, Repr

/-- A partition after device reset. -/
def Part.reset : Part where
  cause := Vector.replicate 8 1
  traceMax := 0
  trcPend := []
  trcLost := 0
  hsigs := []
  dead := []
  bars := []
  barFirst := []
  barKids := []
  barKnown := []
  finalDone := false
  finalSeen := []
  prog := none
  commits := []
  startWait := false
  nextK := 0
  step := none
  items := []
  berths := []
  signals := []
  arrivals := []
  lateHold := false
  moors := []
  snap := none
  link := LinkRun.reset
  lines := []
  resetPkt := 0
  barDue := []
  wdogHold := false

/-! ### Ports (R344-R379) -/

/-- An item that a port holds: this device's, or one in transit (R364). -/
inductive PortItem where
  | own (item : FabItem)
  | transit (item : Transit)
deriving DecidableEq, Repr

/-- An item in a port's hands (R351, R353): its credit class and its bytes; for one that has started into a flit, its bytes
not yet in one with those of the items before it, and the number of its last flit once that has been sent. -/
structure Queued where
  item : PortItem
  cls : Nat
  bytes : List Byte
  todo : Nat
  last : Option Nat
deriving DecidableEq, Repr

/-- A flit of the replay buffer (R351): its number, its credit return (class and credits), its items field. -/
structure Kept where
  seq : Nat
  cls : Nat
  cret : Nat
  items : List Byte
deriving DecidableEq, Repr

/-- An item in a receive buffer (R353): its credit class and the item. -/
structure RxItem where
  cls : Nat
  item : Transit
deriving DecidableEq, Repr

/-- What a fabric port holds beside its registers (R351, R353, R356): items that have not started into a flit, and those
that have and whose last flit is not acknowledged, each oldest first; bytes of started items that are in no flit yet;
whether the last item of priority 4 was a `REQ` one; the replay buffer; the next number to send, the first not yet
acknowledged, the next number expected; the bytes of an item that has arrived in part, the receive buffers, credits to
return by class; whether a `NAK` for the present gap is out, and since when it is unanswered; times of `NAK` flits
received; the start of a retrain, whether it may widen, and failed retrains in a row; lanes in use; whether the port has
trained; retrains in each partition's step; elapsed time of the last flit sent; `DEVTIME` at which the last `TIME` flit was sent
(R377). -/
structure Port where
  queue : List Queued
  begun : List Queued
  out : List Byte
  lastReq : Bool
  kept : List Kept
  txSeq : Nat
  txAck : Nat
  rxSeq : Nat
  rxPart : List Byte
  rx : List RxItem
  owed : AMap Nat
  nakSent : Bool
  nakAt : Option W64
  naks : List W64
  retrainAt : Option W64
  retrainWide : Bool
  fails : Nat
  lanes : BitVec 4
  trained : Bool
  stepRetrains : AMap Nat
  lastTx : W64
  timeTx : Option W64
deriving DecidableEq, Repr

/-- A port after reset. -/
def Port.reset : Port where
  queue := []
  begun := []
  out := []
  lastReq := false
  kept := []
  txSeq := 0
  txAck := 0
  rxSeq := 0
  rxPart := []
  rx := []
  owed := []
  nakSent := false
  nakAt := none
  naks := []
  retrainAt := none
  retrainWide := false
  fails := 0
  lanes := 0
  trained := false
  stepRetrains := []
  lastTx := 0
  timeTx := none

/-- A post of a channel of this device that was refused and is sent again (R373): when the refusal arrived. -/
structure PostWait where
  core : Nat
  ch : BitVec 3
  refused : W64
  time : W64
deriving DecidableEq, Repr

/-! ### Power, bring-up, management -/

/-- What a half holds beside `PWR_HALFOP` (R257, R457, R462-R463): the voltage that its `VSEL` requests (true: 0.80 V),
elapsed time of its last change, when a lower voltage is due, its `PG` input, when its window is to be judged; the
throttle's last write and how long the half has been cool, capping and throttling in force. -/
structure Half where
  vsel : Bool
  vselAt : W64
  lowDue : Option W64
  pg : Bool
  window : Bool
  thrAt : Option W64
  coolSince : Option W64
  thr : Bool
  cap : Bool
  /-- The latest boundary instant that `DEFER` has counted (R256). -/
  deferAt : Option W64
deriving DecidableEq, Repr

/-- A half after reset: 0.65 V requested (R456); the board has the rail within tolerance, so `PG` is high (R454, R456). -/
def Half.reset : Half := ⟨false, 0, none, true, false, none, none, false, false, none⟩

/-- The JTAG instructions (R467). -/
inductive Jtag where
  | bypass
  | idcode
  | sample
  | extest
  | clamp
  | highz
deriving DecidableEq, Repr

/-- A device image in the machine's terms (R438). -/
structure DevImage where
  serial : Nat
  devid : Nat
  torus : Nat
  dir : List Nat
  gmid : Nat
  slots : Nat
  auto : Bool
  subsys : Nat
  stageBase : Nat
  stageMib : Nat
  partmap : Nat
deriving DecidableEq, Repr

/-- What bring-up holds (R428-R433): the work of `POR` is done; the flash image in hand; the identity that the first
`TRAIN` pass used; a firmware slot is valid; `HOLD` has been entered; elapsed time at which both resets were high; the
fuse requests in retention logic: half-row positions and physical cores (R431); the fuses burned. -/
structure Boot where
  porDone : Bool
  image : Option DevImage
  trained : Option DevImage
  held : Bool
  highAt : W64
  posReq : AMap Nat
  coreReq : List Nat
  fusedPos : AMap Nat
  fusedCore : List Nat
  /-- Physical cores that `SELFTEST` found failed. -/
  failed : List Nat
  /-- The valid firmware slot with the larger `SERIAL`: 0 A, 1 B (R432). -/
  fw : Option Nat
  /-- A rail has left its window, or a `PG` has been low outside its change window, in `POR` (R453, R457). -/
  railBad : Bool
deriving DecidableEq, Repr

/-- The signals that are not read from other state (R452): resets high, `PE_PERST_N` high, `THERMTRIP_N` low,
elapsed time at which `WARMRST_N` fell, whether the device waits in reset for its rise (R428), end of the high time of
`PPS_OUT`. -/
structure Pins where
  porst : Bool
  warm : Bool
  perst : Bool
  therm : Bool
  warmAt : W64
  inReset : Bool
  ppsUntil : Option W64
  /-- The management address straps sampled, and the endpoint ID assigned (R465). -/
  straps : BitVec 3
  eid : BitVec 8
  /-- The level of `TRST_N`, and the bits that the latest scan has shifted out at `TDO`, which floats outside a shift (R452). -/
  trst : Bool
  tdo : List Bool
deriving DecidableEq, Repr

/-- What time keeping holds beside its registers (R377-R389): elapsed time of the last exchange with the parent; the
last `PPS_IN` edge latched and the last accepted; accepted edges in a row within 20 ns; elapsed time of the
last set of `DEVTIME`, and its value before (R388). -/
structure Sync where
  last : W64
  ppsEdge : Option W64
  ppsGood : Option W64
  ppsGoodAt : W64
  ppsRun : Nat
  set : Option (W64 × W64)
deriving DecidableEq, Repr

/-- How the latest read through BAR4 completed (R296): with data, with Unsupported Request, with a poisoned TLP. -/
inductive WinReply where
  | data (bytes : List Byte)
  | unsupported
  | poisoned
deriving DecidableEq, Repr

/-- What the host link holds beside its registers (R292-R313), for each function: Bus Master Enable, D3hot, Enable and Function
Mask of MSI-X; the AER uncorrectable error status of the PF; log of the BAR4
size, the FLRs in progress with the elapsed time of their start, for each ring completions counted since its last
message and the elapsed time of the first, and for each ring the doorbells whose slots are not all read: the count
that each published and its arrival (R303); the rings whose header at `HEAD` has a framing error already answered, with
slots to the ring's end still to be published (R307); the ring pair read last (R305); the latest reply through BAR4. -/
structure HostLink where
  bme : BitVec 9
  d3hot : BitVec 9
  msixOn : BitVec 9
  msixMask : BitVec 9
  aer : BitVec 32
  barLog : Nat
  flrs : AMap W64
  coal : AMap (Nat × W64)
  bells : AMap (List (Nat × W64))
  framed : List Nat
  lastSq : Nat
  win : WinReply
deriving DecidableEq, Repr

/-- The host link after reset: Bus Master Enable 0, D0, MSI-X not enabled, BAR4 of 256 MiB (log 14, 35, 118); ring pair 0 has the
first turn. -/
def HostLink.reset : HostLink := ⟨0, 0, 0, 0, 0, 28, [], [], [], [], 511, .data []⟩

end Sys2Proof.Machine
end

