-- ==== Sys2Proof/Machine/State.lean ====
section
/-!
DEFINITION. The state of the block, its faults and refusals, and the state after reset.
-/
namespace Sys2Proof.Machine

/-- The whole machine. -/
structure State where
  /-- Commands waiting, first in first out. -/
  pending : List Instr
  /-- The model's own counter for free values. -/
  free : Nat
  /-- The BAR0 registers that hold a value of their own, by the offset of their 8-byte word (R7, R469). -/
  regs : AMap W64
  /-- Staged bits of ST fields and which bits are staged (R6). -/
  stgV : AMap W64
  stgM : AMap W64
  /-- Local memories and tiers by device physical address (R265), in canonical form. -/
  mem : List Host.Cell
  /-- Base addresses of poisoned words and lines (R278, R413). -/
  poison : List Nat
  cores : AMap Core
  parts : AMap Part
  /-- Messages on the Towpath of this device, and the next number. -/
  msgs : List Flight
  nextMsg : Nat
  /-- Requests to other devices that await an answer, and the next number. -/
  remReqs : List RemReq
  nextReq : Nat
  /-- Requests that `FAB_RTO` has ended, whose answers would be late (R370). -/
  lateReqs : List Nat
  /-- Items sent into the fabric, oldest first. -/
  fabOut : List FabItem
  /-- Own requests that this device answers itself, and the code: those that found no route (R361), and those of cores of a
  PARKED half that were lost in a port (R26, R379). -/
  unrouted : List (Nat × BitVec 4)
  /-- Flits sent by the ports, oldest first: the port and the flit's bytes (R347). -/
  kflOut : List (Nat × List Byte)
  /-- What has been sent to the host, oldest first. -/
  hostOut : List HostOut
  /-- Unit sequence numbers (R393), by unit number. -/
  unitSeq : AMap W32
  /-- `DEVTIME` and its fraction of a nanosecond (R383). -/
  devtime : W64
  frac : W32
  /-- Nanoseconds of `CLK_TB` time elapsed since `PORST_N`, which no set moves (R384). -/
  elapsed : W64
  /-- The time of the Sluice's last decision (R43). -/
  decided : Option W64
  /-- Packets: the next number, those whose completions are owed, completions formed and not written, the counts
  that are audited (R407), the Sluice's queue, packets of the other fast opcodes, the firmware queue, firmware packets that have started. -/
  nextPkt : Nat
  owed : List Owed
  compl : List Compl
  tally : Tally
  sluice : List Packet
  fast : List Packet
  fwq : List Packet
  jobs : List Job
  /-- The image staged for each target 0-8, and the buffer that holds it (R442); the live device image. -/
  staged : AMap (List Byte)
  stageBuf : AMap Nat
  devImg : Option DevImage
  /-- `UNITS` of each mooring index's record (R289). -/
  moorUnits : AMap Nat
  ports : AMap Port
  postWaits : List PostWait
  west : Half
  east : Half
  /-- Elapsed time since which the power average has been below 95 % of the limit (R463), and the halves capped, the
  last one first. -/
  calmSince : Option W64
  capped : List Nat
  link : HostLink
  pins : Pins
  boot : Boot
  sync : Sync
  /-- The current JTAG instruction and the boundary register (R467). -/
  jtag : Jtag
  bound : List Bool
  /-- The value that the last register read returned, and the bytes of the last memory or management reply. -/
  lastRead : W64
  reply : List Byte
  /-- `PARTMAP` of the device image in force: byte n is the section mask of partition n (R447). -/
  partmap : W64
deriving DecidableEq, Repr

/-- The machine right after reset: `PORST_N` has just risen (R428), nothing has been tested, trained or loaded, and no
register differs from its reset value (`regReset`); the reset values that the spec does not give are those of log 1,
and `Part.reset`, `Core.reset` hold for every partition and core that is not listed. -/
def State.reset : State where
  pending := []
  free := 0
  regs := []
  stgV := []
  stgM := []
  mem := []
  poison := []
  cores := []
  parts := []
  msgs := []
  nextMsg := 0
  remReqs := []
  nextReq := 0
  lateReqs := []
  fabOut := []
  unrouted := []
  kflOut := []
  hostOut := []
  unitSeq := []
  devtime := 0
  frac := 0
  elapsed := 0
  decided := none
  nextPkt := 1
  owed := []
  compl := []
  tally := Tally.reset
  sluice := []
  fast := []
  fwq := []
  jobs := []
  staged := []
  stageBuf := []
  devImg := none
  moorUnits := []
  ports := []
  postWaits := []
  west := Half.reset
  east := Half.reset
  calmSince := none
  capped := []
  link := HostLink.reset
  pins := ⟨true, true, false, false, 0, false, none, 0, 0, true, []⟩
  boot := ⟨false, none, none, false, 0, [], [], [], [], [], none, false⟩
  sync := ⟨0, none, none, 0, 0, none⟩
  jtag := .idcode
  bound := []
  lastRead := 0
  reply := []
  partmap := 0

/-- Why the machine stops with a fault. -/
inductive Fault where
  /-- Never raised: the block has no behaviour that the spec leaves without an effect (safe). -/
  | none
deriving DecidableEq, Repr

/-- Why a command is refused. -/
inductive Refusal where
  /-- `exec` has no meaning for the command yet (safe). -/
  | notModelled (mnemonic : String)
deriving DecidableEq, Repr

end Sys2Proof.Machine
end

