-- ==== Sys2Proof/Machine/RegTable.lean ====
section
/-!
DEFINITION. The BAR0 register map (R7): for the 8-byte word at each offset, its reset value and the bits of each
access code (R4), as the register tables of the chapters give them. Every other bit is read-only or unassigned. The
vector control word of an MSI-X entry is masked at reset, as the PCI Express specification gives (PRESUMED, log 14).
-/
namespace Sys2Proof.Machine

/-- A register word: its reset value, and its RW, W1C, RC and ST bits (R4). -/
structure RegInfo where
  reset : W64
  rw : W64
  w1c : W64
  rc : W64
  st : W64
deriving DecidableEq, Repr

/-- The offset is entry 0 to `count` - 1 of an array. -/
def inArr (off base stride count : Nat) : Bool :=
  base ≤ off && off < base + stride * count && (off - base) % stride == 0

/-- The register word at a BAR0 offset; a VF's MSI-X table lies at its function's number times 2^32. -/
def regInfo (o : Nat) : RegInfo :=
  let off := o % 0x100000000
  if off = 0x10 then ⟨1, 0, 0, 0, 0⟩  -- GLB_STATE
  else if off = 0x28 then ⟨0xFFFFFFFFFFFFFFFF, 0, 0, 0, 0⟩  -- GLB_IMGERR
  else if inArr off 0x200 0x8 32 then ⟨0x00000F9F00000F9F, 0x00000F8000000F80, 0, 0, 0⟩  -- GLB_HROW
  else if off = 0x10000 then ⟨0, 0, 0x10000, 0, 0⟩  -- HST_LINK
  else if off = 0x10010 then ⟨0, 0x7FFFFFFFFFF, 0, 0, 0⟩  -- HST_WINBASE
  else if off = 0x10018 then ⟨0, 0, 0, 0xFFFFFFFF, 0⟩  -- HST_FLRLOST
  else if off = 0x10028 then ⟨0, 0x3FF, 0, 0, 0⟩  -- HST_PRIVRING
  else if inArr off 0x18000 0x40 512 then ⟨0, 0xFFFFFFFFFFFFF000, 0, 0, 0⟩  -- HST_SQBASE
  else if inArr off 0x18008 0x40 512 then ⟨6, 0x5F, 0, 0, 0⟩  -- HST_SQCFG
  else if inArr off 0x18018 0x40 512 then ⟨0, 0xFFFFFFFFFFFFF000, 0, 0, 0⟩  -- HST_CQBASE
  else if inArr off 0x18020 0x40 512 then ⟨0x100006, 0xFFFFF7FFDF, 0, 0, 0⟩  -- HST_CQCFG
  else if inArr off 0x18038 0x40 512 then ⟨0, 0, 0x1F, 0, 0⟩  -- HST_RERR
  else if off = 0x20000 then ⟨10000, 0xFFFF, 0, 0, 0⟩  -- SLC_LEAD
  else if off = 0x20008 then ⟨0, 0, 0, 0xFFFF0000, 0⟩  -- SLC_STAT
  else if inArr off 0x20100 0x8 64 then ⟨0, 0, 0, 0xFFFFFFFFFFFFFFFF, 0⟩  -- SLC_CNT
  else if inArr off 0x30030 0x1000 8 then ⟨0, 0, 0x80000000, 0, 0x1FFF0FFF⟩  -- PRT_BERTH
  else if inArr off 0x30040 0x1000 8 then ⟨0, 0x8000000080000000, 0, 0, 0x1FFF1FFF1FFF1FFF⟩  -- PRT_CLSB0, 1
  else if inArr off 0x30048 0x1000 8 then ⟨0, 0x8000000080000000, 0, 0, 0x1FFF00001FFF1FFF⟩  -- PRT_CLSB2, 3
  else if inArr off 0x30050 0x1000 8 then ⟨0, 0, 0, 0, 0xFFFFF000FFFFF⟩  -- PRT_CLSU
  else if inArr off 0x30058 0x1000 8 then ⟨0, 0, 0, 0, 0xFFFFF000FFFFF⟩  -- PRT_CLSU
  else if inArr off 0x30060 0x1000 8 then ⟨0, 0, 0, 0, 0xFFFFF000FFFFF⟩  -- PRT_CLSU
  else if inArr off 0x30068 0x1000 8 then ⟨0, 0, 0, 0, 0xFFFFF00000000⟩  -- PRT_CLSU3
  else if inArr off 0x30070 0x1000 8 then ⟨0, 0, 0x300000000000000, 0xFFFF0000000000, 0⟩  -- PRT_WDOG
  else if inArr off 0x30080 0x1000 8 then ⟨0, 0, 0, 0, 0x7FFFFFFFFFF⟩  -- PRT_TTBASE
  else if inArr off 0x30088 0x1000 8 then ⟨0, 0, 0, 0, 0x3⟩  -- PRT_TTCFG
  else if inArr off 0x300a0 0x1000 8 then ⟨0, 0, 0, 0, 0xFFFFFFFFFFFF⟩  -- PRT_BAREA
  else if inArr off 0x300a8 0x1000 8 then ⟨0, 0, 0, 0, 0x3FFFFFFFFFFFFFF⟩  -- PRT_BFRAME
  else if inArr off 0x300b0 0x1000 8 then ⟨0, 0, 0x8000000000000000, 0, 0xFFFFFFFFFF⟩  -- PRT_MOOR
  else if inArr off 0x300b8 0x1000 8 then ⟨0, 0, 0, 0, 0x7FFFFFFFFFF⟩  -- PRT_MOORBASE
  else if inArr off 0x300e0 0x1000 8 then ⟨0, 0, 0, 0, 0xFFFFFFFFFFFF⟩  -- PRT_ITEMBASE
  else if inArr off 0x30100 0x1000 8 then ⟨0, 0, 0, 0, 0x7FFFFFFFFFF⟩  -- PRT_DLBASE
  else if inArr off 0x30108 0x1000 8 then ⟨6, 0, 0, 0, 0x3F⟩  -- PRT_DLCFG
  else if inArr off 0x30118 0x1000 8 then ⟨0, 0xFFFFFFFF, 0, 0, 0⟩  -- PRT_DLCONS
  else if inArr off 0x30130 0x1000 8 then ⟨0, 0, 0, 0, 0x7F⟩  -- PRT_HSIG
  else if off = 0x40000 then ⟨0x00FFFFFF00000010, 0, 0, 0, 0⟩  -- MEM_T2RSV
  else if off = 0x40010 then ⟨0x1818, 0xFFFF, 0, 0, 0⟩  -- MEM_SCRUB
  else if off = 0x50008 then ⟨0, 0x1FFFF, 0, 0, 0⟩  -- FAB_TORUS
  else if off = 0x50010 then ⟨0, 0xFFFF, 0, 0, 0⟩  -- FAB_ENTRY
  else if off = 0x50018 then ⟨1000, 0xFFFFFFFF, 0, 0xFFFF00000000, 0⟩  -- FAB_RTO
  else if off = 0x50020 then ⟨0xF, 0, 0, 0, 0⟩  -- FAB_TSYNC
  else if off = 0x50028 then ⟨0, 0x1FFFF, 0, 0, 0⟩  -- FAB_TSGM
  else if off = 0x50040 then ⟨0x3, 0xFFFF, 0, 0, 0⟩  -- FAB_DIR0
  else if off = 0x50048 then ⟨0x300, 0xFFFF, 0, 0, 0⟩  -- FAB_DIR1
  else if off = 0x50050 then ⟨0xC, 0xFFFF, 0, 0, 0⟩  -- FAB_DIR2
  else if off = 0x50058 then ⟨0xC00, 0xFFFF, 0, 0, 0⟩  -- FAB_DIR3
  else if off = 0x50060 then ⟨0x30, 0xFFFF, 0, 0, 0⟩  -- FAB_DIR4
  else if off = 0x50068 then ⟨0x3000, 0xFFFF, 0, 0, 0⟩  -- FAB_DIR5
  else if off = 0x50070 then ⟨0xC0, 0xFFFF, 0, 0, 0⟩  -- FAB_DIR6
  else if off = 0x50078 then ⟨0xC000, 0xFFFF, 0, 0, 0⟩  -- FAB_DIR7
  else if inArr off 0x51000 0x100 16 then ⟨0, 0, 0, 0xFFFF00000000, 0⟩  -- FAB_PSTAT
  else if inArr off 0x51008 0x100 16 then ⟨7, 0x7, 0, 0, 0⟩  -- FAB_PCTL
  else if inArr off 0x51010 0x100 16 then ⟨0, 0, 0, 0xFFFFFFFFFFFFFFFF, 0⟩  -- FAB_PFEC
  else if inArr off 0x51018 0x100 16 then ⟨0, 0, 0, 0xFFFFFFFFFFFFFFFF, 0⟩  -- FAB_PRETRY
  else if inArr off 0x51040 0x100 16 then ⟨0x800000000, 0, 0, 0, 0⟩  -- FAB_PCRED0
  else if inArr off 0x51048 0x100 16 then ⟨0x2000000000, 0, 0, 0, 0⟩  -- FAB_PCRED1
  else if inArr off 0x51050 0x100 16 then ⟨0x2000000000, 0, 0, 0, 0⟩  -- FAB_PCRED2
  else if inArr off 0x51058 0x100 16 then ⟨0x8000000000, 0, 0, 0, 0⟩  -- FAB_PCRED3
  else if inArr off 0x51060 0x100 16 then ⟨0x8000000000, 0, 0, 0, 0⟩  -- FAB_PCRED4
  else if inArr off 0x51068 0x100 16 then ⟨0x8000000000, 0, 0, 0, 0⟩  -- FAB_PCRED5
  else if inArr off 0x51070 0x100 16 then ⟨0x8000000000, 0, 0, 0, 0⟩  -- FAB_PCRED6
  else if inArr off 0x51078 0x100 16 then ⟨0x10000000000, 0, 0, 0, 0⟩  -- FAB_PCRED7
  else if inArr off 0x51080 0x100 16 then ⟨0x10000000000, 0, 0, 0, 0⟩  -- FAB_PCRED8
  else if inArr off 0x54000 0x10 128 then ⟨0, 0, 0, 0, 0x7FFFFFFF00F⟩  -- export entries
  else if inArr off 0x54008 0x10 128 then ⟨0, 0, 0, 0, 0x7FFFFFFF000⟩
  else if inArr off 0x56000 0x10 128 then ⟨0, 0, 0, 0, 0x3FFFFF⟩  -- fabric barriers
  else if inArr off 0x56008 0x10 128 then ⟨0, 0, 0, 0, 0x1FFFF⟩
  else if inArr off 0x58000 0x20 64 then ⟨0x7000000000000, 0x1FF07FFFFFFFFFF, 0, 0, 0⟩  -- post rings
  else if inArr off 0x58008 0x20 64 then ⟨0, 0x7FFFFFFFFFF, 0, 0, 0⟩
  else if off = 0x60008 then ⟨0, 0x7, 0, 0, 0⟩  -- TIM_CTL
  else if off = 0x60020 then ⟨0, 0, 0, 0xFFFF00000000, 0⟩  -- TIM_PPSERR
  else if off = 0x60028 then ⟨0x6400000000, 0xFFFF3FFFFFFF, 0, 0, 0⟩  -- TIM_PPSCFG
  else if inArr off 0x70000 0x100 8 then ⟨0, 0x7FFFFFFFFFF, 0, 0, 0⟩  -- TRC_BASE
  else if inArr off 0x70008 0x100 8 then ⟨10, 0xFFFFFFFF0000003F, 0, 0, 0⟩  -- TRC_CFG
  else if inArr off 0x70018 0x100 8 then ⟨0, 0xFFFFFFFFFFFFFFFF, 0, 0, 0⟩  -- TRC_CONS
  else if inArr off 0x70028 0x100 8 then ⟨0, 0, 0, 0, 0x800007FFFFFFFFFF⟩  -- TRC_SNAPBASE
  else if inArr off 0x70030 0x100 8 then ⟨0, 0, 0, 0xFFFF0000, 0⟩  -- TRC_SNAPSTAT
  else if off = 0x80010 then ⟨0x1000, 0x1FFF, 0, 0, 0⟩  -- ERR_CTL
  else if off = 0x80020 then ⟨0, 0xFFFFFFFFFFFFFFFF, 0, 0, 0⟩  -- ERR_LOGCONS
  else if off = 0x80028 then ⟨0, 0, 0, 0xFFFFFFFF, 0⟩  -- ERR_LOGLOST
  else if off = 0x80030 then ⟨0x3e81003, 0xFFFFFF03, 0, 0, 0⟩  -- ERR_QPOL
  else if inArr off 0x80100 0x8 23 then ⟨0, 0, 0, 0xFFFFFFFFFFFFFFFF, 0⟩  -- ERR_CNT
  else if inArr off 0x80800 0x8 16 then ⟨0, 0, 0xFFFFFFFFFFFFFFFF, 0, 0⟩  -- ERR_SUSP
  else if inArr off 0x90000 0x8 2 then ⟨0xE9, 0x30, 0, 0xFFFF0000, 0xC⟩  -- PWR_HALFOP
  else if off = 0x90010 then ⟨0x640000, 0xFF0000, 0, 0, 0⟩  -- PWR_THERM
  else if off = 0x90018 then ⟨0, 0xFFFF, 0, 0, 0⟩  -- PWR_PCAP
  else if off = 0x90020 then ⟨0, 0, 0, 0xFFFF0000, 0⟩  -- PWR_POWER
  else if inArr off 0xa0008 0x10 9 then ⟨0xFFFFFFFF00000000, 0, 0, 0, 0⟩  -- CFG_STAGE, second word
  else if inArr off 0x100000 0x10 2048 then ⟨0, 0xFFFFFFFFFFFFFFFF, 0, 0, 0⟩  -- MSI-X message address
  else if inArr off 0x100008 0x10 2048 then ⟨0x100000000, 0x1FFFFFFFF, 0, 0, 0⟩  -- MSI-X message data and vector control
  else ⟨0, 0, 0, 0, 0⟩

/-- The reset value of the register word at a BAR0 offset. -/
def regReset (off : Nat) : W64 := (regInfo off).reset

end Sys2Proof.Machine
end

