-- ==== Sys2Proof/Machine/Ops.lean ====
section
/-!
DEFINITION. The named operations over the state: bit fields, memory, registers, cores and threads.
-/
namespace Sys2Proof.Machine

/-! ### Bit fields and byte order (R2) -/

/-- Field of width `w` from bit `lo`, as a number. -/
def fld {n : Nat} (v : BitVec n) (lo w : Nat) : Nat := v.toNat >>> lo % 2 ^ w

/-- `v` with the field of width `w` from bit `lo` set to `x`. -/
def setFld {n : Nat} (v : BitVec n) (lo w x : Nat) : BitVec n :=
  (v &&& ~~~(BitVec.ofNat n ((2 ^ w - 1) <<< lo))) ||| BitVec.ofNat n ((x % 2 ^ w) <<< lo)

/-- `v` with bit `i` set or cleared. -/
def setBit {n : Nat} (v : BitVec n) (i : Nat) (b : Bool) : BitVec n := setFld v i 1 b.toNat

/-- The number that bytes spell, least significant first. -/
def ofLE : List Byte → Nat
  | [] => 0
  | b :: bs => b.toNat + 256 * ofLE bs

/-- The `n` low bytes of a number, least significant first. -/
def toLE : Nat → Nat → List Byte
  | 0, _ => []
  | n + 1, v => BitVec.ofNat 8 v :: toLE n (v / 256)

/-- A count of a map, higher or lower by a number. -/
def addAt (m : AMap Nat) (k x : Nat) : AMap Nat := AMap.put m k (AMap.get 0 m k + x)
def subAt (m : AMap Nat) (k x : Nat) : AMap Nat := AMap.put m k (AMap.get 0 m k - x)

/-- Sign extension of the low `w` bits of a number to 64 bits. -/
def sext (w v : Nat) : W64 := (BitVec.ofNat w v).signExtend 64

/-! ### Memory: a canonical list of bytes (R265); an unlisted address reads as `Memory.unlisted` -/

/-- What a byte of LM, tier 1 or tier 2 that nothing has written reads as. DESIGN CHOICE (log 2): the spec gives
no contents after power-on. -/
def Memory.unlisted : Byte := 0

/-- The byte at an address. -/
def Memory.read (m : List Host.Cell) (a : Nat) : Byte := AMap.get Memory.unlisted m a

/-- Memory with one byte set; the value an unlisted address reads as is not listed. -/
def Memory.write (m : List Host.Cell) (a : Nat) (b : Byte) : List Host.Cell :=
  let m' := m.filter (fun c => c.1 != a)
  if b = Memory.unlisted then m' else AMap.put m' a b

/-- The canonical form: addresses strictly rising, no entry equal to what an unlisted address reads as. -/
abbrev Memory.wf (m : List Host.Cell) : Prop :=
  m.Pairwise (fun c d => c.1 < d.1) ∧ ∀ c ∈ m, c.2 ≠ Memory.unlisted

/-- The `n` bytes from an address upward. -/
def Memory.readBytes (m : List Host.Cell) (a : Nat) : Nat → List Byte
  | 0 => []
  | n + 1 => Memory.read m a :: Memory.readBytes m (a + 1) n

/-- Memory with bytes written from an address upward. -/
def Memory.writeBytes (m : List Host.Cell) (a : Nat) : List Byte → List Host.Cell
  | [] => m
  | b :: bs => Memory.writeBytes (Memory.write m a b) (a + 1) bs

/-! ### The device physical address map (R265-R267) -/

/-- First address of tier 2 and of the LM windows. -/
def tier2Base : Nat := 0x10000000000
def lmBase : Nat := 0x40000000000

/-- The LM byte of a core at an offset. -/
def lmAddr (core off : Nat) : Nat := lmBase + core * 0x100000 + off

/-- The address lies in tier 1; in tier 2; in an LM window. -/
def inTier1 (pa : Nat) : Bool := pa < 0x6000000000
def inTier2 (pa : Nat) : Bool := tier2Base ≤ pa && pa < tier2Base + 0x12000000000
def inLm (pa : Nat) : Bool := lmBase ≤ pa && pa < lmBase + 0x40000000

/-- `len` bytes from `pa` lie wholly in tier 1, or wholly in tier 2. -/
def inTiers (pa len : Nat) : Bool :=
  (pa + len ≤ 0x6000000000) || (inTier2 pa && pa + len ≤ tier2Base + 0x12000000000)

/-- The core of an LM window address. -/
def lmCore (pa : Nat) : Nat := (pa - lmBase) / 0x100000

/-- Bytes that one error-correcting code covers, by the address's memory (R413 LM, R276 tier 1, R277 tier 2). -/
def eccUnit (pa : Nat) : Nat := if inTier1 pa then 32 else if inTier2 pa then 64 else 8

/-- The first byte of the unit of an address. -/
def unitBase (pa : Nat) : Nat := pa / eccUnit pa * eccUnit pa

/-- The tier 2 port of an address (R267). -/
def tier2Port (pa : Nat) : Nat := (pa - tier2Base) / 4096 % 24

/-! ### BAR0 registers -/

/-- The register word at an 8-byte aligned offset. -/
def State.reg (s : State) (off : Nat) : W64 := AMap.get (regReset off) s.regs off

/-- The state with a register word set. -/
def State.setReg (s : State) (off : Nat) (v : W64) : State := { s with regs := AMap.put s.regs off v }

/-- A field of a register word. -/
def State.rfld (s : State) (off lo w : Nat) : Nat := fld (s.reg off) lo w

/-- The state with a field of a register word set. -/
def State.setRfld (s : State) (off lo w x : Nat) : State := s.setReg off (setFld (s.reg off) lo w x)

/-- A field of a register word, one higher, no further than its largest value. -/
def State.satInc (s : State) (off lo w : Nat) : State :=
  if s.rfld off lo w + 1 < 2 ^ w then s.setRfld off lo w (s.rfld off lo w + 1) else s

/-- Offset of partition `n`'s register at a partition offset (R7). -/
def prt (n o : Nat) : Nat := 0x30000 + n * 0x1000 + o

/-! ### Cores -/

/-- Logical core `c`. -/
def State.core (s : State) (c : Nat) : Core := AMap.get Core.reset s.cores c

/-- The state with core `c` replaced. -/
def State.setCore (s : State) (c : Nat) (k : Core) : State := { s with cores := AMap.put s.cores c k }

/-- The state with core `c` changed. -/
def State.modCore (s : State) (c : Nat) (f : Core → Core) : State := s.setCore c (f (s.core c))

/-- Row, column, half (0 West, 1 East) and section (W0-W3 are 0-3, E0-E3 are 4-7) of a logical core (R8, R11). -/
def coreRow (c : Nat) : Nat := c / 32
def coreCol (c : Nat) : Nat := c % 32
def coreHalf (c : Nat) : Nat := coreCol c / 16
def coreSect (c : Nat) : Nat := coreRow c / 8 + 4 * coreHalf c

/-- The core is present: its `ABSENT_MASK` bit is 0 (R15). -/
def State.present (s : State) (c : Nat) : Bool :=
  !(s.reg (0x200 + 8 * coreRow c)).getLsbD (32 * coreHalf c + 16 + coreCol c % 16)

/-- The section mask of partition `n` (R447). -/
def State.sects (s : State) (n : Nat) : Nat := fld s.partmap (8 * n) 8

/-- The partition that holds a section, if any. -/
def State.partOfSect (s : State) (x : Nat) : Option Nat :=
  (List.range 8).find? (fun n => (s.sects n).testBit x)

/-- The partition of a core, if any. -/
def State.partOf (s : State) (c : Nat) : Option Nat := s.partOfSect (coreSect c)

/-- The present cores of partition `n`, in ascending order. -/
def State.partCores (s : State) (n : Nat) : List Nat :=
  (List.range 1024).filter (fun c => (s.sects n).testBit (coreSect c) && s.present c)

/-- The half's clock runs: it is not PARKED (R254, R26). -/
def State.halfRuns (s : State) (h : Nat) : Bool := !s.pins.therm && s.rfld (0x90000 + 8 * h) 0 2 != 0

/-- Core `c` is present and its clock runs: its threads, engines, stream unit and message unit work (R26). -/
def State.coreRuns (s : State) (c : Nat) : Bool := s.present c && s.halfRuns (coreHalf c)

/-- The memory of an address is clocked: the LM of a core whose half is PARKED is not (R26). -/
def State.memRuns (s : State) (pa : Nat) : Bool := !inLm pa || s.halfRuns (coreHalf (lmCore pa))

/-! ### Threads -/

/-- The register file index of a 5-bit register number. -/
def rix (r : BitVec 5) : Fin 32 := ⟨r.toNat, r.isLt⟩
/-- The index of a thread number; of a channel or queue number. -/
def tix (t : BitVec 2) : Fin 4 := ⟨t.toNat, t.isLt⟩
def qix (q : BitVec 3) : Fin 8 := ⟨q.toNat, q.isLt⟩

/-- A general register; `g0` reads as zero (R81). -/
def Thread.getG (t : Thread) (r : BitVec 5) : W64 := if r = 0 then 0 else rget t.g (rix r)

/-- The thread with a general register set; a write to `g0` is discarded (R81). -/
def Thread.setG (t : Thread) (r : BitVec 5) (v : W64) : Thread :=
  if r = 0 then t else { t with g := rset t.g (rix r) v }

/-- A predicate; `p0` reads as true (R81). -/
def Thread.getP (t : Thread) (i : BitVec 3) : Bool := i = 0 || t.p.getLsbD i.toNat

/-- The thread with a predicate set; a write to `p0` is discarded (R81). -/
def Thread.setP (t : Thread) (i : BitVec 3) (b : Bool) : Thread :=
  if i = 0 then t else { t with p := setBit t.p i.toNat b }

/-- Supervisor mode: `THRSTAT.MODE` = 1 (R80). -/
def Thread.sup (t : Thread) : Bool := t.stat.getLsbD 0

/-- Thread `t` of core `c`. -/
def State.thread (s : State) (c : Nat) (t : BitVec 2) : Thread := rget (s.core c).thr (tix t)

/-- The core with thread `t` replaced. -/
def Core.setThr (k : Core) (t : BitVec 2) (x : Thread) : Core := { k with thr := rset k.thr (tix t) x }

/-- The state with thread `t` of core `c` replaced. -/
def State.setThread (s : State) (c : Nat) (t : BitVec 2) (x : Thread) : State :=
  s.modCore c (fun k => k.setThr t x)

/-- The state with thread `t` of core `c` changed. -/
def State.modThread (s : State) (c : Nat) (t : BitVec 2) (f : Thread → Thread) : State :=
  s.setThread c t (f (s.thread c t))

/-- `THRCTL` of thread `t` of core `c`. -/
def State.ctl (s : State) (c : Nat) (t : BitVec 2) : ThrCtl := rget (s.core c).ctl (tix t)

/-- The state with `THRCTL` of a thread replaced. -/
def State.setCtl (s : State) (c : Nat) (t : BitVec 2) (x : ThrCtl) : State :=
  s.modCore c (fun k => { k with ctl := rset k.ctl (tix t) x })

/-- A change of a thread that holds whatever later exception returns to an earlier state of it: made on the thread
and on every state of it that an access or engine instruction in flight keeps (R98). -/
def Core.modThrAll (k : Core) (t : BitVec 2) (f : Thread → Thread) : Core :=
  { k with
    thr := rset k.thr (tix t) (f (rget k.thr (tix t)))
    mem := { k.mem with accs := k.mem.accs.map (fun a => if a.thr = t then { a with snap := f a.snap } else a) }
    mx := { k.mx with queue := k.mx.queue.map (fun q => if q.thr = t then { q with snap := f q.snap } else q) }
    vx := { k.vx with queue := k.vx.queue.map (fun q => if q.thr = t then { q with snap := f q.snap } else q) } }

/-- A change that the thread's instruction `n` makes when it ends: on the thread, and on every state of it that a later
instruction in flight keeps. -/
def Core.modThrAfter (k : Core) (t : BitVec 2) (n : Nat) (f : Thread → Thread) : Core :=
  { k with
    thr := rset k.thr (tix t) (f (rget k.thr (tix t)))
    mem := { k.mem with accs := k.mem.accs.map (fun a => if a.thr = t ∧ n < a.n then { a with snap := f a.snap } else a) }
    mx := { k.mx with queue := k.mx.queue.map (fun q => if q.thr = t ∧ n < q.n then { q with snap := f q.snap } else q) }
    vx := { k.vx with queue := k.vx.queue.map (fun q => if q.thr = t ∧ n < q.n then { q with snap := f q.snap } else q) } }

/-- The thread is bound to the matrix engine; to the vector engine (R83). -/
def Core.matrixBound (k : Core) (t : BitVec 2) : Bool := k.engbind.getLsbD 2 && fld k.engbind 0 2 == t.toNat
def Core.vectorBound (k : Core) (t : BitVec 2) : Bool := k.engbind.getLsbD 6 && fld k.engbind 4 2 == t.toNat

/-- The pennants that exist: 19 and 23 read as 0 (R133, R153). -/
def pennBits : W32 := 0xFF77FFFF

/-- Pennant `i` of core `c` set (R201); an absent core has none. -/
def State.setPenn (s : State) (c i : Nat) : State :=
  if s.present c then s.modCore c (fun k => { k with penn := setBit k.penn i true }) else s

/-- A stall counter of a thread, one higher (R178). -/
def Core.tickStall (k : Core) (t : BitVec 2) (i : Nat) : Core :=
  let j : Fin 64 := ⟨(16 * t.toNat + i) % 64, Nat.mod_lt _ (by decide)⟩
  { k with stall := rset k.stall j (rget k.stall j + 1) }

end Sys2Proof.Machine
end

