-- ==== Sys2Proof/Machine/Float.lean ====
section
/-!
DEFINITION. Number formats, scales and rounding (R56-R77). A finite value is held exactly, as an integer count of
2^-520, the least weight that any operation needs (R116).
-/
namespace Sys2Proof.Machine

/-- The weight of one unit of a finite value is 2^-`unitLog`. -/
def unitLog : Nat := 520

/-- A value: not a number, an infinity, or an exact finite value in units of 2^-520. Zero has no sign (R69). -/
inductive Val where
  | nan
  | inf (neg : Bool)
  | fin (q : Int)
deriving DecidableEq, Repr

/-- The layout of a floating-point format (R57): exponent and mantissa bits, bias; whether it has infinities and a
NaN, and whether it has the one NaN of E4M3 only. -/
structure Fmt where
  eb : Nat
  mb : Nat
  bias : Nat
  ieee : Bool
  e4m3 : Bool

def fmtE2M1 : Fmt := ⟨2, 1, 1, false, false⟩
def fmtE3M2 : Fmt := ⟨3, 2, 3, false, false⟩
def fmtE2M3 : Fmt := ⟨2, 3, 1, false, false⟩
def fmtE4M3 : Fmt := ⟨4, 3, 7, false, true⟩
def fmtE5M2 : Fmt := ⟨5, 2, 15, true, false⟩
def fmtBF16 : Fmt := ⟨8, 7, 127, true, false⟩
def fmtFP16 : Fmt := ⟨5, 10, 15, true, false⟩
def fmtFP32 : Fmt := ⟨8, 23, 127, true, false⟩

/-- Width of a format in bits. -/
def Fmt.width (f : Fmt) : Nat := 1 + f.eb + f.mb

/-- The value of a bit pattern (R57-R58). -/
def Fmt.decode (f : Fmt) (b : Nat) : Val :=
  let m := b % 2 ^ f.mb
  let e := b / 2 ^ f.mb % 2 ^ f.eb
  let neg := b / 2 ^ (f.mb + f.eb) % 2 = 1
  if f.ieee ∧ e = 2 ^ f.eb - 1 then if m = 0 then .inf neg else .nan
  else if f.e4m3 ∧ e = 2 ^ f.eb - 1 ∧ m = 2 ^ f.mb - 1 then .nan
  else
    let mag := if e = 0 then m * 2 ^ (unitLog + 1 - f.bias - f.mb)
      else (2 ^ f.mb + m) * 2 ^ (unitLog + e - f.bias - f.mb)
    .fin (if neg then -(mag : Int) else mag)

/-- The largest finite pattern and the canonical quiet NaN of a format (R59). -/
def Fmt.maxBits (f : Fmt) : Nat :=
  if f.ieee then (2 ^ f.eb - 1) * 2 ^ f.mb - 1
  else if f.e4m3 then 2 ^ (f.eb + f.mb) - 2 else 2 ^ (f.eb + f.mb) - 1
def Fmt.nanBits (f : Fmt) : Nat :=
  if f.ieee then (2 ^ f.eb - 1) * 2 ^ f.mb + 2 ^ (f.mb - 1) else 2 ^ (f.eb + f.mb) - 1
def Fmt.infBits (f : Fmt) : Nat := (2 ^ f.eb - 1) * 2 ^ f.mb

/-- The magnitude of a format's largest finite value. -/
def Fmt.maxMag (f : Fmt) : Nat :=
  match f.decode f.maxBits with
  | .fin q => q.natAbs
  | _ => 0

/-- Rounding modes (R64). -/
inductive Rm where
  | rne
  | rtz
  | sr
deriving DecidableEq, Repr

/-- The mode of a rounding field; 0b11 is reserved. -/
def Rm.of (b : BitVec 2) : Rm := if b = 0 then .rne else if b = 1 then .rtz else .sr

/-- Flags of R73: bit 0 `FOVF`, bit 1 `FINV`, bit 2 `FUNF`. -/
abbrev Flags := BitVec 3
def fOvf : Flags := 1
def fInv : Flags := 2
def fUnf : Flags := 4

/-- The multiple of 2^`k` that a magnitude rounds to, over 2^`k` (R64-R65); `sticky` says that the exact magnitude is a
little more than `mag`, and `r` is the value drawn under `SR`. -/
def roundMag (rm : Rm) (r : W32) (mag k : Nat) (sticky : Bool) : Nat :=
  let a := mag / 2 ^ k
  let rem := mag % 2 ^ k
  match rm with
  | .rtz => a
  | .rne =>
    let half := 2 ^ k / 2
    if half < rem ∨ (rem = half ∧ (sticky ∨ a % 2 = 1)) then a + 1 else a
  | .sr => if r.toNat < rem * 2 ^ 32 / 2 ^ k then a + 1 else a

/-- A magnitude rounded to a format: the pattern without its sign, and flags (R64-R65, R70, R72). -/
def Fmt.roundTo (f : Fmt) (rm : Rm) (r : W32) (mag : Nat) (sticky : Bool) : Nat × Flags :=
  let low := unitLog + 1 - f.bias
  let e := max mag.log2 low
  let m := roundMag rm r mag (e - f.mb) sticky
  if m = 0 then (0, if mag = 0 ∧ !sticky then 0 else fUnf)
  else if f.maxMag < m * 2 ^ (e - f.mb) then
    (if f.ieee ∧ rm ≠ .rtz then f.infBits else f.maxBits, fOvf)
  else
    let c := if 2 ^ (f.mb + 1) ≤ m then (m / 2, e + 1) else (m, e)
    if c.1 < 2 ^ f.mb then (c.1, 0)
    else ((c.2 + f.bias - unitLog) * 2 ^ f.mb + (c.1 - 2 ^ f.mb), 0)

/-- A value written to a floating-point destination (R69-R72). -/
def Fmt.encode (f : Fmt) (rm : Rm) (r : W32) (v : Val) (sticky : Bool) : Nat × Flags :=
  let s := 2 ^ (f.eb + f.mb)
  match v with
  | .nan => if f.ieee ∨ f.e4m3 then (f.nanBits, 0) else (0, fInv)
  | .inf neg => if f.ieee then (f.infBits + neg.toNat * s, 0) else (f.maxBits + neg.toNat * s, fOvf)
  | .fin q =>
    let x := f.roundTo rm r q.natAbs sticky
    (if x.1 = 0 then 0 else x.1 + (if q < 0 then s else 0), x.2)

/-- A value written to a two's-complement destination of `w` bits (R64, R70-R72). -/
def intEncode (w : Nat) (rm : Rm) (r : W32) (v : Val) : Nat × Flags :=
  match v with
  | .nan => (0, fInv)
  | .inf neg => (if neg then 2 ^ (w - 1) else 2 ^ (w - 1) - 1, fOvf)
  | .fin q =>
    let m := roundMag rm r q.natAbs unitLog false
    if q < 0 then
      if 2 ^ (w - 1) < m then (2 ^ (w - 1), fOvf)
      else ((2 ^ w - m) % 2 ^ w, if m = 0 then fUnf else 0)
    else if 2 ^ (w - 1) ≤ m then (2 ^ (w - 1) - 1, fOvf)
    else (m, if m = 0 ∧ q ≠ 0 then fUnf else 0)

/-- A two's-complement pattern of `w` bits as an integer. -/
def intOf (w b : Nat) : Int := (BitVec.ofNat w b).toInt

/-- An integer saturated to `w` bits (R70). -/
def intSat (w : Nat) (i : Int) : Nat × Flags :=
  if i < -(2 ^ (w - 1) : Int) then (2 ^ (w - 1), fOvf)
  else if (2 ^ (w - 1) : Int) ≤ i then (2 ^ (w - 1) - 1, fOvf)
  else ((BitVec.ofInt w i).toNat, 0)

/-! ### Element types (R108, R136) -/

/-- Bits of an element of a type code; the type's floating-point layout. -/
def tyWidth : Nat → Nat
  | 0 => 4 | 1 => 6 | 2 => 6 | 3 => 8 | 4 => 8 | 5 => 16 | 6 => 16 | 7 => 4 | 8 => 8 | _ => 32
def tyFmt : Nat → Option Fmt
  | 0 => some fmtE2M1 | 1 => some fmtE3M2 | 2 => some fmtE2M3 | 3 => some fmtE4M3 | 4 => some fmtE5M2
  | 5 => some fmtBF16 | 6 => some fmtFP16 | 9 => some fmtFP32 | _ => none

/-- Elements of a type per 64-byte row (R60) and per vector register (R136). -/
def tyPerRow (t : Nat) : Nat := if t = 1 ∨ t = 2 then 80 else 512 / tyWidth t
def tyCap (t : Nat) : Nat := 4 * tyPerRow t

/-- The value of an element pattern of a type. -/
def tyDecode (t b : Nat) : Val :=
  match tyFmt t with
  | some f => f.decode b
  | none => .fin (intOf (tyWidth t) b * 2 ^ unitLog)

/-- An element written to a type. -/
def tyEncode (t : Nat) (rm : Rm) (r : W32) (v : Val) : Nat × Flags :=
  match tyFmt t with
  | some f => f.encode rm r v false
  | none => intEncode (tyWidth t) rm r v

/-- Bit position of element `e` of a type in a register of 64-byte rows (R60, R135). -/
def elemPos (t e : Nat) : Nat := 512 * (e / tyPerRow t) + tyWidth t * (e % tyPerRow t)

/-! ### Scales (R61-R63) -/

/-- A value times the factor of a scale code (R61). -/
def scaleBy (code : Nat) (v : Val) : Val :=
  if code = 255 then .nan
  else match v with
    | .fin q => .fin (q * 2 ^ code / 2 ^ 127)
    | _ => v

/-- The valid scale configurations of R63, by type code, block size code and direction. -/
def scaleValid (t blk : Nat) (across : Bool) : Bool :=
  if blk = 0 then true
  else if 6 ≤ blk ∨ 7 ≤ t then false
  else if across then blk ≤ 3
  else if t = 0 then blk ≤ 5 else if t ≤ 2 then blk ≤ 2 else if t ≤ 4 then blk ≤ 4 else blk ≤ 3

/-- The scale index of element `i` of row `r` (R62). -/
def scaleIdx (t blk : Nat) (across : Bool) (r i : Nat) : Nat :=
  let b := 4 * 2 ^ blk
  if across then r / b * tyPerRow t + i else r * (tyPerRow t / b) + i / b

/-! ### Exact sums (R115-R116) -/

/-- A sum in progress: what its terms have been so far. -/
structure Sum where
  nan : Bool
  inv : Bool
  pinf : Bool
  ninf : Bool
  q : Int

def Sum.zero : Sum := ⟨false, false, false, false, 0⟩

/-- The sum with a term added; the order of the terms does not matter (R116). -/
def Sum.add (s : Sum) : Val → Sum
  | .nan => { s with nan := true }
  | .inf true => { s with ninf := true }
  | .inf false => { s with pinf := true }
  | .fin q => { s with q := s.q + q }

/-- The sum with an exact product added; 0 × ∞ is invalid (R69). -/
def Sum.addMul (s : Sum) (a b : Val) : Sum :=
  match a, b with
  | .nan, _ => { s with nan := true }
  | _, .nan => { s with nan := true }
  | .fin x, .fin y => { s with q := s.q + x * y / 2 ^ unitLog }
  | .inf n, .fin y => if y = 0 then { s with nan := true, inv := true } else s.add (.inf (n != decide (y < 0)))
  | .fin x, .inf n => if x = 0 then { s with nan := true, inv := true } else s.add (.inf (n != decide (x < 0)))
  | .inf n, .inf m => s.add (.inf (n != m))

/-- The value of a sum, and `FINV` where it is invalid (R69). The spec does not say what a sum sets that has a NaN term and an
invalid product or opposite infinities as well; `FINV` is set there (R69, R143; DESIGN CHOICE, log 110). -/
def Sum.val (s : Sum) : Val × Flags :=
  let inv := s.inv || (s.pinf && s.ninf)
  (if s.nan || inv then .nan else if s.pinf then .inf false else if s.ninf then .inf true else .fin s.q,
    if inv then fInv else 0)

/-- A value negated. -/
def Val.neg : Val → Val
  | .nan => .nan
  | .inf n => .inf (!n)
  | .fin q => .fin (-q)

/-- The order of two values that are not NaN. -/
def Val.lt : Val → Val → Bool
  | .inf true, .inf true => false
  | .inf true, _ => true
  | _, .inf true => false
  | .inf false, _ => false
  | _, .inf false => true
  | .fin a, .fin b => a < b
  | _, _ => false

/-- The smaller, or larger, of two values under R77. -/
def Val.pick (max : Bool) (a b : Val) : Val :=
  match a, b with
  | .nan, _ => b
  | _, .nan => a
  | _, _ => if max then (if a.lt b then b else a) else (if b.lt a then b else a)

/-- A sum rounded once to FP32 (R116). -/
def Sum.round (s : Sum) (rm : Rm) (r : W32) : W32 × Flags :=
  let v := s.val
  let x := fmtFP32.encode rm r v.1 false
  (BitVec.ofNat 32 x.1, x.2 ||| v.2)

/-- The value of an FP32 pattern. -/
def f32 (b : W32) : Val := fmtFP32.decode b.toNat

/-- A value rounded to FP32. -/
def toF32 (rm : Rm) (r : W32) (v : Val) : W32 × Flags :=
  let x := fmtFP32.encode rm r v false
  (BitVec.ofNat 32 x.1, x.2)

/-! ### The stochastic generator (R66) -/

/-- One advance of the generator. -/
def srAdvance (x : W32) : W32 :=
  let x := x ^^^ (x <<< 13)
  let x := x ^^^ (x >>> 17)
  x ^^^ (x <<< 5)

/-- The state after `n` draws. -/
def srAfter : Nat → W32 → W32
  | 0, x => x
  | n + 1, x => srAfter n (srAdvance x)

end Sys2Proof.Machine
end

