-- ==== Sys2Proof/Config.lean ====
section
/-!
DEFINITION. The free values: what the spec leaves open. Each is a constant with no body, so no proof sees its value.
-/
namespace Sys2Proof.Config

/-- Whether an access whose translation is cached and has since been changed uses the old one (R275: it may use
either). -/
opaque staleTlb : Nat → Bool

/-- Which valid line a fill replaces in a full data cache (R224 names replacement and gives no order). -/
opaque victim : Nat → Nat

/-- Core cycles that something took, where the model has no core clock to count them (R395). -/
opaque cycles : Nat → BitVec 32

/-- The code of an error answer that an event names without its code (R369, R420). -/
opaque errCode : Nat → BitVec 4

/-- The narrowest mode of a port at which a program's B holds, 0 where the program does not use the port: the program
declares it (R359), and no image section carries it. By the program's serial and the port. -/
opaque portMode : Nat → Nat → BitVec 2

/-- The code of a port's failure in logs and records, by its kind (R379, R395, R420), 0 for a change that is none. -/
opaque portCause : Nat → BitVec 8

/-- What an item carries in fields whose contents R354 does not lay out: the operation field of a `READ` of a length, of an
`AMO` of an operation and width, and of an item of a post by its descriptor's `TAG` and its number in the post; the data of
an `AMO`; the header of a `MSG` by its destination core and the header delivered; the payload of an `ANSWER`, and of a
`BAR` by its group, kind and parity. -/
opaque readOp : Nat → BitVec 17
opaque amoOp : BitVec 4 → Bool → BitVec 17
opaque postOp : Nat → Nat → BitVec 17
opaque amoData : BitVec 4 → Bool → BitVec 64 → BitVec 64 → BitVec 128
opaque msgHeader : Nat → BitVec 64 → BitVec 64
opaque answerByte : Bool → BitVec 8
opaque barWord : Nat → Nat → Bool → BitVec 64

/-- Bytes 8-251 of a link-control flit, whose layout R347 does not give, by its number. -/
opaque linkControl : Nat → BitVec 1952

/-- Bytes 8-251 of a `TIME` flit, whose layout R377 does not give, by the `DEVTIME` that it carries. -/
opaque timeFlit : BitVec 64 → BitVec 1952

/-- The bits of the AER uncorrectable error status that an error of the host link sets: PCI Express gives them by the kind of the
error, which R292 does not. -/
opaque aerBits : BitVec 32

/-- The device ID of a child of a fabric barrier group, by the group's tag and the child's number: the host configures
the group's tree (R374), and no register names the children of a device. -/
opaque barChild : Nat → Nat → BitVec 17

/-- The rate adjustment, in parts per 10^9, that follows from a measured offset in ps (R377 gives its bound alone). -/
opaque slew : BitVec 32 → BitVec 32

/-- The special functions of R147 on inputs to which R147 gives no exact result: each is a fixed function of the input
bits, of which the spec states only a bound on its error; a value outside the bound is not used (`Machine.openRes`). -/
opaque exp : BitVec 32 → BitVec 32
opaque exp2 : BitVec 32 → BitVec 32
opaque log : BitVec 32 → BitVec 32
opaque log2 : BitVec 32 → BitVec 32
opaque rsqrt : BitVec 32 → BitVec 32
opaque tanh : BitVec 32 → BitVec 32
opaque sigmoid : BitVec 32 → BitVec 32
opaque erf : BitVec 32 → BitVec 32
opaque sin : BitVec 32 → BitVec 32
opaque cos : BitVec 32 → BitVec 32

/-- The Limant root public key whose digest is fused at manufacture (R436): x, then y. -/
opaque rootKey : Nat × Nat

/-- Whether a low pulse of `WARMRST_N` of 1 µs or more but less than 10 µs is a warm reset (R455: not defined). -/
opaque warmPulse : Nat → Bool

/-- The version and Limant's JEP106 manufacturer identity that `IDCODE` holds (R467). -/
opaque jtagVersion : BitVec 4
opaque jtagMaker : BitVec 11

/-- The level of a signal that no state gives, at a capture by the boundary register, by a counter and the signal's cell; how many
balls the LPDDR5X ports have (R467). -/
opaque pinLevel : Nat → Nat → Bool
opaque lpBalls : Nat

/-- Whether the retention logic keeps the fuse requests through a fall of `VDD_AUX` that does not reach 0.18 V (R431:
it may keep or discard them). -/
opaque fusesKept : Nat → Bool

/-- `FADDR` of a channel whose descriptor store holds uncorrectable data: R179 gives the fault, and no address. -/
opaque storeFault : Nat → BitVec 64

end Sys2Proof.Config
end

