-- ==== Sys2Proof/Machine/Report.lean ====
section
/-!
DEFINITION. How events are reported: trace records (R392-R399), error counters and log (R413-R422), MSI-X messages
(R311), and the conditions of promises (R50-R51, R415).
-/
namespace Sys2Proof.Machine

/-- Partition `n`. -/
def State.part (s : State) (n : Nat) : Part := AMap.get Part.reset s.parts n

/-- The state with partition `n` replaced; changed. -/
def State.setPart (s : State) (n : Nat) (p : Part) : State := { s with parts := AMap.put s.parts n p }
def State.modPart (s : State) (n : Nat) (f : Part → Part) : State := s.setPart n (f (s.part n))

/-- The device ID (R360). -/
def State.devid (s : State) : Nat := s.rfld 0x50000 0 17

/-! ### MSI-X (R311) -/

/-- Offsets of the vector control word of a PF vector and of its pending bit. -/
def msixEntry (vec : Nat) : Nat := 0x100000 + 16 * vec
def msixPba (vec : Nat) : Nat := 0x108000 + 8 * (vec / 64)

/-- A function may send MSI-X messages: it is a bus master in D0, with MSI-X enabled and not masked as a whole (R292, R313). -/
def State.fnSends (s : State) (fn : Nat) : Bool :=
  s.link.bme.getLsbD fn && !s.link.d3hot.getLsbD fn && s.link.msixOn.getLsbD fn && !s.link.msixMask.getLsbD fn

/-- One message on a vector of a function: a masked vector, or a function that may not send, sets its
pending bit instead (R311, R313; log 118). The tables of the VFs are
held at the function's number times 2^32. -/
def State.msix (s : State) (fn vec : Nat) : State :=
  let b := fn * 0x100000000
  if (s.reg (b + msixEntry vec + 8)).getLsbD 32 || !s.fnSends fn then
    s.setReg (b + msixPba vec) (setBit (s.reg (b + msixPba vec)) (vec % 64) true)
  else { s with hostOut := s.hostOut ++ [.msix fn vec] }

/-! ### Conditions of promises -/

/-- Cause `c` of R51 has arisen for partition `n`. -/
def State.breakCond (s : State) (n c : Nat) : State :=
  s.modPart n (fun p =>
    let i : Fin 8 := ⟨c % 8, Nat.mod_lt _ (by decide)⟩
    { p with cause := rset p.cause i (rget p.cause i + 1) })

/-! ### Trace records -/

/-- Offset of partition `n`'s trace register (R397). -/
def trc (n o : Nat) : Nat := 0x70000 + n * 0x100 + o

/-- The 32 bytes of a trace record (R392). -/
def traceRecord (time : W64) (dev core : Nat) (unit : Bool) (thr : Nat) (seq : W32) (ty : Nat) (payload : Nat) :
    BitVec 256 :=
  BitVec.ofNat 256 (time.toNat + (dev % 2 ^ 17) <<< 64 + (core % 1024) <<< 81 + unit.toNat <<< 91 + (thr % 4) <<< 92 +
    seq.toNat <<< 96 + (ty % 256) <<< 128 + (payload % 2 ^ 120) <<< 136)

/-- Partition `n`'s ring takes records of a type (R396-R397). -/
def State.traces (s : State) (n ty : Nat) : Bool :=
  (s.reg (trc n 8)).getLsbD 5 && (s.reg (trc n 8)).getLsbD (32 + ty)

/-- A record goes to the trace writer of partition `n`. -/
def State.traceTo (s : State) (n : Nat) (r : BitVec 256) : State :=
  s.modPart n (fun p => { p with trcPend := p.trcPend ++ [r] })

/-- A record of partition `n` is lost and counted (R398). -/
def State.traceLose (s : State) (n : Nat) : State :=
  (s.setReg (trc n 0x20) (s.reg (trc n 0x20) + 1)).modPart n (fun p => { p with trcLost := p.trcLost + 1 })

/-- Core `c` forms a record of a type (R393, R396, R399). -/
def State.traceCore (s : State) (c : Nat) (thr : Nat) (ty payload : Nat) : State :=
  match s.partOf c with
  | none => s
  | some n =>
    if s.traces n ty then
      let k := s.core c
      let s' := s.setCore c { k with seqno := k.seqno + 1, traced := k.traced + 1 }
      if k.traced < (s.part n).traceMax then
        s'.traceTo n (traceRecord s.devtime s.devid c false thr k.seqno ty payload)
      else s'.traceLose n
    else s

/-- Unit `u` forms a record for the rings of the partitions listed that take its type (R393, R396). -/
def State.traceUnitAt (s : State) (time : W64) (u : Nat) (rings : List Nat) (ty payload : Nat) : State :=
  let dest := rings.filter (fun n => s.traces n ty)
  if dest.isEmpty then s
  else
    let q := AMap.get 0 s.unitSeq u
    let r := traceRecord time s.devid u true 0 q ty payload
    dest.foldl (fun s n => s.traceTo n r) { s with unitSeq := AMap.put s.unitSeq u (q + 1) }

/-- As `traceUnitAt`, now. -/
def State.traceUnit (s : State) (u : Nat) (rings : List Nat) (ty payload : Nat) : State :=
  s.traceUnitAt s.devtime u rings ty payload

/-! ### Errors -/

/-- One event of a source counted: corrected in the low half, uncorrected in the high half, saturating (R419). -/
def State.countErr (s : State) (src : Nat) (unc : Bool) : State :=
  s.satInc (0x80100 + 8 * src) (if unc then 32 else 0) 32

/-- What an error log entry says (R420). -/
structure LogEntry where
  src : Nat
  flags : Nat
  part : Option Nat
  code : Nat
  core : Option Nat
  thr : Nat
  addr : W64
  detail : Nat

/-- Bytes 8-14 of a log entry as a number (R420). -/
def LogEntry.head (e : LogEntry) : Nat :=
  e.src % 256 + (e.flags % 256) <<< 8 + (e.part.getD 0xFF % 256) <<< 16 + (e.code % 256) <<< 24 +
    (e.core.getD 0xFFFF % 65536) <<< 32 + (e.thr % 4) <<< 48

/-- An entry written to the error log while it has room, else counted as lost; its message (R418), and its trace
record, formed in either case (R420-R421). -/
def State.errLog (s : State) (e : LogEntry) : State :=
  let prod := (s.reg 0x80018).toNat
  let cons := (s.reg 0x80020).toNat
  let s1 :=
    if prod - cons < 64 then
      let b := 0x81000 + 32 * (prod % 64)
      let s := (((s.setReg b s.devtime).setReg (b + 8) (BitVec.ofNat 64 e.head)).setReg (b + 16) e.addr).setReg
        (b + 24) (BitVec.ofNat 64 e.detail)
      let s := s.setReg 0x80018 (BitVec.ofNat 64 (prod + 1))
      if s.rfld 0x80010 11 1 = 1 then s.msix 0 (s.rfld 0x80010 0 11) else s
    else s.satInc 0x80028 0 32
  s1.traceUnit (match e.part with | some n => 8 + n | none => 1)
    (match e.part with | some n => [n] | none => List.range 8) 0x17 (e.head % 2 ^ 56 + e.addr.toNat <<< 56)

/-- Core `c` becomes suspect through a source (R422); the quarantine that `AUTO` orders is the `QUARANTINE` event. -/
def State.suspect (s : State) (c src : Nat) : State :=
  let o := 0x80800 + 8 * (c / 64)
  if (s.reg o).getLsbD (c % 64) then s
  else (s.setReg o (setBit (s.reg o) (c % 64) true)).modCore c (fun k => { k with suspSrc := src })

/-- A corrected event of sources 0-6 on a core: counted, and `CTHRESH` of them within `WINDOW_MS` make the core
suspect (R419, R422). -/
def State.coreCorrected (s : State) (c src : Nat) : State :=
  let w := s.rfld 0x80030 16 16 * 1000000
  let keep := (s.core c).corr.filter (fun t => s.elapsed.toNat < t.toNat + w) ++ [s.elapsed]
  let s := (s.countErr src false).modCore c (fun k => { k with corr := keep })
  let th := s.rfld 0x80030 8 8
  if th ≠ 0 ∧ th ≤ keep.length then s.suspect c src else s

/-- Byte 9 of the log entry of an event that R413 marks "Suspect" on core `c`: uncorrected; made the core suspect, where it
was not; led to quarantine, where `AUTO` = 1 (R420, R427; DEDUCED, log 92). -/
def State.eventBits (s : State) (c : Nat) : Nat :=
  if (s.reg (0x80800 + 8 * (c / 64))).getLsbD (c % 64) ∨ !s.present c then 1 else if s.rfld 0x80030 0 1 = 1 then 7 else 3

/-- An uncorrected event of sources 0-7 on a core: counted, logged, condition 1 of R50 fails for the core's
partition, and the core becomes suspect (R413, R415, R420, R422). -/
def State.coreUncorrected (s : State) (c thr src code : Nat) (addr : W64) (loc : Bool) : State :=
  let s := s.countErr src true
  let s := match s.partOf c with | some n => s.breakCond n 1 | none => s
  (s.errLog ⟨src, s.eventBits c + if loc then 16 else 0, s.partOf c, code, some c, thr, addr, 0⟩).suspect c src

end Sys2Proof.Machine
end

