-- ==== Sys2Proof/Machine/Access.lean ====
section
/-!
DEFINITION. Addresses, homes and the accesses of cores: decoding and translation (R269-R275), poison (R278),
exceptions (R98-R100), the range scoreboard and the data cache (R217-R227).
-/
namespace Sys2Proof.Machine

/-! ### Exceptions (R99) -/

/-- The exception codes of R99. -/
def excUndef : Nat := 0x01
def excPriv : Nat := 0x02
def excAlign : Nat := 0x03
def excPage : Nat := 0x04
def excShape : Nat := 0x05
def excFmt : Nat := 0x06
def excSendWait : Nat := 0x07
def excEcc : Nat := 0x08
def excChecksum : Nat := 0x09
def excWatchdog : Nat := 0x0A
def excBreak : Nat := 0x0B
def excSyscall : Nat := 0x0C
def excTranslation : Nat := 0x0D
def excAccess : Nat := 0x0E

/-- Place of an exception in the order of R99 among those of one instruction. -/
def Exc.rank (e : Exc) : Nat :=
  (([excUndef, excPriv, excAlign, excTranslation, excPage, excAccess, excFmt, excShape, excSendWait, excEcc,
    excChecksum] : List Nat).findIdx? (· == e.code)).getD 11

/-- `SCAUSE` of an exception (R99). -/
def Exc.scause (e : Exc) : W64 :=
  BitVec.ofNat 64 (e.code % 64 + if 0x10 ≤ e.code ∧ e.code < 0x20 then 64 else 0) |||
    BitVec.ofNat 64 (e.emul.toNat * 128 + e.loc.toNat * 256)

/-- The register of a load becomes visible with its value (R93-R94). -/
def Thread.showLoad (t : Thread) (l : PLoad) : Thread :=
  match l.val with
  | some v => t.setG l.rd v
  | none => t

/-- Every pending loaded value becomes visible (R100 step 1). -/
def Thread.showAll (t : Thread) : Thread :=
  { t.loads.foldl Thread.showLoad t with loads := [] }

/-- Exception entry, steps 2-4 of R100, on a thread whose loads have all arrived; it counts as two instructions under
R93 and suspends the repetition in progress, which `ERET` resumes as the `RPT` or `RPTN` that it is (R97): the address of
a suspended `RPTN` is kept until then, whatever the handler's own exceptions suspend (DEDUCED, log 46). -/
def Thread.enter (t : Thread) (e : Exc) : Thread :=
  let t := t.showAll
  let st := setBit (setBit t.stat 1 (t.stat.getLsbD 0)) 3 (t.stat.getLsbD 2)
  { t with
    sepc := t.pc, scause := e.scause, stval := e.stval
    stat := setBit (setBit (setBit st 0 true) 2 false) 4 true
    pc := t.svec, n := t.n + 2, rptOn := false, wait := none
    rptSusp := if t.rptOn then (if t.rptN then [t.pc] else []) ++ t.rptSusp.filter (· != t.pc) else t.rptSusp }

/-- A thread halts on a second exception (R100): the first stays recorded. The event is logged (R413 source 22). -/
def State.haltThread (s : State) (c : Nat) (t : BitVec 2) (e : Exc) : State :=
  let s := s.modThread c t (fun x => { x.showAll with wait := none })
  let k := s.ctl c t
  let s := s.setCtl c t { k with halted := true, stopped := true, hcause := BitVec.ofNat 6 e.code, stopReq := false }
  ((s.setPenn c 31).countErr 22 true).errLog ⟨22, if e.loc then 17 else 1, s.partOf c, e.code, some c, t.toNat, e.stval, 0⟩

/-- A thread whose loads have all arrived takes an exception: it enters the handler, or halts when `EXL` = 1 (R100).
The entry is traced (R395). -/
def State.enterExc (s : State) (c : Nat) (t : BitVec 2) (e : Exc) : State :=
  let x := s.thread c t
  if x.stat.getLsbD 4 then s.haltThread c t e
  else
    let x' := x.enter e
    (s.setThread c t x').traceCore c t.toNat 0x03
      (x'.scause.toNat % 256 + (x'.sepc.toNat % 2 ^ 48) <<< 8 + x'.stval.toNat <<< 56)

/-! ### Poison and homes (R216, R276-R278, R413) -/

/-- Some byte of the range is in a poisoned unit. -/
def State.poisoned (s : State) (pa len : Nat) : Bool :=
  s.poison.any (fun u => u < pa + len && pa < u + eccUnit u)

/-- The state with the unit of an address poisoned. -/
def State.addPoison (s : State) (pa : Nat) : State :=
  let u := unitBase pa
  { s with poison := (s.poison.filter (· < u)) ++ u :: s.poison.filter (u < ·) }

/-- The home of an address is in service: a tier 2 port whose `INSVC` bit is 0 is not (R288, R413); after a thermal trip
tier 1 is not (R417). -/
def State.homeUp (s : State) (pa : Nat) : Bool :=
  !(s.pins.therm && inTier1 pa) && (!inTier2 pa || (s.reg 0x40000).getLsbD (32 + tier2Port pa))

/-- What the code over the data at an address finds is corrected, or poisons its unit, and is counted and logged
(R276-R278, R413). -/
def State.eccEvent (s : State) (pa : Nat) (e : Ecc) : State :=
  let owner := (pa - lmBase) / 0x100000
  match e with
  | .good => s
  | .corrected =>
    if inLm pa then s.coreCorrected owner 0
    else if inTier1 pa then s.countErr 11 false else s.countErr 12 false
  | .uncorrectable =>
    let s := s.addPoison pa
    if inLm pa then s.coreUncorrected owner 0 0 excEcc (BitVec.ofNat 64 pa) false
    else
      let src := if inTier1 pa then 11 else 12
      (s.countErr src true).errLog ⟨src, 1, none, excEcc, none, 0, BitVec.ofNat 64 pa,
        if inTier1 pa then pa / 4096 % 8 else tier2Port pa⟩

/-- A read at a home: what its code finds, then the bytes, and whether they are uncorrectable. -/
def State.homeRead (s : State) (pa len : Nat) (e : Ecc) : State × List Byte × Bool :=
  let s := s.eccEvent pa e
  (s, Memory.readBytes s.mem pa len, s.poisoned pa len || !s.homeUp pa)

/-- A `WAITM` of thread `x` that watches a word which a write has changed records the value written (R230). -/
def Thread.watch (x : Thread) (m : List Host.Cell) (pa len : Nat) : Thread :=
  match x.wait with
  | some (.waitm rd cmp limit ea (.here w) true true none) =>
    let v := BitVec.ofNat 64 (ofLE (Memory.readBytes m w 8))
    if w < pa + len ∧ pa < w + 8 ∧ v ≠ cmp then
      { x with wait := some (.waitm rd cmp limit ea (.here w) true true (some v)) }
    else x
  | _ => x

/-- A write performed at its home: the bytes, the poison that it wholly covers cleared (R278), and the watches that
it changes ended (R230). A write to a port out of service is not performed. -/
def State.homeWrite (s : State) (pa : Nat) (bs : List Byte) : State :=
  if s.homeUp pa then
    let m := Memory.writeBytes s.mem pa bs
    { s with
      mem := m
      poison := s.poison.filter (fun u => !(pa ≤ u && u + eccUnit u ≤ pa + bs.length))
      cores := s.cores.map (fun p => (p.1, { p.2 with thr := p.2.thr.map (fun x => x.watch m pa bs.length) })) }
  else s

/-! ### Translation (R272-R275) -/

/-- An 8-byte table entry read at its home; none where the read fails. With `ideal`, what the entry holds, whatever a
read of it would find. -/
def State.tableEntry (s : State) (ideal : Bool) (pa : Nat) : Option W64 :=
  if inTiers pa 8 && (ideal || (s.homeUp pa && !s.poisoned pa 8)) then
    some (BitVec.ofNat 64 (ofLE (Memory.readBytes s.mem pa 8)))
  else none

/-- A level-2 entry passes the checks of R274 for a page of 2^`log` bytes of partition `n`. -/
def State.leafCheck (s : State) (n log : Nat) (e : W64) : Option Nat :=
  if !e.getLsbD 0 then some excPage
  else if fld e 6 10 ≠ 0 ∨ (log = 21 ∧ fld e 16 5 ≠ 0) then some excTranslation
  else if e.getLsbD 5 then
    if !(s.reg (prt n 0x88)).getLsbD 1 || fld e 47 17 == s.devid then some excTranslation else none
  else if fld e 43 21 ≠ 0 ∨ !inTiers (fld e 16 27 * 65536) (2 ^ log) then some excTranslation
  else none

/-- The walk of partition `n`'s tables for a virtual address: the leaf and the page size, or the exception (R273,
R274). -/
def State.walk (s : State) (ideal : Bool) (n va : Nat) : Except Nat (W64 × Nat) :=
  match s.tableEntry ideal (s.rfld (prt n 0x80) 0 43 + 8 * (va / 2 ^ 30)) with
  | none => .error excTranslation
  | some e =>
    if !e.getLsbD 0 then .error excPage
    else
      let big := e.getLsbD 1
      let tb := fld e 12 31 * 4096
      let size := if big then 4096 else 131072
      if fld e 2 10 ≠ 0 ∨ fld e 43 21 ≠ 0 ∨ tb % size ≠ 0 ∨ !inTiers tb size then .error excTranslation
      else
        let log := if big then 21 else 16
        match s.tableEntry ideal (tb + 8 * (va % 2 ^ 30 / 2 ^ log)) with
        | none => .error excTranslation
        | some l =>
          match s.leafCheck n log l with
          | some x => .error x
          | none => .ok (l, log)

/-- The leaf that an access uses, of what the translation cache holds and what the tables give (R275): a cached one whose
entries have not changed is used, and one whose entries have changed may be. -/
def State.leafUsed (s : State) (n va : Nat) (hit : Option TlbEntry) : Except Nat (W64 × Nat) :=
  match hit with
  | none => s.walk false n va
  | some e =>
    let same := match s.walk true n va with
      | .ok (l, g) => l == e.leaf && g == e.log
      | .error _ => false
    if same || Config.staleTlb s.free then .ok (e.leaf, e.log) else s.walk false n va

/-- The translation of a virtual address by core `c` of partition `n`, through its translation cache (R275). -/
def State.xlate (s : State) (c n va : Nat) : State × Except Nat (W64 × Nat) :=
  if !(s.reg (prt n 0x88)).getLsbD 0 then (s, .error excPage)
  else
    let k := s.core c
    let hit := k.mem.tlb.find? (fun e => va / 2 ^ e.log == e.vpage)
    let rest := match hit with
      | some e => k.mem.tlb.filter (· != e)
      | none => k.mem.tlb
    let res := s.leafUsed n va hit
    let tlb := match res with
      | .ok (l, g) => (⟨va / 2 ^ g, g, l⟩ :: rest).take 64
      | .error _ => rest
    (s.setCore c { k with mem := { k.mem with tlb := tlb } }, res)

/-- What an access needs of a page (R274). -/
inductive Need where
  | read
  | write
  | both
  | fetch
deriving DecidableEq, Repr

/-- The leaf gives the access its permission (R274). -/
def leafAllows (l : W64) (need : Need) (user : Bool) : Bool :=
  (match need with
    | .read => l.getLsbD 1
    | .write => l.getLsbD 2
    | .both => l.getLsbD 1 && l.getLsbD 2
    | .fetch => l.getLsbD 3) && (!user || l.getLsbD 4)

/-- The effective address is in the own-LM form (R269). -/
def isOwnLm (ea : W64) : Bool := ea.toNat < 0x80000

/-- Decoding of an effective address by core `c` (R269-R271), translated where R269 says so. -/
def State.resolve (s : State) (c : Nat) (ea : W64) (need : Need) (user : Bool) : State × Except Exc Resolved :=
  let a := ea.toNat
  let n := (s.partOf c).getD 0
  let access : Except Exc Resolved := .error { code := excAccess, stval := ea }
  if isOwnLm ea then (s, .ok ⟨.here (lmAddr c a), .lm c, a⟩)
  else if 2 ^ 48 ≤ a then
    if a / 2 ^ 47 = s.devid ∨ !(s.reg (prt n 0x88)).getLsbD 1 then (s, access)
    else (s, .ok ⟨.remote ea, .glob (a / 2 ^ 47), a % 2 ^ 47⟩)
  else if inLm a then
    let w := (a - lmBase) / 0x100000
    let off := a % 0x100000
    if 0x80000 ≤ off ∨ s.partOf w ≠ s.partOf c ∨ !s.present w then (s, access)
    else (s, .ok ⟨.here a, .lm w, off⟩)
  else
    match s.xlate c n a with
    | (s', .error x) => (s', .error { code := x, stval := ea })
    | (s', .ok (l, g)) =>
      if !leafAllows l need user then (s', .error { code := excAccess, stval := ea })
      else if l.getLsbD 5 then
        (s', .ok ⟨.remote (BitVec.ofNat 64 (fld l 16 48 * 65536 + a % 2 ^ g)), .virt, a⟩)
      else (s', .ok ⟨.here (fld l 16 27 * 65536 + a % 2 ^ g), .virt, a⟩)

end Sys2Proof.Machine
end

