-- ==== Sys2Proof/Machine/Crc.lean ====
section
/-!
DEFINITION. CRC-32C (R284, R435) and SHA-384 (R436), as the standards that the spec names define them (PRESUMED,
log 16).
-/
namespace Sys2Proof.Machine

/-! ### CRC-32C: polynomial 0x1EDC6F41, reflected, all ones at the start and inverted at the end -/

def crcBit (r : W32) : W32 := if r.getLsbD 0 then (r >>> 1) ^^^ 0x82F63B78 else r >>> 1

def crcBits : Nat → W32 → W32
  | 0, r => r
  | n + 1, r => crcBits n (crcBit r)

def crc32c (bs : List Byte) : W32 :=
  ~~~(bs.foldl (fun r b => crcBits 8 (r ^^^ b.setWidth 32)) 0xFFFFFFFF)

/-! ### SHA-384 -/

/-- The primes below a bound. -/
def primesBelow (n : Nat) : List Nat :=
  (List.range n).filter (fun p => 2 ≤ p && (List.range p).all (fun d => d < 2 || p % d != 0))

/-- The largest number from `acc` on, and below `acc + 2 ^ k`, whose power `e` is at most `x`. -/
def rootBelow (e x : Nat) : Nat → Nat → Nat
  | 0, acc => acc
  | k + 1, acc => rootBelow e x k (if (acc + 2 ^ k) ^ e ≤ x then acc + 2 ^ k else acc)

/-- The first 64 bits of the fractional part of a root of a number below 2^12. -/
def rootBits (e p : Nat) : W64 := BitVec.ofNat 64 (rootBelow e (p * 2 ^ (64 * e)) 70 0)

/-- The constants: cube roots of the first 80 primes; at the start, square roots of the ninth to the sixteenth. -/
def shaRoundConst : List W64 := (primesBelow 410).map (rootBits 3)
def shaStart : List W64 := ((primesBelow 54).drop 8).map (rootBits 2)

/-- A word rotated by each of a list of distances, and the exclusive or of the results. -/
def spun (x : W64) (by_ : List Nat) : W64 := by_.foldl (fun r n => r ^^^ x.rotateRight n) 0

/-- The message padded to whole blocks, as words, the most significant byte of each first. -/
def shaMessage (bs : List Byte) : List W64 :=
  let fill := (239 - bs.length % 128) % 128
  let all := bs ++ 0x80 :: List.replicate fill 0 ++ (toLE 16 (8 * bs.length)).reverse
  (List.range (all.length / 8)).map (fun i => BitVec.ofNat 64 (ofLE ((all.drop (8 * i)).take 8).reverse))

/-- A block's words, followed by as many more as `n` says. -/
def shaExtend : Nat → List W64 → List W64
  | 0, l => l
  | n + 1, l =>
    let back (d : Nat) : W64 := l.getD (l.length - d) 0
    shaExtend n (l ++ [back 16 + back 7 + (spun (back 15) [1, 8] ^^^ back 15 >>> 7) + (spun (back 2) [19, 61] ^^^ back 2 >>> 6)])

/-- One round: `x` is the constant and the word of the round; the variables move up by one place. -/
def shaTurn (v : List W64) (x : W64) : List W64 :=
  let at_ (i : Nat) : W64 := v.getD i 0
  let chosen := at_ 6 ^^^ (at_ 4 &&& (at_ 5 ^^^ at_ 6))
  let major := (at_ 0 &&& (at_ 1 ||| at_ 2)) ||| (at_ 1 &&& at_ 2)
  let u := x + at_ 7 + spun (at_ 4) [14, 18, 41] + chosen
  ((u + spun (at_ 0) [28, 34, 39] + major) :: v.take 7).modify 4 (fun d => d + u)

/-- The blocks of a message, `n` of them, one after the other. -/
def shaAll : Nat → List W64 → List W64 → List W64
  | 0, _, v => v
  | n + 1, ws, v =>
    let out := (List.zipWith (fun k w => k + w) shaRoundConst (shaExtend 64 (ws.take 16))).foldl shaTurn v
    shaAll n (ws.drop 16) (List.zipWith (fun a b => a + b) v out)

/-- The SHA-384 digest, 48 bytes. -/
def sha384 (bs : List Byte) : List Byte :=
  let ws := shaMessage bs
  (shaAll (ws.length / 16) ws shaStart).flatMap (fun x => (toLE 8 x.toNat).reverse) |>.take 48

/-! ### ECDSA over P-384 -/

def p384 : Nat := 2 ^ 384 - 2 ^ 128 - 2 ^ 96 + 2 ^ 32 - 1
def p384b : Nat := 0xb3312fa7e23ee7e4988e056be3f82d19181d9c6efe8141120314088f5013875ac656398d8a2ed19d2a85c8edd3ec2aef
def p384n : Nat := 0xffffffffffffffffffffffffffffffffffffffffffffffffc7634d81f4372ddf581a0db248b0a77aecec196accc52973
def p384G : Nat × Nat :=
  (0xaa87ca22be8b05378eb1c71ef320ad746e1d3b628ba79b9859f741e082542a385502f25dbf55296c3a545e3872760ab7,
   0x3617de4a96262c6f5d9e98bf9292dc29f8f41dbd289a147ce9da3113b5f0b8c00a60b1ce1d7e819d7a431d7c90ea0e5f)

/-- `a` to the power `e` modulo `m`, over `fuel` bits. -/
def powMod (m : Nat) : Nat → Nat → Nat → Nat
  | 0, _, _ => 1 % m
  | fuel + 1, a, e =>
    let r := powMod m fuel (a * a % m) (e / 2)
    if e % 2 = 1 then a * r % m else r

/-- The inverse modulo a prime below 2^384. -/
def invMod (m a : Nat) : Nat := powMod m 384 (a % m) (m - 2)

def subMod (m a b : Nat) : Nat := (a + m - b % m) % m

/-- Point addition; `none` is the point at infinity. -/
def ecAdd : Option (Nat × Nat) → Option (Nat × Nat) → Option (Nat × Nat)
  | none, q => q
  | p, none => p
  | some (x1, y1), some (x2, y2) =>
    if x1 = x2 ∧ (y1 + y2) % p384 = 0 then none
    else
      let l := if x1 = x2 then subMod p384 (3 * x1 * x1) 3 * invMod p384 (2 * y1) % p384
        else subMod p384 y2 y1 * invMod p384 (subMod p384 x2 x1) % p384
      let x := subMod p384 (subMod p384 (l * l) x1) x2
      some (x, subMod p384 (l * subMod p384 x1 x) y1)

/-- `k` times a point, over `fuel` bits. -/
def ecMul : Nat → Nat → Option (Nat × Nat) → Option (Nat × Nat)
  | 0, _, _ => none
  | fuel + 1, k, p =>
    let r := ecMul fuel (k / 2) (ecAdd p p)
    if k % 2 = 1 then ecAdd p r else r

/-- The number that bytes spell, most significant first. -/
def ofBE (bs : List Byte) : Nat := ofLE bs.reverse

/-- An ECDSA P-384 signature (r then s, 48 bytes each) of a digest by a public key. -/
def ecdsaOk (key : Nat × Nat) (digest sig : List Byte) : Bool :=
  let r := ofBE (sig.take 48)
  let t := ofBE ((sig.drop 48).take 48)
  let z := ofBE digest
  let (x, y) := key
  let onCurve := x < p384 && y < p384 && y * y % p384 == subMod p384 (x * x * x + p384b) (3 * x)
  if r = 0 ∨ p384n ≤ r ∨ t = 0 ∨ p384n ≤ t ∨ !onCurve then false
  else
    let w := invMod p384n t
    match ecAdd (ecMul 384 (z * w % p384n) (some p384G)) (ecMul 384 (r * w % p384n) (some key)) with
    | some (px, _) => px % p384n == r
    | none => false

end Sys2Proof.Machine
end

