-- ==== Sys2Proof/Machine/Egress.lean ====
section
/-!
DEFINITION. How an item leaves for another device: routes (R360-R363), items and flits as bytes (R347, R354), the credits
and the replay buffer of a port (R351, R353).
-/
namespace Sys2Proof

/-! ### Items as bytes (R354) -/

/-- Requests, messages and posts carry the extension. -/
def Transit.ext (t : Transit) : Bool := 1 ≤ t.ty.toNat && t.ty.toNat ≤ 5

/-- Bytes of an item. -/
def Transit.size (t : Transit) : Nat := 16 + (if t.ext then 16 else 0) + t.payload.length

/-- The credit class of a channel, numbered as R353 lists them: 0 `TIME`, 1 `CTRL`, 2 `REQ`, 3 `RSP`, 4 `BULK` (DEDUCED,
log 121). -/
def Transit.cls (t : Transit) : Nat := if t.chan = 0 then 0 else 2 * t.chan.toNat - 1 + t.dl.toNat

/-- The bytes of an item. -/
def Transit.bytes (t : Transit) : List Byte :=
  Machine.toLE 1 t.ty.toNat ++ Machine.toLE 1 (t.chan.toNat + 8 * t.dl.toNat) ++ Machine.toLE 2 t.payload.length ++ Machine.toLE 3 t.dst.toNat ++
    Machine.toLE 3 t.org.toNat ++ Machine.toLE 2 (t.core.toNat + 2 ^ 10 * t.cc.toNat + 2 ^ 11 * t.thr.toNat + 2 ^ 13 * t.stream.toNat) ++
    Machine.toLE 4 t.req.toNat ++
    (if t.ext then Machine.toLE 8 (t.off.toNat % 2 ^ 47 + 2 ^ 47 * t.op.toNat) ++ Machine.toLE 8 t.time.toNat else []) ++ t.payload

end Sys2Proof

namespace Sys2Proof.Machine

/-! ### Port registers (R350) -/

/-- Offset of port `p`'s register. -/
def fabp (p o : Nat) : Nat := 0x51000 + 0x100 * p + o

/-- The states of R348. -/
def pDown : Nat := 0
def pTraining : Nat := 1
def pUp : Nat := 2
def pRetrain : Nat := 3
def pFailed : Nat := 4
def pMiswired : Nat := 5

def State.pstat (s : State) (p : Nat) : Nat := s.rfld (fabp p 0) 0 3
def State.port (s : State) (p : Nat) : Port := AMap.get Port.reset s.ports p
def State.setPort (s : State) (p : Nat) (x : Port) : State := { s with ports := AMap.put s.ports p x }
def State.modPort (s : State) (p : Nat) (f : Port → Port) : State := s.setPort p (f (s.port p))

/-- Credits that port `p` may spend in class `v`; the credits of a class. -/
def State.avail (s : State) (p v : Nat) : Nat := s.rfld (fabp p (0x40 + 8 * v)) 0 16
def State.setAvail (s : State) (p v x : Nat) : State := s.setRfld (fabp p (0x40 + 8 * v)) 0 16 x
def State.credSize (s : State) (p v : Nat) : Nat := s.rfld (fabp p (0x40 + 8 * v)) 32 16

/-! ### Routes (R360, R362, R363) -/

/-- Coordinate `i` of a device ID. -/
def devCoord (id i : Nat) : Nat := if i = 3 then id / 4096 % 32 else id / 16 ^ i % 16

/-- Size of dimension `i`. -/
def State.dimSize (s : State) (i : Nat) : Nat := 1 + if i = 3 then s.rfld 0x50008 12 5 else s.rfld 0x50008 (4 * i) 4

/-- Every coordinate of an ID lies in the torus (R361). -/
def State.idUsed (s : State) (id : Nat) : Bool := (List.range 4).all (fun i => devCoord id i < s.dimSize i)

/-- The direction from `cur` to `dst` in a ring of size `n` of dimension `i`; none where they agree. -/
def ringDir (i cur dst n : Nat) : Option Nat :=
  let d := (dst + n - cur) % n
  if d = 0 then none else some (2 * i + if d ≤ n - d then 0 else 1)

/-- The direction in which an item for a device leaves this one. -/
def State.hopDir (s : State) (dst : Nat) : Option Nat :=
  (List.range 4).findSome? (fun i => ringDir i (devCoord s.devid i) (devCoord dst i) (s.dimSize i))

/-- The link of a direction crosses the dateline of its ring. -/
def State.crosses (s : State) (dir : Nat) : Bool :=
  let cur := devCoord s.devid (dir / 2)
  if dir % 2 = 0 then cur + 1 == s.dimSize (dir / 2) else cur == 0

/-- The ports of a direction's mask; those of them that are `UP`. -/
def State.dirMask (s : State) (d : Nat) : List Nat := (List.range 16).filter (fun p => (s.rfld (0x50040 + 8 * d) 0 16).testBit p)
def State.dirUp (s : State) (d : Nat) : List Nat := (s.dirMask d).filter (fun p => s.pstat p == pUp)

/-- The ports that a direction's items are spread over: those in `UP` (R363). Where none is, an item waits at a port that
retrains (DESIGN CHOICE, log 94). -/
def State.dirPorts (s : State) (d : Nat) : List Nat :=
  match s.dirUp d with
  | [] => (s.dirMask d).filter (fun p => s.pstat p == pRetrain)
  | ups => ups

/-- The port and the direction for an item to `dst` from origin core `core`, with a request's offset; none where no route
exists. -/
def State.route (s : State) (dst core off : Nat) : Option (Nat × Nat) :=
  if !s.idUsed dst then none
  else
    match s.hopDir dst with
    | none => none
    | some d =>
      let ups := s.dirPorts d
      (ups[(core + off / 4096) % ups.length]?).map (fun p => (p, d))

/-- This device is the time source (R377). -/
def State.isSource (s : State) : Bool := s.devid == s.rfld 0x50028 0 17

/-! ### Items (R353, R354) -/

/-- The thread, and the stream channel, of a request, 0 for none. -/
def State.orgThr (s : State) : RemOrigin → BitVec 2
  | .acc c id => match (s.core c).mem.accs.find? (fun a => a.id == id) with | some a => a.thr | none => 0
  | .eline c _ id _ => match (s.core c).mem.accs.find? (fun a => a.id == id) with | some a => a.thr | none => 0
  | .line _ t _ | .poll _ t | .write _ t | .send _ t => t
  | _ => 0
def RemOrigin.stream : RemOrigin → BitVec 3
  | .chanRead _ ch | .chanWrite _ ch _ | .chanEntry _ ch _ | .post _ ch _ => ch
  | _ => 0

/-- What the request with an identifier serves. -/
def State.reqOrg (s : State) (req : Nat) : Option RemOrigin := (s.remReqs.find? (fun q => q.id == req)).map RemReq.org

/-- An item of this device for another, with its request. -/
def State.ownItem (s : State) (ty : BitVec 4) (chan : BitVec 3) (req core dst off : Nat) (op : BitVec 17) (time : W64)
    (payload : List Byte) : Transit where
  ty := ty
  chan := chan
  dl := false
  dst := BitVec.ofNat 17 dst
  org := BitVec.ofNat 17 s.devid
  core := BitVec.ofNat 10 core
  cc := false
  thr := ((s.reqOrg req).map s.orgThr).getD 0
  stream := ((s.reqOrg req).map RemOrigin.stream).getD 0
  req := BitVec.ofNat 32 req
  off := BitVec.ofNat 64 off
  op := op
  time := time
  payload := payload

/-- An answer to a request: its origin core, thread and offset are the request's (R363). -/
def State.replyItem (s : State) (ty : BitVec 4) (chan : BitVec 3) (r : RemIn) (payload : List Byte) : Transit where
  ty := ty
  chan := chan
  dl := false
  dst := r.dev
  org := BitVec.ofNat 17 s.devid
  core := r.core
  cc := r.cc
  thr := r.thr
  stream := r.stream
  req := r.req
  off := r.off
  op := 0
  time := 0
  payload := payload

/-- The channels of R353. -/
def chCtrl : BitVec 3 := 1
def chReq : BitVec 3 := 2
def chRsp : BitVec 3 := 3
def chBulk : BitVec 3 := 4

/-- Pieces of 256 bytes of a post, at least one. -/
def pieces (n : Nat) (bs : List Byte) : List (List Byte) :=
  (List.range (max 1 ((n + 255) / 256))).map (fun i => (bs.drop (256 * i)).take 256)

/-- The items on the link of an item that this device sends: one, or those of a post. Contents that R354 does not lay out
are free; the lengths of the payloads of `ANSWER`, `ERR` and `BAR` are DESIGN CHOICE, log 121. -/
def State.wires (s : State) : FabItem → List Transit
  | .read q c b g len =>
    [s.ownItem 1 (if b then chBulk else chReq) q c (g.toNat / 2 ^ 47) (g.toNat % 2 ^ 47) (Config.readOp len) s.devtime []]
  | .write q c b g bs =>
    [s.ownItem 2 (if b then chBulk else chReq) q c (g.toNat / 2 ^ 47) (g.toNat % 2 ^ 47) 0 s.devtime bs]
  | .amo q c g op w32 opnd exp =>
    [s.ownItem 3 chReq q c (g.toNat / 2 ^ 47) (g.toNat % 2 ^ 47) (Config.amoOp op w32) s.devtime
      (toLE (if op = 9 ∧ !w32 then 16 else 8) (Config.amoData op w32 opnd exp).toNat)]
  | .msg q c d dst m =>
    [s.ownItem 5 chCtrl q c d 0 0 m.time (toLE 8 (Config.msgHeader dst m.header).toNat ++ m.words.flatMap (fun w => toLE 4 w.toNat))]
  | .post q c _ tag time g bs =>
    let ps := pieces bs.length bs
    (List.range ps.length).map (fun i =>
      s.ownItem 4 chBulk q c (g.toNat / 2 ^ 47) (g.toNat % 2 ^ 47) (Config.postOp tag i) time (ps.getD i []))
  | .data r bs => [s.replyItem 8 (if r.bulk then chBulk else chRsp) r bs]
  | .ack r => [s.replyItem 9 chRsp r []]
  | .err r code => [s.replyItem 10 chRsp r (toLE 1 code.toNat)]
  | .answer r acc => [s.replyItem 6 chCtrl r (toLE 1 (Config.answerByte acc).toNat)]
  | .bar d g k par =>
    let n := match k with | .complete => 0 | .release => 1 | .timeout => 2 | .broken => 3
    [{ s.ownItem 7 chCtrl 0 0 d 0 0 0 (toLE 8 (Config.barWord g n par).toNat) with cc := true, thr := 0, stream := 0 }]

/-- Destination, origin core and offset of an item of this device (R363); an answer takes the core and offset of its
request. -/
def FabItem.goal : FabItem → Nat × Nat × Nat
  | .read _ c _ g _ => (g.toNat / 2 ^ 47, c, g.toNat % 2 ^ 47)
  | .write _ c _ g _ => (g.toNat / 2 ^ 47, c, g.toNat % 2 ^ 47)
  | .amo _ c g _ _ _ _ => (g.toNat / 2 ^ 47, c, g.toNat % 2 ^ 47)
  | .msg _ c d _ _ => (d, c, 0)
  | .post _ c _ _ _ g _ => (g.toNat / 2 ^ 47, c, g.toNat % 2 ^ 47)
  | .data t _ => (t.dev.toNat, t.core.toNat, t.off.toNat)
  | .ack t => (t.dev.toNat, t.core.toNat, t.off.toNat)
  | .err t _ => (t.dev.toNat, t.core.toNat, t.off.toNat)
  | .answer t _ => (t.dev.toNat, t.core.toNat, t.off.toNat)
  | .bar d _ _ _ => (d, 0, 0)

/-- Credits that an item of a number of bytes spends. -/
def credits (bytes : Nat) : Nat := (bytes + 63) / 64

/-! ### Which item starts (R353) -/

/-- Output priority of a credit class. -/
def clsPrio (v : Nat) : Nat := if v = 0 then 1 else if v ≤ 2 then 2 else if v = 5 ∨ v = 6 then 3 else 4

/-- Flits sent and not yet acknowledged. -/
def Port.unacked (x : Port) : Nat := (x.txSeq + 4096 - x.txAck) % 4096

/-- The first item of each class that has not started, and whose credits are available. -/
def State.readyOut (s : State) (p : Nat) : List Queued :=
  (List.range 9).filterMap (fun v =>
    match (s.port p).queue.find? (fun q => q.cls == v) with
    | some q => if credits q.bytes.length ≤ s.avail p v then some q else none
    | none => none)

/-- Of ready items, one of lowest priority number; `REQ` and `BULK` in rotation; among the rest, the one that the port
received first (DESIGN CHOICE, log 122). -/
def State.nextOut (s : State) (p : Nat) : Option Queued :=
  let x := s.port p
  let rs := s.readyOut p
  (List.range 5).findSome? (fun k =>
    let able := x.queue.filter (fun q => rs.contains q && clsPrio q.cls == k)
    (able.filter (fun q => k == 4 && (q.cls ≤ 4) != x.lastReq) ++ able)[0]?)

/-- An item starts into a flit, and spends its credits. -/
def State.startItem (s : State) (p : Nat) (q : Queued) : State :=
  (s.setAvail p q.cls (s.avail p q.cls - credits q.bytes.length)).modPort p (fun x => { x with
    queue := x.queue.erase q
    begun := x.begun ++ [{ q with todo := x.out.length + q.bytes.length }]
    out := x.out ++ q.bytes
    lastReq := if clsPrio q.cls = 4 then q.cls ≤ 4 else x.lastReq })

/-- Items start until a flit is full, `fuel` of them at most. -/
def State.fill (s : State) (p : Nat) : Nat → State
  | 0 => s
  | fuel + 1 =>
    if 244 ≤ (s.port p).out.length then s
    else
      match s.nextOut p with
      | none => s
      | some q => (s.startItem p q).fill p fuel

/-! ### Flits (R347, R351) -/

/-- The bytes of a flit. -/
def flitBytes (seq : Nat) (ctl : Bool) (ack : Nat) (nak : Bool) (cls cret : Nat) (items : List Byte) : List Byte :=
  let b := toLE 2 (seq + 2 ^ 12 * ctl.toNat) ++ toLE 2 (ack + 2 ^ 12 * nak.toNat) ++ toLE 4 (cls + 16 * cret) ++ items
  b ++ toLE 4 (crc32c b).toNat

/-- The last number received good. -/
def Port.rxGood (x : Port) : Nat := (x.rxSeq + 4095) % 4096

/-- A flit leaves a port. -/
def State.emit (s : State) (p : Nat) (bs : List Byte) : State :=
  { s.modPort p (fun x => { x with lastTx := s.elapsed }) with kflOut := s.kflOut ++ [(p, bs)] }

/-- A flit of the replay buffer leaves, with the acknowledgement of now. -/
def State.sendKept (s : State) (p : Nat) (k : Kept) : State :=
  s.emit p (flitBytes k.seq false (s.port p).rxGood false k.cls k.cret k.items)

/-- A link-control flit leaves: it takes no number, and its `SEQ` is the next one (DESIGN CHOICE, log 122). -/
def State.sendControl (s : State) (p : Nat) (nak : Bool) : State :=
  let x := s.port p
  { s.emit p (flitBytes x.txSeq true x.rxGood nak 0 0 (toLE 244 (Config.linkControl s.free).toNat)) with free := s.free + 1 }

/-- A `TIME` link-control flit leaves: it carries the `DEVTIME` at which it does (R377). -/
def State.sendTime (s : State) (p : Nat) : State :=
  let x := s.port p
  (s.emit p (flitBytes x.txSeq true x.rxGood false 0 0 (toLE 244 (Config.timeFlit s.devtime).toNat))).modPort p (fun x =>
    { x with timeTx := some s.devtime })

/-- The class and the number of the credits that the next flit returns: of the lowest class that owes some (DESIGN CHOICE,
log 122). -/
def Port.returns (x : Port) : Nat × Nat :=
  match (List.range 9).find? (fun v => AMap.get 0 x.owed v ≠ 0) with
  | some v => (v, min 1023 (AMap.get 0 x.owed v))
  | none => (0, 0)

/-- A started item after the flit with number `n`. -/
def Queued.after (q : Queued) (n : Nat) : Queued :=
  if q.last.isSome then q else if q.todo ≤ 244 then { q with last := some n } else { q with todo := q.todo - 244 }

/-- The next flit of items and credits is formed, kept, and leaves. -/
def State.sendNext (s : State) (p : Nat) : State :=
  let x := s.port p
  let r := x.returns
  let k : Kept := ⟨x.txSeq, r.1, r.2, x.out.take 244 ++ List.replicate (244 - x.out.length) 0⟩
  (s.setPort p { x with
    out := x.out.drop 244
    begun := x.begun.map (fun q => q.after x.txSeq)
    kept := x.kept ++ [k]
    txSeq := (x.txSeq + 1) % 4096
    owed := AMap.put x.owed r.1 (AMap.get 0 x.owed r.1 - r.2) }).sendKept p k

/-- The port sends flits while it may: 256 unacknowledged ones stop it. -/
def State.pump (s : State) (p : Nat) : Nat → State
  | 0 => s
  | fuel + 1 =>
    if s.pstat p ≠ pUp ∨ 256 ≤ (s.port p).unacked then s
    else
      let s := s.fill p (s.port p).queue.length
      if (s.port p).out = [] ∧ (s.port p).returns.2 = 0 then s else (s.sendNext p).pump p fuel

/-- The port sends everything that it may. -/
def State.pumpAll (s : State) (p : Nat) : State := s.pump p 256

/-- Items join a port. -/
def State.portTake (s : State) (p : Nat) (i : PortItem) (ws : List Transit) : State :=
  (s.modPort p (fun x => { x with queue := x.queue ++ ws.map (fun w => ⟨i, w.cls, w.bytes, 0, none⟩) })).pumpAll p

/-- The request of an item of this device. -/
def FabItem.req? : FabItem → Option Nat
  | .read q .. | .write q .. | .amo q .. | .msg q .. | .post q .. => some q
  | _ => none

/-- An item of this device leaves for another one. Where no route exists, this device answers its origin with `NOROUTE`
(R361), at the core's next slot (`State.ownErrors`). -/
def State.fabSend (s : State) (i : FabItem) : State :=
  let s := { s with fabOut := s.fabOut ++ [i] }
  let (dst, core, off) := i.goal
  match s.route dst core off with
  | some (p, d) => s.portTake p (.own i) ((s.wires i).map (fun w => { w with dl := s.crosses d }))
  | none => { s with unrouted := s.unrouted ++ i.req?.toList.map (fun q => (q, 3)) }

end Sys2Proof.Machine
end

