-- ==== Sys2Proof/Machine/Accs.lean ====
section
/-!
DEFINITION. Accesses in flight: their order (R218-R220), the network interface (R173), the data cache (R222-R226), and
injection.
-/
namespace Sys2Proof.Machine

/-! ### Order -/

/-- The access writes memory; reads a value for its thread. -/
def Acc.writes (a : Acc) : Bool :=
  match a.kind with | .store _ _ => true | .amo _ _ _ _ _ => true | .lines w _ => w | .vst _ _ => true | _ => false
def Acc.reads (a : Acc) : Bool :=
  match a.kind with | .load .. => true | .amo .. => true | .waitm => true | _ => false

/-- It is made by its own events alone: nothing else brings it forward. -/
def Acc.alone (a : Acc) : Bool :=
  match a.kind with | .collect => true | .lines _ _ => true | _ => false

/-- The access goes to another device. -/
def Acc.isRemote (a : Acc) : Bool := match a.place with | .remote _ => true | .here _ => false

/-- Two ranges of one space share a byte. -/
def overlaps (s1 : Space) (lo1 len1 : Nat) (s2 : Space) (lo2 len2 : Nat) : Bool :=
  s1 == s2 && lo1 < lo2 + len2 && lo2 < lo1 + len1

/-- The 64-bit destination element width code and the source width of a descriptor (R162-R163). -/
def dField (d : BitVec 256) (byte n : Nat) : Nat := fld d (8 * byte) (8 * n)
def dCtrl (d : BitVec 256) : BitVec 16 := BitVec.ofNat 16 (dField d 24 2)
def dSw (d : BitVec 256) : Nat := fld (dCtrl d) 0 2 + 1
def dDw (d : BitVec 256) : Nat := 2 ^ fld (dCtrl d) 2 2
def dSbl (d : BitVec 256) : Bool := (dCtrl d).getLsbD 8
def dDbl (d : BitVec 256) : Bool := (dCtrl d).getLsbD 9
def dCount (d : BitVec 256) : Nat := dField d 16 4

/-- The scoreboard space and position that a flat stream address names (R219, R269). -/
def flatSpace (c addr : Nat) : Space × Nat :=
  if addr < 0x80000 then (.lm c, addr)
  else if 2 ^ 48 ≤ addr then (.glob (addr / 2 ^ 47), addr % 2 ^ 47)
  else if inLm addr then (.lm ((addr - lmBase) / 0x100000), addr % 0x100000)
  else (.virt, addr)

/-- Descriptor `d` of core `c` holds an access of the core until it completes (R219). -/
def descHolds (c : Nat) (d : BitVec 256) (sp : Space) (lo len : Nat) (write : Bool) : Bool :=
  let on (addr n : Nat) : Bool := let f := flatSpace c addr; overlaps f.1 f.2 n sp lo len
  let src := dField d 0 8
  let dst := dField d 8 8
  (if dSbl d then write && (sp == .virt || on src (16 * dField d 20 2))
   else write && on src (dCount d * dSw d)) ||
  (if dDbl d then sp == .virt || (write && on dst (16 * dField d 22 2)) else on dst (dCount d * dDw d))

/-- Some channel's list, started before access number `id`, holds the range (R219). -/
def Core.chanHolds (k : Core) (c id : Nat) (sp : Space) (lo len : Nat) (write : Bool) : Bool :=
  k.ch.toList.any (fun h =>
    (h.state == .running || h.state == .stopping) && h.since ≤ id &&
      (h.store.drop h.didx).any (fun d => descHolds c d sp lo len write))

/-- Access `b` has a byte of a range. -/
def Acc.over (b : Acc) (sp : Space) (lo len : Nat) : Bool :=
  overlaps b.space b.lo b.len sp lo len ||
    (match b.kind with
      | .lines _ more => more.any (fun m => overlaps m.1 m.2.1 m.2.2 sp lo len)
      | .vst ls _ => ls.any (fun p => overlaps p.2.space p.2.lo 64 sp lo len)
      | _ => false)

/-- Earlier access `b` of the core holds back a later access of the range (R218). -/
def Acc.holds (b : Acc) (sp : Space) (lo len : Nat) (write : Bool) : Bool :=
  b.over sp lo len &&
    (match b.kind with
      | .store _ _ => true
      | .lines true _ => true
      | .vst _ _ => true
      | .amo _ _ _ _ _ => !b.performed
      | _ => write && !b.performed)

/-- An access of the core that was issued before number `id`, or a channel's list, holds back an access of the range
(R218, R219). -/
def Core.heldBack (k : Core) (c id : Nat) (sp : Space) (lo len : Nat) (write : Bool) : Bool :=
  k.mem.accs.any (fun b => b.id < id && b.holds sp lo len write) || k.chanHolds c id sp lo len write

/-- The descriptors of a list that is still to be read, from memory as it stands; none for one that another device holds,
and none at all where the list cannot be read. -/
def State.listNow (s : State) (c : Nat) (user : Bool) (list n : W64) : List (Option (BitVec 256)) :=
  (List.range (min n.toNat 16)).filterMap (fun i =>
    match (s.resolve c (list + BitVec.ofNat 64 (32 * i)) .read user).2 with
    | .ok ⟨.here pa, _, _⟩ => some (some (BitVec.ofNat 256 (ofLE (Memory.readBytes s.mem pa 32))))
    | .ok ⟨.remote _, _, _⟩ => some none
    | .error _ => none)

/-- A thread's `SDESC POST` that was issued before number `id` and has not loaded its channel's store holds back an access of
the range (R219): the ranges that it holds are those of the descriptors that it will read, and all, of one that has not come
from another device yet (DEDUCED, log 129). -/
def State.postHolds (s : State) (c id : Nat) (x : Thread) (sp : Space) (lo len : Nat) (write : Bool) : Bool :=
  let held (d : Option (BitVec 256)) : Bool := match d with | some d => descHolds c d sp lo len write | none => true
  match x.wait with
  | some (.sdesc seq _ list n false) => seq < id && (s.listNow c (!x.sup) list n).any held
  | some (.gather seq (.sdesc _ _ _) ls _ _) => seq < id && ls.any (fun b => held (b.map (fun b => BitVec.ofNat 256 (ofLE b))))
  | _ => false

/-- Something of core `c` that was issued before number `id` holds back an access of the range (R218, R219). -/
def State.orderHeld (s : State) (c id : Nat) (sp : Space) (lo len : Nat) (write : Bool) : Bool :=
  (s.core c).heldBack c id sp lo len write || (s.core c).thr.toList.any (fun x => s.postHolds c id x sp lo len write)

/-- Some place of the lines is in tier 2. -/
def linesInTier2 (ls : List (W64 × Resolved)) : Bool :=
  ls.any (fun p => match p.2.place with | .here pa => inTier2 pa | .remote _ => false)

/-- The access may still raise an exception: a read whose value has not arrived, a write to a tier 2 port that may go out
of service before it is performed (R288), or one that has failed. -/
def Acc.mayRaise (b : Acc) : Bool :=
  !b.orphan && (b.err.isSome || b.reads ||
    (!b.performed && (match b.kind, b.place with
      | .store _ _, .here pa => inTier2 pa
      | .vst ls _, _ => linesInTier2 ls
      | _, _ => false)))

/-- A queued matrix, vector instruction may still raise an exception. -/
def MKind.mayRaise (q : MKind) : Bool := match q with | .tmma .. => true | .mem .. => true | _ => false
def VKind.mayRaise (q : VKind) : Bool := match q with | .vld .. => true | .vst .. => true | _ => false

/-- An instruction of the thread before number `n` may still raise an exception, so that a write may not be performed
yet (R98): an access, or an instruction of an engine. -/
def Core.unsettled (k : Core) (t : BitVec 2) (n : Nat) : Bool :=
  k.mem.accs.any (fun b => b.thr == t && b.n < n && b.mayRaise) ||
    k.mx.queue.any (fun q => q.thr == t && q.n < n && q.kind.mayRaise) ||
    k.vx.queue.any (fun q => q.thr == t && q.n < n && q.kind.mayRaise)

/-- Position of the first `TFIN` of the queue that finds the finished-tile queue full, the entries of those before it
counted: it waits for space (R120). -/
def Matrix.fullAt (m : Matrix) : Option Nat :=
  (m.queue.zipIdx.find? (fun p => (match p.1.kind with | .tfin .. => true | _ => false) &&
    4 ≤ m.ftq.length + (m.queue.take p.2).countP (fun q => match q.kind with | .tfin .. => true | _ => false))).map Prod.snd

/-- Instructions of the queue that have not taken full effect, with their positions: all but the `TFIN`s that wait for space,
which nothing of their thread waits for but what frees it (DESIGN CHOICE, log 130). -/
def Matrix.open (m : Matrix) : List (MOp × Nat) :=
  m.queue.zipIdx.filter (fun p => !((match p.1.kind with | .tfin .. => true | _ => false) &&
    (match m.fullAt with | some i => i ≤ p.2 | none => false)))

/-- An instruction of the thread before number `n` that it issued to an engine has not taken full effect. -/
def Core.engineOpen (k : Core) (t : BitVec 2) (n : Nat) : Bool :=
  k.mx.open.any (fun p => p.1.thr == t && p.1.n < n) || k.vx.queue.any (fun q => q.thr == t && q.n < n)

/-- An `ST.REL` waits until every earlier access of its thread on this device is complete (R227). -/
def Core.relWaits (k : Core) (a : Acc) : Bool :=
  a.rel && k.mem.accs.any (fun b => b.thr == a.thr && b.id < a.id && !(b.isRemote && b.writes && !b.reads))

/-- The access is at its home: it has left the core and nothing of the core holds it back. -/
def State.atHome (s : State) (c : Nat) (a : Acc) : Bool :=
  a.injected && !a.performed && !s.orderHeld c a.id a.space a.lo a.len a.writes &&
    (!a.writes || !(s.core c).unsettled a.thr a.n) && !(s.core c).relWaits a

/-- Banks of LM (R155). -/
def lmBank (off : Nat) : Nat := off / 64 % 16

/-- An earlier access of the core's threads to the bank of its own LM that an access is for waits there: it is not
overtaken (R156-R157). -/
def State.bankWaits (s : State) (c : Nat) (a : Acc) : Bool :=
  isOwnLm a.ea && (s.core c).mem.accs.any (fun b =>
    b.id < a.id && isOwnLm b.ea && !b.alone && (match b.kind with | .vst _ _ => false | _ => true) &&
      lmBank b.lo == lmBank a.lo && s.atHome c b)

/-! ### The network interface (R173) -/

/-- Slot codes of R173. -/
def slotRead : Nat := 0
def slotWrite : Nat := 1
def slotRemote : Nat := 2
def slotIdle : Nat := 3

/-- The code of slot `i` of the wheel in force. -/
def Core.slot (k : Core) (i : Nat) : Nat := fld k.nisplit (2 * (i % 16)) 2

/-- The wheel in force has a slot of a kind. -/
def Core.hasSlot (k : Core) (kind : Nat) : Bool := (List.range 16).any (fun i => k.slot i == kind)

/-- The kind of slot that a line or beat needs; none for the core's own LM (R173). An access to the own LM through its LM
window is no access of the own-LM form (R270) and takes a slot; R173 does not say so of it (DESIGN CHOICE, log 131). -/
def lineSlot (ea : W64) (p : Place) (write : Bool) : Option Nat :=
  if isOwnLm ea then none
  else match p with
    | .remote _ => some slotRemote
    | .here _ => some (if write then slotWrite else slotRead)

/-- A slot of its kind is in the wheel for a line or beat (R173). -/
def Core.slotIn (k : Core) (ea : W64) (p : Place) (write : Bool) : Bool :=
  match lineSlot ea p write with
  | some i => k.hasSlot i
  | none => true

/-- The access may be performed now: it is at its home, whose memory is clocked (R26), and it is its turn there. The rows of
a `VST` may when that holds of each. -/
def State.mayPerform (s : State) (c : Nat) (a : Acc) : Bool :=
  match a.kind with
  | .vst ls _ =>
    !a.performed && !(s.core c).unsettled a.thr a.n && ls.all (fun p =>
      !s.orderHeld c a.id p.2.space p.2.lo 64 true && (s.core c).slotIn p.1 p.2.place true &&
        (match p.2.place with | .here pa => s.memRuns pa | .remote _ => true))
  | _ =>
    s.atHome c a && !s.bankWaits c a && (match a.place with | .here pa => s.memRuns pa | .remote _ => true)

/-- The kind of slot that an access needs. -/
def Acc.slotKind (a : Acc) : Nat :=
  if a.isRemote then slotRemote else match a.kind with | .store _ _ => slotWrite | _ => slotRead

/-- One injection of a kind counted (R401). -/
def Core.countSlot (k : Core) (kind : Nat) : Core :=
  { k with cnt :=
    if kind = slotRead then { k.cnt with pcNird := k.cnt.pcNird + 1 }
    else if kind = slotWrite then { k.cnt with pcNiwr := k.cnt.pcNiwr + 1 }
    else if kind = slotRemote then { k.cnt with pcNirem := k.cnt.pcNirem + 1 }
    else { k.cnt with pcNiidle := k.cnt.pcNiidle + 1 } }

/-- Access `id` of core `c`, if it is in flight. -/
def Core.acc? (k : Core) (id : Nat) : Option Acc := k.mem.accs.find? (fun a => a.id == id)

/-- The core with an access replaced; removed. -/
def Core.setAcc (k : Core) (a : Acc) : Core :=
  { k with mem := { k.mem with accs := k.mem.accs.map (fun b => if b.id = a.id then a else b) } }
def Core.dropAcc (k : Core) (id : Nat) : Core :=
  { k with mem := { k.mem with accs := k.mem.accs.filter (fun b => b.id != id) } }

/-! ### The data cache (R222-R226) -/

/-- The line of a place; none where the place is not cached: only tier memory and other devices are. -/
def lineOf : Place → Option Place
  | .here pa => if inLm pa then none else some (.here (pa / 64 * 64))
  | .remote g => some (.remote (BitVec.ofNat 64 (g.toNat / 64 * 64)))

/-- Position of a place within its line. -/
def lineOff : Place → Nat
  | .here pa => pa % 64
  | .remote g => g.toNat % 64

/-- The valid line that an access by an effective address to a place hits: one filled by the same address. -/
def Core.line? (k : Core) (ea : Nat) (p : Place) : Option DLine :=
  match lineOf p with
  | some l => k.mem.dcache.find? (fun d => d.place == l && d.ea == ea / 64 * 64)
  | none => none

/-- Invalidate the lines that a predicate names, and keep fills in flight for them from being installed (R224). -/
def Core.invalidate (k : Core) (f : Place → Bool) : Core :=
  { k with mem := { k.mem with
      dcache := k.mem.dcache.filter (fun d => !f d.place)
      accs := k.mem.accs.map (fun a => match lineOf a.place with
        | some l => if f l then { a with fill := false } else a
        | none => a) } }

/-- Invalidate the lines whose effective address a predicate names (R225-R226). -/
def Core.invalidateEa (k : Core) (f : Nat → Bool) : Core :=
  { k with mem := { k.mem with
      dcache := k.mem.dcache.filter (fun d => !f d.ea)
      accs := k.mem.accs.map (fun a => if f a.ea.toNat then { a with fill := false } else a) } }

/-- The lines that `len` bytes from a place touch. -/
def touches (p : Place) (len : Nat) (l : Place) : Bool :=
  match p, l with
  | .here a, .here b => a < b + 64 && b < a + len
  | .remote a, .remote b => a.toNat < b.toNat + 64 && b.toNat < a.toNat + len
  | _, _ => false

/-- A scalar store of the core updates the valid lines of its bytes (R222), and no fill that may have been read before it
is installed (R223). -/
def Core.updateLine (k : Core) (p : Place) (size : Nat) (data : W64) : Core :=
  match lineOf p with
  | some l => { k with mem := { k.mem with
      dcache := k.mem.dcache.map (fun d =>
        if d.place = l then { d with bytes := setFld d.bytes (8 * lineOff p) (8 * size) data.toNat } else d)
      accs := k.mem.accs.map (fun a => if lineOf a.place = some l then { a with fill := false } else a) } }
  | none => k

/-- A fetched line is installed; a full cache replaces a line that the spec leaves open (`Config.victim`), and a fill in
flight for the line replaced is not installed (R224). -/
def Core.install (k : Core) (free : Nat) (l : Place) (ea : Nat) (bytes : BitVec 512) : Core :=
  let others := k.mem.dcache.filter (fun d => !(d.place == l && d.ea == ea / 64 * 64))
  let gone := if others.length < 512 then none else others[Config.victim free % 512]?
  let kept := if others.length < 512 then others else others.eraseIdx (Config.victim free % 512)
  { k with mem := { k.mem with
      dcache := kept ++ [⟨l, ea / 64 * 64, bytes⟩]
      accs := match gone with
        | some d => k.mem.accs.map (fun a =>
          if lineOf a.place = some d.place ∧ a.ea.toNat / 64 * 64 = d.ea then { a with fill := false } else a)
        | none => k.mem.accs } }

/-! ### Injection (R173-R174) -/

/-- A request to another device is sent and waits for its answer (R370). -/
def State.sendReq (s : State) (org : RemOrigin) (addr : W64) (item : Nat → FabItem) : State :=
  let r : RemReq := ⟨s.nextReq, org, addr, s.elapsed⟩
  let s' : State := { s with remReqs := s.remReqs ++ [r], nextReq := s.nextReq + 1 }
  s'.fabSend (item s.nextReq)

/-- A posted write of a thread to another device (R231): outstanding until it is answered. -/
def State.postRemote (s : State) (c : Nat) (t : BitVec 2) (ea gfa : W64) (bs : List Byte) : State :=
  let id := s.nextReq
  (s.sendReq (.write c t) ea (fun i => .write i c false gfa bs)).modCore c
    (fun k => { k with mem := { k.mem with remOut := k.mem.remOut ++ [⟨id, t, ea⟩] } })

/-- Access `a` enters the memory network (R173). A write to another device is then complete for the scoreboard
(R217); other remote accesses wait for their answer. -/
def State.inject (s : State) (c : Nat) (a : Acc) : State :=
  let s := s.modCore c (fun k => (k.countSlot a.slotKind).setAcc { a with injected := true })
  match a.place, a.kind with
  | .remote gfa, .store size data =>
    (s.modCore c (fun k => (k.dropAcc a.id).updateLine a.place size data)).postRemote c a.thr a.ea gfa (toLE size data.toNat)
  | .remote gfa, .amo _ op w32 opnd exp =>
    let id := s.nextReq
    (s.sendReq (.acc c a.id) a.ea (fun i => .amo i c gfa op w32 opnd exp)).modCore c
      (fun k => { k with mem := { k.mem with remOut := k.mem.remOut ++ [⟨id, a.thr, a.ea⟩] } })
  | .remote gfa, .load _ _ _ true _ =>
    s.sendReq (.acc c a.id) a.ea (fun i => .read i c false (BitVec.ofNat 64 (gfa.toNat / 64 * 64)) 64)
  | .remote gfa, _ => s.sendReq (.acc c a.id) a.ea (fun i => .read i c false gfa a.len)
  | .here _, _ => s

/-- Read requests of core `c` that await their answer (R174): its scalar accesses, and the lines, beats and entries that
other devices hold. -/
def State.readsOut (s : State) (c : Nat) : Nat :=
  (s.core c).mem.accs.countP (fun a => a.injected && a.reads && !isOwnLm a.ea) +
    s.remReqs.countP (fun q => match q.org with
      | .line d _ _ => d == c
      | .eline d _ _ _ => d == c
      | .poll d _ => d == c
      | .chanRead d _ => d == c
      | .chanEntry d _ _ => d == c
      | .chanOld d _ _ read => d == c && read
      | _ => false)

/-- Core `c` has a free response entry for a read request (R174). -/
def State.readRoom (s : State) (c : Nat) : Bool := s.readsOut c < 64

/-- The access may enter the network now: not yet in it, with a response entry for a read (R174); a posted write or
remote atomic waits as a write does (R98, R218). -/
def State.mayInject (s : State) (c : Nat) (a : Acc) : Bool :=
  let k := s.core c
  !a.injected && k.hasSlot a.slotKind && (!a.reads || s.readRoom c) &&
    (!(a.isRemote && a.writes) ||
      (!k.unsettled a.thr a.n && !s.orderHeld c a.id a.space a.lo a.len true && !k.relWaits a)) &&
    (!(a.isRemote && a.reads) || !s.orderHeld c a.id a.space a.lo a.len a.writes)

/-- A new access of the thread issues: it takes the next number and an entry of the scoreboard (R217). -/
def Core.addAcc (k : Core) (a : Acc) : Core :=
  { k with mem := { k.mem with
      accs := k.mem.accs ++ [a]
      nextId := k.mem.nextId + 1
      peak := max k.mem.peak (k.mem.accs.length + 1) } }

end Sys2Proof.Machine
end

