-- ==== Sys2Proof/Machine/Lines.lean ====
section
/-!
DEFINITION. Lines of 64 bytes, or 32 in a descriptor list, that one instruction moves (R85, R123, R217): what each
resolves to, the entry of the scoreboard that bounds them, their slots (R173-R174), and their reads and writes.
-/
namespace Sys2Proof.Machine

/-! ### Lines -/

/-- One line of a multi-row access, of 64 bytes, or 32 in a descriptor list: its effective address, and the address that an exception of it reports. -/
structure RowLine where
  ea : W64
  report : W64

/-- The lines of `rows` rows, each of `per` lines, from a base at a stride (R85). -/
def rowLines (base stride : W64) (rows per : Nat) : List RowLine :=
  (List.range rows).flatMap (fun r =>
    let row := base + BitVec.ofNat 64 r * stride
    (List.range per).map (fun i => ⟨row + BitVec.ofNat 64 (64 * i), row⟩))

/-- A line of core `c` resolved, or its exception. -/
def State.resolveLine (s : State) (c : Nat) (need : Need) (user : Bool) (len : Nat) (l : RowLine) :
    State × Except Exc (W64 × Resolved) :=
  if l.ea.toNat % len ≠ 0 then (s, .error { code := excAlign, stval := l.report })
  else
    match s.resolve c l.ea need user with
    | (s, .error e) => (s, .error { e with stval := l.report })
    | (s, .ok r) => (s, .ok (l.ea, r))

/-- The first row that is misaligned or fails to resolve raises; else the resolved lines (R123). -/
def State.resolveLines (s : State) (c : Nat) (need : Need) (user : Bool) (len : Nat) :
    List RowLine → State × Except Exc (List (W64 × Resolved))
  | [] => (s, .ok [])
  | l :: ls =>
    match s.resolveLine c need user len l with
    | (s, .error e) => (s, .error e)
    | (s, .ok r) =>
      match s.resolveLines c need user len ls with
      | (s, .ok rs) => (s, .ok (r :: rs))
      | (s, .error e) => (s, .error e)

/-- The exception that comes first in the order of R99, the earlier of equals. -/
def firstExc (a : Option Exc) (b : Exc) : Exc :=
  match a with
  | some e => if e.rank ≤ b.rank then e else b
  | none => b

/-- The exceptions that an area's lines raise, of which the first in the order of R99 counts (R103, R160). A line in
another address space than the area's base lies out of bounds. -/
def State.areaExc (s : State) (c : Nat) (need : Need) (user : Bool) (len : Nat) (base : W64) (acc : Option Exc) :
    List RowLine → State × Option Exc
  | [] => (s, acc)
  | l :: ls =>
    if (flatSpace c l.ea.toNat).1 ≠ (flatSpace c base.toNat).1 then
      s.areaExc c need user len base (some (firstExc acc { code := excAccess, stval := l.report })) ls
    else
      match s.resolveLine c need user len l with
      | (s, .error e) => s.areaExc c need user len base (some (firstExc acc e)) ls
      | (s, .ok _) => s.areaExc c need user len base acc ls

/-! ### The entry of the scoreboard (R217) -/

/-- A range joined to the ranges of its space. -/
def joinRange (sp : Space) (lo hi : Nat) : List (Space × Nat × Nat) → List (Space × Nat × Nat)
  | [] => [(sp, lo, hi - lo)]
  | (sp', lo', n') :: rs =>
    if sp' = sp then (sp, min lo lo', max hi (lo' + n') - min lo lo') :: rs else (sp', lo', n') :: joinRange sp lo hi rs

/-- In each address space, the one range that bounds the lines of an access there (R217; one for each space where the lines
lie in several: DEDUCED, log 113). -/
def lineRanges (c len : Nat) (ls : List RowLine) : List (Space × Nat × Nat) :=
  ls.foldl (fun rs l => let f := flatSpace c l.ea.toNat; joinRange f.1 f.2 (f.2 + len) rs) []

/-- An access of many lines takes its entry; its number is the core's next. -/
def Core.addLines (k : Core) (c : Nat) (t : BitVec 2) (ls : List RowLine) (len : Nat) (write : Bool) : Core :=
  match lineRanges c len ls with
  | (sp, lo, n) :: more =>
    let x := rget k.thr (tix t)
    k.addAcc { id := k.mem.nextId, thr := t, n := x.n, kind := .lines write more, ea := (ls.head?.map RowLine.ea).getD 0
               place := .here 0, space := sp, lo := lo, len := n, injected := true, performed := false, val := 0
               line := none, fill := false, err := none, snap := x }
  | [] => k

/-! ### Order and slots -/

/-- A slot of its kind is in the wheel for a line or beat, with a response entry for a read (R173-R174). -/
def State.slotFor (s : State) (c : Nat) (ea : W64) (p : Place) (write : Bool) : Bool :=
  match lineSlot ea p write with
  | some i => (s.core c).hasSlot i && (write || s.readRoom c)
  | none => true

/-- The slot that a line or beat takes is counted (R401). -/
def Core.countLine (k : Core) (ea : W64) (p : Place) (write : Bool) : Core :=
  match lineSlot ea p write with | some i => k.countSlot i | none => k

/-- The slots that the lines of this device, and written lines of others, take are counted (R401). -/
def State.countLines (s : State) (c : Nat) (ls : List (W64 × Resolved)) (write : Bool) : State :=
  s.modCore c (fun k => ls.foldl (fun k p =>
    match p.2.place, write with
    | .remote _, false => k
    | pl, _ => k.countLine p.1 pl write) k)

/-! ### Reads -/

/-- Lines at home on this device are read, never through the data cache (R122, R222); those of another device are none.
An uncorrectable line gives its address. -/
def State.readLines (s : State) (len : Nat) : List (W64 × Resolved) → Except W64 (List (Option (List Byte)))
  | [] => .ok []
  | (ea, r) :: ls =>
    match r.place with
    | .here pa =>
      let x := s.homeRead pa len .good
      if x.2.2 then .error ea
      else match s.readLines len ls with
        | .ok bs => .ok (some x.2.1 :: bs)
        | .error e => .error e
    | .remote _ =>
      match s.readLines len ls with
      | .ok bs => .ok (none :: bs)
      | .error e => .error e

/-- The lines that another device holds: number, address, global fabric address. -/
def remoteLines (i : Nat) : List (W64 × Resolved) → List (Nat × W64 × W64)
  | [] => []
  | (ea, r) :: ls =>
    match r.place with
    | .remote g => (i, ea, g) :: remoteLines (i + 1) ls
    | .here _ => remoteLines (i + 1) ls

/-- A request for one line of another device leaves in a REMOTE slot (R173-R174); `org` is whose it is, by its number. -/
def State.askLine (s : State) (c : Nat) (org : Nat → RemOrigin) (len : Nat) (l : Nat × W64 × W64) : State :=
  (s.modCore c (fun k => k.countSlot slotRemote)).sendReq (org l.1) l.2.1 (fun q => .read q c false l.2.2 len)

/-- The next line that a thread's multi-row read has still to ask for is asked for, where the core has a response entry
(R174). -/
def State.askMore (s : State) (c : Nat) (t : BitVec 2) : State :=
  match (s.thread c t).wait with
  | some (.gather id kind bs (l :: todo) len) =>
    if s.readRoom c then
      (s.askLine c (.line c t) len l).modThread c t (fun x => { x with wait := some (.gather id kind bs todo len) })
    else s
  | _ => s

/-- An engine, the vector one or the matrix one, of a core: the read of other devices' lines that it makes. -/
def Core.gath (k : Core) (vec : Bool) : Option Gather := if vec then k.vx.gath else k.mx.gath
def Core.setGath (k : Core) (vec : Bool) (g : Option Gather) : Core :=
  if vec then { k with vx := { k.vx with gath := g } } else { k with mx := { k.mx with gath := g } }

/-- The next line that the instruction at the head of an engine's queue has still to ask for is asked for (R174). -/
def State.askEngine (s : State) (c : Nat) (vec : Bool) : State :=
  match (s.core c).gath vec with
  | some ⟨id, bs, l :: todo, len⟩ =>
    if s.readRoom c then
      (s.askLine c (.eline c vec id) len l).modCore c (fun k => k.setGath vec (some ⟨id, bs, todo, len⟩))
    else s
  | _ => s

/-! ### Writes -/

/-- The lines are written through to their homes: posted to another device, or performed; the core's own lines of those
bytes are invalidated (R122, R140, R223). -/
def State.writeLines (s : State) (c : Nat) (t : BitVec 2) : List (W64 × Resolved) → List (List Byte) → State
  | (ea, r) :: ls, b :: bs =>
    let s := s.modCore c (fun k => k.invalidate (touches r.place b.length))
    (match r.place with
      | .here pa => s.homeWrite pa b
      | .remote g => s.postRemote c t ea g b).writeLines c t ls bs
  | _, _ => s

/-- Bytes cut into lines of 64. -/
def cutLines (v : Nat) (lines : Nat) : List (List Byte) :=
  (List.range lines).map (fun i => toLE 64 (v >>> (512 * i)))

end Sys2Proof.Machine
end

