-- ==== Sys2Proof/Machine/Perform.lean ====
section
/-!
DEFINITION. Accesses at their homes: performance (R216), arrival and acknowledgement (R217), late exceptions (R98), and
what the device alone brings forward.
-/
namespace Sys2Proof.Machine

/-! ### Performance at a home -/

/-- The value that an atomic leaves (R91, R229), at its width in bits. -/
def amoResult (op : BitVec 4) (w : Nat) (old opnd exp : BitVec w) : BitVec w :=
  match op.toNat with
  | 0 => old + opnd
  | 1 => old &&& opnd
  | 2 => old ||| opnd
  | 3 => old ^^^ opnd
  | 4 => opnd
  | 5 => if old.slt opnd then old else opnd
  | 6 => if old.slt opnd then opnd else old
  | 7 => if old.ult opnd then old else opnd
  | 8 => if old.ult opnd then opnd else old
  | _ => if old = exp then opnd else old

/-- The new bytes of an atomic's word, as a number. -/
def amoNew (op : BitVec 4) (w32 : Bool) (old : Nat) (opnd exp : W64) : Nat :=
  if w32 then (amoResult op 32 (BitVec.ofNat 32 old) (opnd.setWidth 32) (exp.setWidth 32)).toNat
  else (amoResult op 64 (BitVec.ofNat 64 old) opnd exp).toNat

/-- Uncorrectable data or a refused write reach the access as an exception (R99, R170). -/
def State.accFails (s : State) (c : Nat) (a : Acc) (code : Nat) : State :=
  let s := s.modCore c (fun k => k.setAcc { a with performed := true, err := some (code, a.ea) })
  if code = excEcc then (match s.partOf c with | some n => s.breakCond n 1 | none => s) else s

/-- The rows of a `VST` are written (R140); the first whose home is out of service refuses it. -/
def State.performRows (s : State) (c : Nat) (a : Acc) (ls : List (W64 × Resolved)) (data : BitVec 2048) : State :=
  match ls.find? (fun p => match p.2.place with | .here pa => !s.homeUp pa | .remote _ => false) with
  | some p => s.accFails c { a with ea := p.1 } excAccess
  | none =>
    ((s.countLines c ls true).writeLines c a.thr ls (cutLines data.toNat 4)).modCore c (fun k =>
      k.setAcc { a with performed := true })

/-- Condition 1 of R50 fails for a core's partition: uncorrectable data reached an instruction (R415). -/
def State.eccReached (s : State) (c : Nat) : State :=
  match s.partOf c with
  | some n => s.breakCond n 1
  | none => s

/-- Access `a` of core `c`, at home on this device, is performed there (R216, R229, R230). -/
def State.perform (s : State) (c : Nat) (a : Acc) (e : Ecc) : State :=
  match a.kind, a.place with
  | .vst ls data, _ => s.performRows c a ls data
  | _, .remote _ => s
  | _, .here pa =>
    match a.kind with
    | .store size data =>
      if s.homeUp pa then
        (s.homeWrite pa (toLE size data.toNat)).modCore c (fun k =>
          (k.updateLine a.place size data).setAcc { a with performed := true })
      else s.accFails c a excAccess
    | .amo _ op w32 opnd exp =>
      let n := if w32 then 4 else 8
      let r := s.homeRead pa n e
      if r.2.2 then r.1.accFails c a excEcc
      else
        let old := ofLE r.2.1
        let s := r.1.homeWrite pa (toLE n (amoNew op w32 old opnd exp))
        s.modCore c (fun k => (k.setAcc { a with performed := true, val := BitVec.ofNat 64 old }).invalidate
          (touches a.place n))
    | .load _ size signed plain _ =>
      let r := s.homeRead pa size e
      if r.2.2 then r.1.accFails c a excEcc
      else
        let v := ofLE r.2.1
        let l := pa / 64 * 64
        let line := if plain && !inLm pa && !r.1.poisoned l 64 then
            some (BitVec.ofNat 512 (ofLE (Memory.readBytes r.1.mem l 64))) else none
        r.1.modCore c (fun k => k.setAcc { a with
          performed := true, line := line
          val := if signed then sext (8 * size) v else BitVec.ofNat 64 v })
    | .collect => s
    | .lines _ _ => s
    | .vst _ _ => s
    | .waitm =>
      let r := s.homeRead pa 8 e
      if r.2.2 then r.1.accFails c a excEcc
      else r.1.modCore c (fun k => k.setAcc { a with performed := true, val := BitVec.ofNat 64 (ofLE r.2.1) })

/-! ### Arrival, acknowledgement, late exceptions -/

/-- The value of access `id` has arrived for its load (R93), here and in every state the thread may return to. -/
def Thread.arrive (x : Thread) (id : Nat) (v : W64) : Thread :=
  { x with loads := x.loads.map (fun l => if l.id = id then { l with val := some v } else l) }

/-- The matrix engine without a thread's instructions from number `n` on: `TIU` is as before the first of them. -/
def Matrix.discard (m : Matrix) (t : BitVec 2) (n : Nat) : Matrix :=
  let gone (q : MOp) : Bool := q.thr == t && n ≤ q.n
  { m with
    queue := m.queue.filter (fun q => !gone q)
    tiu := match m.queue.find? gone with | some q => q.tiu | none => m.tiu
    gath := match m.queue with | q :: _ => if gone q then none else m.gath | [] => none }

/-- The vector engine without a thread's instructions from number `n` on: the registers and `VL` are as before the first of
those that have run. -/
def VecEng.discard (v : VecEng) (t : BitVec 2) (n : Nat) : VecEng :=
  let gone (d : VDone) : Bool := d.thr == t && n ≤ d.n
  let back := match v.done.find? gone with | some d => { v with v := d.v, vl := d.vl } | none => v
  { back with
    done := v.done.filter (fun d => !gone d)
    queue := v.queue.filter (fun q => !(q.thr == t && n ≤ q.n))
    gath := match v.queue with | q :: _ => if q.thr == t && n ≤ q.n then none else v.gath | [] => none }

/-- The entries that a thread's `POP`s from number `n` on have removed: they return to the head of the finished-tile queue,
which then may hold more than four (DESIGN CHOICE, log 130). -/
def VecEng.popped (v : VecEng) (t : BitVec 2) (n : Nat) : List FtEntry :=
  v.done.filterMap (fun d => if d.thr == t && n ≤ d.n then d.popped else none)

/-- The instructions of a thread from number `n` on are discarded (R98): the thread returns to `snap`, its accesses
and what it issued to the engines are dropped, what the vector engine has done of it is undone, and no line keeps the
bytes of a dropped store. -/
def Core.discard (k : Core) (t : BitVec 2) (n : Nat) (snap : Thread) : Core :=
  let cur := rget k.thr (tix t)
  let gone := k.mem.accs.filter (fun a => a.thr == t && n ≤ a.n && a.writes)
  let k := gone.foldl (fun k a => k.invalidate (touches a.place a.len)) k
  let back := k.vx.popped t n
  let m := k.mx.discard t n
  { k with
    thr := rset k.thr (tix t) { snap with wdog := cur.wdog, remErr := cur.remErr }
    mem := { k.mem with accs := k.mem.accs.filter (fun a => !(a.thr == t && n ≤ a.n)) }
    mx := { m with ftq := back ++ m.ftq, ftOut := m.ftOut - BitVec.ofNat 64 back.length }
    vx := k.vx.discard t n }

/-- A late exception at access `a`: precise, under R98 and R100. -/
def State.lateExc (s : State) (c : Nat) (a : Acc) (code : Nat) (stval : W64) : State :=
  (s.modCore c (fun k => k.discard a.thr a.n a.snap)).enterExc c a.thr { code := code, stval := stval }

/-- Every instruction of the thread before its instruction `n` has taken full effect, and so have its accesses numbered below
`id`: an exception of it may be raised (R98). -/
def Core.isFirst (k : Core) (t : BitVec 2) (n id : Nat) : Bool :=
  !k.mem.accs.any (fun b => b.thr == t && b.id < id) && !k.engineOpen t n

/-- A free watch exists at the home of a word (R230): 16 in each LM, 256 in each tier 1 stack and tier 2 port. -/
def State.watchFree (s : State) (pa : Nat) : Bool :=
  let home (a : Nat) : Nat :=
    if inLm a then (a - lmBase) / 0x100000 else if inTier1 a then 1024 + a / 4096 % 8 else 1032 + tier2Port a
  let held := s.cores.foldl (fun n p => n + p.2.thr.toList.countP (fun x =>
    match x.wait with
    | some (.waitm _ _ _ _ (.here w) _ true _) => home w == home pa
    | _ => false)) 0
  held < if inLm pa then 16 else 256

/-- A read of the word that a thread waits on in `WAITM` returned `v` (R91, R230): the wait ends when it differs from
the compared value; otherwise a watch is registered if one is free. The value is a load's (R93). -/
def State.waitmRead (s : State) (c : Nat) (t : BitVec 2) (v : W64) : State × Bool :=
  let x := s.thread c t
  match x.wait with
  | some (.waitm rd cmp limit ea pl _ watching _) =>
    if v = cmp then
      let w := watching || (match pl with | .here pa => s.watchFree pa | .remote _ => false)
      (s.setThread c t { x with wait := some (.waitm rd cmp limit ea pl true w none) }, false)
    else (s, true)
  | _ => (s, false)

/-- Retirement: the instruction counts under R93, and the thread goes on to the next one, or to the next repetition
with its base register advanced (R96-R97). -/
def Thread.retire (x : Thread) : Thread :=
  let x := { x with n := x.n + 1 }
  if x.rptOn then
    let stride := sext 12 (fld x.rptcnt 32 12)
    let x := match x.rptBase with
      | some (r, cm) => x.setG r (x.getG r + if cm then stride * 64 else stride)
      | none => x
    let left := fld x.rptcnt 0 32 - 1
    if left = 0 then
      { x with rptcnt := setFld (setBit x.rptcnt 44 false) 0 32 0, rptOn := false, rptN := false, pc := x.pc + 4 }
    else { x with rptcnt := setFld x.rptcnt 0 32 left }
  else { x with pc := x.pc + 4 }

/-- The thread's waiting instruction completes: `f` is its effect on the thread. -/
def State.wake (s : State) (c : Nat) (t : BitVec 2) (f : Thread → Thread) : State :=
  s.modThread c t (fun x => (f { x with wait := none }).retire)

/-- A `WAITM` returns a value, which is visible as a load's is (R91). -/
def Thread.endWaitm (x : Thread) (id : Nat) (rd : BitVec 5) (v : W64) : Thread :=
  Thread.retire { x with wait := none, loads := x.loads ++ [⟨id, x.n, rd, some v⟩] }

/-- The reads of a thread's `WAITM` that other devices have not answered are forgotten. -/
def State.dropPolls (s : State) (c : Nat) (t : BitVec 2) : State :=
  { s with remReqs := s.remReqs.filter (fun q => q.org != .poll c t) }

/-- The `WAITM` of a thread ends (R230): its value takes the next number of the core's accesses. -/
def State.waitmEnd (s : State) (c : Nat) (t : BitVec 2) (rd : BitVec 5) (v : W64) : State :=
  let id := (s.core c).mem.nextId
  ((s.dropPolls c t).modCore c (fun k => { k with mem := { k.mem with nextId := id + 1 } })).modThread c t
    (fun x => x.endWaitm id rd v)

/-- Access `a`, performed, completes (R217): a value arrives, a fill is installed, a store is acknowledged. An error
raises its exception once every earlier instruction of the thread has taken full effect (R98); the flag says that it did. That of an access
whose thread was stopped at once raises none (R238, R340). -/
def State.complete (s : State) (c : Nat) (a : Acc) : State × Bool :=
  match a.err with
  | some (code, stval) =>
    if a.orphan then (s.modCore c (fun k => k.dropAcc a.id), false)
    else if (s.core c).isFirst a.thr a.n a.id then (s.lateExc c a code stval, true)
    else (s, false)
  | none =>
    match a.kind with
    | .store _ _ => (s.modCore c (fun k => k.dropAcc a.id), false)
    | .collect => (s.modCore c (fun k => k.dropAcc a.id), false)
    | .vst _ _ => (s.modCore c (fun k => k.dropAcc a.id), false)
    | .lines _ _ => (s, false)
    | .waitm =>
      let s := s.modCore c (fun k => k.dropAcc a.id)
      match (s.thread c a.thr).wait, s.waitmRead c a.thr a.val with
      | some (.waitm rd ..), (s, true) => (s.waitmEnd c a.thr rd a.val, false)
      | _, (s, _) => (s, false)
    | _ =>
      let s := s.modCore c (fun k => (k.dropAcc a.id).modThrAll a.thr (fun x => x.arrive a.id a.val))
      match a.line, lineOf a.place with
      | some b, some l => if a.fill then (s.modCore c (fun k => k.install s.free l a.ea.toNat b), false) else (s, false)
      | _, _ => (s, false)

/-- Access `id` of core `c` is brought as far as the device alone can bring it: injected, performed, completed. -/
def State.forceAcc (s : State) (c id : Nat) : State × Option (BitVec 2) :=
  let s := match (s.core c).acc? id with
    | some a => if s.mayInject c a then s.inject c a else s
    | none => s
  let s := match (s.core c).acc? id with
    | some a => if s.mayPerform c a then s.perform c a .good else s
    | none => s
  match (s.core c).acc? id with
  | some a =>
    if a.performed then
      let r := s.complete c a
      (r.1, if r.2 then some a.thr else none)
    else (s, none)
  | none => (s, none)

/-- What forcing the accesses of a thread came to. -/
inductive Drain where
  /-- All complete. -/
  | ok (s : State)
  /-- One of them raised an exception in the thread. -/
  | trapped (s : State)
  /-- One of them waits for something outside the device. -/
  | stuck

/-- Force the core's accesses with the listed numbers, in order; stop when thread `t` takes an exception. -/
def State.forceList (s : State) (c : Nat) (t : BitVec 2) : List Nat → State × Bool
  | [] => (s, false)
  | id :: ids =>
    match s.forceAcc c id with
    | (s, some t') => if t' = t then (s, true) else s.forceList c t ids
    | (s, none) => s.forceList c t ids

/-- The accesses of the core that can be brought forward, in issue order. -/
def Core.forcible (k : Core) : List Nat := (k.mem.accs.filter (fun a => !a.alone)).map Acc.id

/-- The exception of an access whose home has refused it is raised, once it may be (R98); the flag names its thread. -/
def State.lateServe (s : State) (c : Nat) : State × Option (BitVec 2) :=
  match (s.core c).mem.accs.find? (fun a => a.err.isSome && (s.core c).isFirst a.thr a.n a.id) with
  | some a => let r := s.complete c a; (r.1, if r.2 then some a.thr else none)
  | none => (s, none)

/-- Complete every access of thread `t` numbered below `upto`, with those of the core that hold them back. -/
def State.drainAccs (s : State) (c : Nat) (t : BitVec 2) (upto : Nat) : Drain :=
  match s.forceList c t (((s.core c).forcible).filter (· < upto)) with
  | (s, true) => .trapped s
  | (s, false) =>
    if (s.core c).mem.accs.any (fun a => a.thr == t && a.id < upto && !a.alone) then .stuck else .ok s

/-- The accesses of the core issued before number `id` are complete, and neither they, a channel, the slot wheel, nor a
memory whose clock is stopped holds back the lines (R26, R122, R173, R218-R219). -/
def State.orderLines (s : State) (c : Nat) (t : BitVec 2) (id : Nat) (ls : List (W64 × Resolved)) (write : Bool)
    (len : Nat) : Drain :=
  match s.forceList c t ((s.core c).forcible.filter (· < id)) with
  | (s, true) => .trapped s
  | (s, false) =>
    if ls.all (fun p => !s.orderHeld c id p.2.space p.2.lo len write && s.slotFor c p.1 p.2.place write &&
        (match p.2.place with | .here pa => s.memRuns pa | .remote _ => true)) then .ok s
    else .stuck

end Sys2Proof.Machine
end

