-- ==== Sys2Proof/Machine/Tiles.lean ====
section
/-!
DEFINITION. The matrix engine's registers: configuration fields (R108), in-use flags (R110-R111), the checks of R112 and
R128, and the exact multiplication (R115).
-/
namespace Sys2Proof.Machine

/-! ### `TCFG` fields (R108) -/

def cfgFmt (w : W64) : Nat := fld w 0 4
def cfgRows (w : W64) : Nat := fld w 4 6
def cfgRbytes (w : W64) : Nat := fld w 10 7
def cfgBlk (w : W64) : Nat := fld w 17 3
def cfgAcross (w : W64) : Bool := w.getLsbD 20
def cfgSrc (w : W64) : Bool := w.getLsbD 21
/-- LM offset of row `r` with `SRC` = 1 (R124). -/
def cfgRowOff (w : W64) (r : Nat) : Nat := (fld w 24 13 + r * fld w 37 11) * 64
/-- Elements per row. -/
def cfgK (w : W64) : Nat := cfgRbytes w * 8 / tyWidth (cfgFmt w)

/-! ### Register access -/

def Matrix.tcfgOf (m : Matrix) (t : BitVec 3) : W64 := rget m.tcfg (qix t)
def Matrix.tile (m : Matrix) (t : BitVec 3) : BitVec 16384 := rget m.t (qix t)
def Matrix.scales (m : Matrix) (t : BitVec 3) : BitVec 4096 := rget m.ts (qix t)
def Matrix.acc (m : Matrix) (a : BitVec 2) : BitVec 32768 := rget m.a (tix a)
def Matrix.setTile (m : Matrix) (t : BitVec 3) (x : BitVec 16384) : Matrix := { m with t := rset m.t (qix t) x }
def Matrix.setScales (m : Matrix) (t : BitVec 3) (x : BitVec 4096) : Matrix := { m with ts := rset m.ts (qix t) x }
def Matrix.setAcc (m : Matrix) (a : BitVec 2) (x : BitVec 32768) : Matrix := { m with a := rset m.a (tix a) x }

/-- `TIU` bits of R110: a tile in use; an accumulator in use; its type INT32. -/
def Matrix.tileUsed (m : Matrix) (t : Nat) : Bool := m.tiu.getLsbD t
def Matrix.accUsed (m : Matrix) (a : Nat) : Bool := m.tiu.getLsbD (8 + a)
def Matrix.accInt (m : Matrix) (a : Nat) : Bool := m.tiu.getLsbD (12 + a)

/-- A tile marked in use (R110). -/
def Matrix.markTile (m : Matrix) (t : Nat) : Matrix := { m with tiu := setBit m.tiu t true }

/-- An accumulator marked in use with its type (R110). -/
def Matrix.markAcc (m : Matrix) (a : Nat) (int : Bool) : Matrix :=
  { m with tiu := setBit (setBit m.tiu (8 + a) true) (12 + a) int }

/-- The `TIU` bits of an accumulator cleared. -/
def Matrix.unmarkAcc (m : Matrix) (a : Nat) : Matrix :=
  { m with tiu := setBit (setBit m.tiu (8 + a) false) (12 + a) false }

/-- A tile with its scale register freed: zero and not in use (R111). -/
def Matrix.freeTile (m : Matrix) (t : BitVec 3) : Matrix :=
  let m := (m.setTile t 0).setScales t 0
  { m with tiu := setBit m.tiu t.toNat false }

/-- An accumulator freed (R111). -/
def Matrix.freeAcc (m : Matrix) (a : BitVec 2) : Matrix := (m.setAcc a 0).unmarkAcc a.toNat

/-- The registers named by a tile mask and an accumulator mask freed. -/
def Matrix.freeMasks (m : Matrix) (tiles : Nat) (accs : Nat) : Matrix :=
  let m := (List.range 8).foldl (fun m i => if tiles.testBit i then m.freeTile (BitVec.ofNat 3 i) else m) m
  (List.range 4).foldl (fun m i => if accs.testBit i then m.freeAcc (BitVec.ofNat 2 i) else m) m

/-! ### Checks (R112, R128) -/

/-- The operand pair is one of R112's; its accumulator is INT32. -/
def pairOk (a b : Nat) : Bool :=
  (a == 0 && b == 0) || (a == 7 && b == 7) || (a == 8 && b == 8) || ((a == 1 || a == 2) && (b == 1 || b == 2)) ||
    ((a == 3 || a == 4) && (b == 3 || b == 4)) || ((a == 5 || a == 6) && (b == 5 || b == 6))
def pairInt (a : Nat) : Bool := a == 7 || a == 8

/-- `ROWS` is valid; `RBYTES` is valid for the format (R128 checks 2 and 3). -/
def rowsOk (w : W64) : Bool := 1 ≤ cfgRows w && cfgRows w ≤ 32
def rbytesOk (w : W64) : Bool :=
  1 ≤ cfgRbytes w && cfgRbytes w ≤ 64 && cfgRbytes w * 8 % tyWidth (cfgFmt w) == 0 &&
    !((cfgFmt w == 1 || cfgFmt w == 2) && 60 < cfgRbytes w)

/-- The shape check of a `TMMA` (R128): sub-code, unit and operand of the first failure. A mismatch of K between two
operands that each pass is reported on operand B (DEDUCED, log 12). -/
def tmmaShape (m : Matrix) (acc : BitVec 2) (ta tb : BitVec 3) (zf : Bool) : Option (Nat × Nat × Bool) :=
  let a := m.tcfgOf ta
  let b := m.tcfgOf tb
  if !pairOk (cfgFmt a) (cfgFmt b) then some (1, ta.toNat, false)
  else if !rowsOk a then some (2, ta.toNat, false)
  else if !rowsOk b then some (2, tb.toNat, true)
  else if !rbytesOk a then some (3, ta.toNat, false)
  else if !rbytesOk b ∨ cfgK a ≠ cfgK b then some (3, tb.toNat, true)
  else if !scaleValid (cfgFmt a) (cfgBlk a) (cfgAcross a) then some (4, ta.toNat, false)
  else if !scaleValid (cfgFmt b) (cfgBlk b) (cfgAcross b) then some (4, tb.toNat, true)
  else if !zf && m.accUsed acc.toNat && m.accInt acc.toNat != pairInt (cfgFmt a) then some (5, acc.toNat, false)
  else none

/-- `TFAULT` after a `TILE_SHAPE` (R129). -/
def tfaultWord (sub unit : Nat) (opndB : Bool) (minor : Nat) : W64 :=
  BitVec.ofNat 64 (sub % 8 + (unit % 8) * 16 + opndB.toNat * 128 + (minor % 16) * 256)

/-- The first row of an operand read from LM that ends beyond LM (R124). -/
def srcRowFault (w : W64) : Option Nat :=
  if cfgSrc w then
    (List.range (cfgRows w)).findSome? (fun r => if 524288 < cfgRowOff w r + 64 then some (cfgRowOff w r) else none)
  else none

/-! ### The multiplication (R115-R117) -/

/-- Element `k` of row `r` of an operand, scaled (R61-R62). -/
def operandElem (cfg : W64) (rows : BitVec 16384) (scales : BitVec 4096) (r k : Nat) : Val :=
  let t := cfgFmt cfg
  let v := tyDecode t (fld rows (512 * r + tyWidth t * k) (tyWidth t))
  if cfgBlk cfg = 0 then v else scaleBy (fld scales (8 * scaleIdx t (cfgBlk cfg) (cfgAcross cfg) r k) 8) v

/-- Element (i, j) of the result over the accumulator's element `c` (R115). -/
def tmmaElem (cfgA cfgB : W64) (b : Collected) (rm : Rm) (r : W32) (zf : Bool) (c i j : Nat) : Nat × Flags :=
  let ks := List.range (cfgK cfgA)
  if pairInt (cfgFmt cfgA) then
    let t := cfgFmt cfgA
    let e (rows : BitVec 16384) (r k : Nat) : Int := intOf (tyWidth t) (fld rows (512 * r + tyWidth t * k) (tyWidth t))
    intSat 32 (ks.foldl (fun s k => s + e b.rowsA i k * e b.rowsB j k) (if zf then 0 else intOf 32 c))
  else
    let s0 := if zf then Sum.zero else Sum.zero.add (fmtFP32.decode c)
    let s := ks.foldl (fun s k =>
      s.addMul (operandElem cfgA b.rowsA b.scalesA i k) (operandElem cfgB b.rowsB b.scalesB j k)) s0
    let x := s.round rm r
    (x.1.toNat, x.2)

/-- The elements from number `idx` on, in row-major order, with the generator and the flags so far (R115, R117). -/
def tmmaLoop (cfgA cfgB : W64) (b : Collected) (rm : Rm) (zf : Bool) (old : BitVec 32768) (n : Nat) :
    List Nat → BitVec 32768 × W32 × Flags → BitVec 32768 × W32 × Flags
  | [], st => st
  | idx :: rest, (acc, seed, fl) =>
    let seed := if rm = .sr ∧ !pairInt (cfgFmt cfgA) then srAdvance seed else seed
    let pos := 1024 * (idx / n) + 32 * (idx % n)
    let x := tmmaElem cfgA cfgB b rm seed zf (fld old pos 32) (idx / n) (idx % n)
    tmmaLoop cfgA cfgB b rm zf old n rest (setFld acc pos 32 x.1, seed, fl ||| x.2)

/-- The accumulator and the flags after a `TMMA` (R115). -/
def tmmaResult (cfgA cfgB : W64) (b : Collected) (rm : Rm) (zf : Bool) (seed : W32) (old : BitVec 32768) :
    BitVec 32768 × Flags :=
  let n := cfgRows cfgB
  let st := tmmaLoop cfgA cfgB b rm zf old n (List.range (cfgRows cfgA * n)) (old, seed, 0)
  (st.1, st.2.2)

/-- Draws that a `TMMA` takes from its thread's generator (R117). -/
def tmmaDraws (cfgA cfgB : W64) (rm : Rm) : Nat :=
  if rm = .sr ∧ !pairInt (cfgFmt cfgA) then cfgRows cfgA * cfgRows cfgB else 0

/-- Flags set in a thread's `THRSTAT` (R73). -/
def Thread.addFlags (x : Thread) (f : Flags) : Thread := { x with stat := x.stat ||| (f.setWidth 64 <<< 16) }

end Sys2Proof.Machine
end

