-- ==== Sys2Proof/Machine/Elementary.lean ====
section
/-!
DEFINITION. The exact values that bound the results of `VSF` (R147): the elementary functions in fixed point, in units of
2^-520 as the finite values of Float.lean, each to within a small number of units. A unit is far below a thousandth of
any FP32 step that a bound of R147 speaks of (DEDUCED, log 37).
-/
namespace Sys2Proof.Machine

/-- One, in units. -/
def fxOne : Int := 2 ^ unitLog

/-- A product and a quotient of values in units. -/
def fxMul (a b : Int) : Int := a * b / fxOne
def fxDiv (a b : Int) : Int := a * fxOne / b

/-- The integer square root from bit `i` downward, `r` so far. -/
def isqrt (x : Nat) : Nat → Nat → Nat
  | 0, r => r
  | i + 1, r => isqrt x i (if (r + 2 ^ i) * (r + 2 ^ i) ≤ x then r + 2 ^ i else r)

/-- The terms of the exponential series after term `n`, which is `t`, on top of `sum`. -/
def expSeries (r : Int) : Nat → Nat → Int → Int → Int
  | 0, _, _, sum => sum
  | k + 1, n, t, sum =>
    let t := fxMul t r / (n + 1)
    expSeries r k (n + 1) t (sum + t)

/-- z + z³/3 + z⁵/5 + …: the terms from `t` = z^(2n+1) on. -/
def atanhSeries (z2 : Int) : Nat → Nat → Int → Int → Int
  | 0, _, _, sum => sum
  | k + 1, n, t, sum => atanhSeries z2 k (n + 1) (fxMul t z2) (sum + t / (2 * n + 1))

/-- The inverse hyperbolic tangent of a value of magnitude 1/3 or less. -/
def fxAtanh (z : Int) : Int := atanhSeries (fxMul z z) 170 0 z 0

/-- The natural logarithm of 2. -/
def fxLn2 : Int := 2 * fxAtanh (fxOne / 3)

/-- 2 to the power k, times e to the power of `r` in units, 0 ≤ r < 1. -/
def fxScaled (k : Int) (r : Int) : Int :=
  let e := expSeries r 100 0 fxOne fxOne
  if 0 ≤ k then e * 2 ^ k.toNat else e / 2 ^ (-k).toNat

/-- The exponential; 2 to a power. -/
def fxExp (x : Int) : Int := let k := x / fxLn2; fxScaled k (x - k * fxLn2)
def fxExp2 (x : Int) : Int := let k := x / fxOne; fxScaled k (fxMul (x - k * fxOne) fxLn2)

/-- The natural logarithm of a positive value, and the logarithm to base 2. -/
def fxLn (q : Int) : Int :=
  let k : Int := (q.natAbs.log2 : Int) - unitLog
  let m := if 0 ≤ k then q / 2 ^ k.toNat else q * 2 ^ (-k).toNat
  2 * fxAtanh (fxDiv (m - fxOne) (m + fxOne)) + k * fxLn2
def fxLog2 (q : Int) : Int := fxDiv (fxLn q) fxLn2

/-- One over the square root of a positive value. -/
def fxRsqrt (q : Int) : Int := (isqrt (2 ^ (3 * unitLog) / q.natAbs) 600 0 : Nat)

/-- An odd function from its values at magnitudes: those at and above `lim` are one unit short of 1. -/
def fxOdd (lim : Nat) (f : Int → Int) (x : Int) : Int :=
  let a : Int := x.natAbs
  let y := if lim * fxOne ≤ a then fxOne - 1 else f a
  if x < 0 then -y else y

/-- The hyperbolic tangent, and the logistic function. -/
def fxTanh (x : Int) : Int := fxOdd 100 (fun a => let e := fxExp (2 * a); fxDiv (e - fxOne) (e + fxOne)) x
def fxSigmoid (x : Int) : Int := if 200 * fxOne ≤ x then fxOne - 1 else fxDiv fxOne (fxOne + fxExp (-x))

/-- 1/n - 1/(3n³) + …, the arc tangent of 1/n, in units of 2^-1040: terms from `t` = 2^1040/n^(2i+1) on. -/
def atanSeries (n2 : Int) : Nat → Nat → Int → Int → Int
  | 0, _, _, sum => sum
  | k + 1, i, t, sum => atanSeries n2 k (i + 1) (-(t / n2)) (sum + t / (2 * i + 1))

/-- Half of π in units of 2^-1040, by Machin's formula. -/
def halfPi : Int :=
  8 * atanSeries 25 230 0 (2 ^ (2 * unitLog) / 5) 0 - 2 * atanSeries 57121 230 0 (2 ^ (2 * unitLog) / 239) 0

/-- a + 2a³/3 + 4a⁵/15 + …: each term is the one before times 2a²/(2n+3); the terms after `t`. -/
def erfSeries (x2 : Int) : Nat → Nat → Int → Int → Int
  | 0, _, _, sum => sum
  | k + 1, n, t, sum =>
    let t := fxMul t (2 * x2) / (2 * n + 3)
    erfSeries x2 k (n + 1) t (sum + t)

/-- Two over the square root of π. -/
def twoOverRootPi : Int := (isqrt (2 ^ (4 * unitLog + 1) / halfPi.natAbs) 600 0 : Nat)

/-- The error function. -/
def fxErf (x : Int) : Int :=
  fxOdd 7 (fun a =>
    let x2 := fxMul a a
    fxMul (fxMul (erfSeries x2 250 0 a a) (fxExp (-x2))) twoOverRootPi) x

/-- The sine or cosine series after term `n`, which is `t`: each is the one before times -r²/((n+1)(n+2)). -/
def trigSeries (r2 : Int) : Nat → Nat → Int → Int → Int
  | 0, _, _, sum => sum
  | k + 1, n, t, sum =>
    let t := -(fxMul t r2 / ((n + 1) * (n + 2)))
    trigSeries r2 k (n + 2) t (sum + t)

/-- The sine of a value plus `q` quarter turns. -/
def fxTrig (q : Int) (x : Int) : Int :=
  let k := x * fxOne / halfPi
  let r := (x * fxOne - k * halfPi) / fxOne
  let r2 := fxMul r r
  let sin := trigSeries r2 60 1 r r
  let cos := trigSeries r2 60 0 fxOne fxOne
  match ((k + q) % 4).toNat with
  | 0 => sin
  | 1 => cos
  | 2 => -sin
  | _ => -cos

end Sys2Proof.Machine
end

