-- ==== Sys2Proof/Machine/VecOps.lean ====
section
/-!
DEFINITION. What the vector instructions compute (R143-R149): lane operations, reductions, special functions and
conversions, on register contents.
-/
namespace Sys2Proof.Machine

/-- A vector register. -/
abbrev VReg := BitVec 2048

/-- Lane `i` (R135). -/
def lane (v : VReg) (i : Nat) : W32 := BitVec.ofNat 32 (fld v (32 * i) 32)

/-- The register with a lane set. -/
def setLane (v : VReg) (i : Nat) (x : W32) : VReg := setFld v (32 * i) 32 x.toNat

/-- What a lane-wise instruction leaves: its destination, the generator, the flags. -/
abbrev VRes := VReg × W32 × Flags

/-- `f` on the lanes listed, in order; with `draw`, each takes the generator's next state (R67). -/
def laneLoop (draw : Bool) (f : Nat → W32 → W32 × Flags) : List Nat → VRes → VRes
  | [], st => st
  | i :: is, (v, seed, fl) =>
    let seed := if draw then srAdvance seed else seed
    let x := f i seed
    laneLoop draw f is (setLane v i x.1, seed, fl ||| x.2)

/-- The lanes that obey `VL` (R137). -/
def vlLanes (vl : Nat) : List Nat := List.range (min vl 64)

/-! ### `VARITH` (R143) -/

/-- The operation's number in [4:0]. -/
def VarOp.num : VarOp → Nat
  | .add => 0 | .sub => 1 | .mul => 2 | .min => 3 | .max => 4 | .fma => 5 | .fms => 6 | .abs => 7 | .neg => 8

/-- The operation rounds in FP32. -/
def VarOp.rounds : VarOp → Bool
  | .add => true | .sub => true | .mul => true | .fma => true | .fms => true | _ => false

/-- The operation takes a third operand, v(va+1). -/
def VarOp.three : VarOp → Bool
  | .fma => true | .fms => true | _ => false

/-- The magnitude of a value. -/
def Val.abs : Val → Val
  | .nan => .nan
  | .inf _ => .inf false
  | .fin q => .fin q.natAbs

/-- One FP32 lane: d op a, with b = v(va+1). -/
def varFp (op : VarOp) (rm : Rm) (r : W32) (d a b : W32) : W32 × Flags :=
  match op with
  | .add => ((Sum.zero.add (f32 d)).add (f32 a)).round rm r
  | .sub => ((Sum.zero.add (f32 d)).add (f32 a).neg).round rm r
  | .mul => (Sum.zero.addMul (f32 d) (f32 a)).round rm r
  | .min => toF32 .rne 0 (Val.pick false (f32 d) (f32 a))
  | .max => toF32 .rne 0 (Val.pick true (f32 d) (f32 a))
  | .fma => ((Sum.zero.add (f32 d)).addMul (f32 a) (f32 b)).round rm r
  | .fms => ((Sum.zero.add (f32 d)).addMul (f32 a).neg (f32 b)).round rm r
  | .abs => toF32 .rne 0 (f32 a).abs
  | .neg => toF32 .rne 0 (f32 a).neg

/-- One INT32 lane; results out of range saturate (R70). -/
def varInt (op : VarOp) (d a b : W32) : W32 × Flags :=
  let x := intSat 32 (match op with
    | .add => d.toInt + a.toInt
    | .sub => d.toInt - a.toInt
    | .mul => d.toInt * a.toInt
    | .min => min d.toInt a.toInt
    | .max => max d.toInt a.toInt
    | .fma => d.toInt + a.toInt * b.toInt
    | .fms => d.toInt - a.toInt * b.toInt
    | .abs => a.toInt.natAbs
    | .neg => -a.toInt)
  (BitVec.ofNat 32 x.1, x.2)

/-- `VARITH` on registers. -/
def varithRes (op : VarOp) (int : Bool) (rm : Rm) (vl : Nat) (d a b : VReg) (seed : W32) : VRes :=
  laneLoop (!int && op.rounds && rm == .sr)
    (fun i r => if int then varInt op (lane d i) (lane a i) (lane b i) else varFp op rm r (lane d i) (lane a i) (lane b i))
    (vlLanes vl) (d, seed, 0)

/-! ### `VCMP` (R144), `VBIT` and `VPERM` (R145) -/

/-- The compare conditions on FP32 values (R76). -/
def cmpFp (cond : Nat) (a b : Val) : Bool :=
  if a = .nan ∨ b = .nan then cond = 6
  else
    match cond with
    | 0 => a = b
    | 1 => a ≠ b
    | 2 => a.lt b
    | 3 => !b.lt a
    | 4 => b.lt a
    | 5 => !a.lt b
    | _ => false

/-- The compare conditions on signed integers. -/
def cmpInt (cond : Nat) (a b : Int) : Bool :=
  match cond with
  | 0 => a = b
  | 1 => a ≠ b
  | 2 => a < b
  | 3 => a ≤ b
  | 4 => b < a
  | 5 => b ≤ a
  | _ => false

/-- `VCMP` on registers. -/
def vcmpRes (cond : Nat) (int : Bool) (vl : Nat) (d a : VReg) : VReg :=
  (laneLoop false (fun i _ =>
    (if (if int then cmpInt cond (lane d i).toInt (lane a i).toInt else cmpFp cond (f32 (lane d i)) (f32 (lane a i)))
      then 0xFFFFFFFF else 0, 0)) (vlLanes vl) (d, 0, 0)).1

/-- The operations of `VBIT`, by number; `m` is v(va+1). -/
def vbitLane (op : Nat) (d a m : W32) : W32 :=
  match op with
  | 0 => d &&& a
  | 1 => d ||| a
  | 2 => d ^^^ a
  | 3 => d &&& ~~~a
  | 4 => d <<< (a.toNat % 32)
  | 5 => d >>> (a.toNat % 32)
  | 6 => d.sshiftRight (a.toNat % 32)
  | 7 => (d &&& ~~~m) ||| (a &&& m)
  | _ => a

/-- `VBIT` on registers. -/
def vbitRes (op vl : Nat) (d a m : VReg) : VReg :=
  (laneLoop false (fun i _ => (vbitLane op (lane d i) (lane a i) (lane m i), 0)) (vlLanes vl) (d, 0, 0)).1

/-- `VPERM` on registers: all 64 lanes. -/
def vpermRes (d a : VReg) : VReg :=
  (laneLoop false (fun i _ => (lane a ((lane d i).toNat % 64), 0)) (List.range 64) (d, 0, 0)).1

/-- `VMOVG BCAST`: every lane (R142). -/
def bcast (x : W32) : VReg := (laneLoop false (fun _ _ => (x, 0)) (List.range 64) (0, 0, 0)).1

/-! ### `VRED` (R146) -/

/-- The operation's number in [5:3]. -/
def RedOp.num : RedOp → Nat
  | .sum => 0 | .max => 1 | .min => 2 | .argmax => 3 | .intSum => 4 | .intMax => 5 | .intMin => 6

/-- The largest or smallest of a list under R77, from the first value on. -/
def pickAll (max : Bool) : List W32 → W32
  | [] => if max then 0xFF800000 else 0x7F800000
  | x :: xs => (toF32 .rne 0 (xs.foldl (fun m y => Val.pick max m (f32 y)) (f32 x))).1

/-- The lowest index that holds the FP32 maximum, NaN lanes ignored. -/
def argmax (xs : List W32) : W32 :=
  let best := xs.zipIdx.foldl (fun (m : Option (Val × Nat)) p =>
    match f32 p.1, m with
    | .nan, _ => m
    | v, none => some (v, p.2)
    | v, some (w, i) => if w.lt v then some (v, p.2) else some (w, i)) none
  match best with
  | some (_, i) => BitVec.ofNat 32 i
  | none => 0xFFFFFFFF

/-- The reduction of the lanes of one segment that lie below `LEN`. -/
def redSeg (op : RedOp) (rm : Rm) (xs : List W32) : W32 × Flags :=
  match op with
  | .sum => (xs.foldl (fun s x => s.add (f32 x)) Sum.zero).round rm 0
  | .max => (pickAll true xs, 0)
  | .min => (pickAll false xs, 0)
  | .argmax => (argmax xs, 0)
  | .intSum =>
    let x := intSat 32 (xs.foldl (fun s x => s + x.toInt) 0)
    (BitVec.ofNat 32 x.1, x.2)
  | .intMax => (BitVec.ofInt 32 (xs.foldl (fun m x => Max.max m x.toInt) (-2147483648)), 0)
  | .intMin => (BitVec.ofInt 32 (xs.foldl (fun m x => Min.min m x.toInt) 2147483647), 0)

/-- `VRED` on registers: each segment's result in every lane of it. -/
def vredRes (op : RedOp) (rm : Rm) (half : Bool) (vl : Nat) (d a : VReg) : VReg × Flags :=
  let seg (lo n : Nat) : W32 × Flags := redSeg op rm (((List.range n).filter (fun i => lo + i < vl)).map (fun i => lane a (lo + i)))
  let fill (v : VReg) (lo n : Nat) (x : W32) : VReg := (List.range n).foldl (fun v i => setLane v (lo + i) x) v
  if half then
    let x := seg 0 32
    let y := seg 32 32
    (fill (fill d 0 32 x.1) 32 32 y.1, x.2 ||| y.2)
  else
    let x := seg 0 64
    (fill d 0 64 x.1, x.2)

/-! ### `VSF` (R147) -/

/-- The function's number in [5:2]. -/
def SfOp.num : SfOp → Nat
  | .exp => 0 | .exp2 => 1 | .log => 2 | .log2 => 3 | .rcp => 4 | .sqrt => 5 | .rsqrt => 6 | .tanh => 7
  | .sigmoid => 8 | .erf => 9 | .sin => 10 | .cos => 11

/-- The function is correctly rounded under `rm`. -/
def SfOp.rounds : SfOp → Bool
  | .rcp => true | .sqrt => true | _ => false

/-- FP32 patterns. -/
def fpInf : W32 := 0x7F800000
def fpNegInf : W32 := 0xFF800000
def fpNan : W32 := 0x7FC00000
def fpOne : W32 := 0x3F800000
def fpNegOne : W32 := 0xBF800000

/-- A finite FP32 pattern is within `b` units in its last place of an exact value (R147). -/
def inUlps (b : Nat) (e : Int) (r : W32) : Bool :=
  match f32 r with
  | .fin y => (y - e).natAbs ≤ b * 2 ^ (unitLog - 150 + max 1 (fld r 23 8))
  | _ => false

/-- It is within 2^-22 of an exact value. -/
def inAbs (e : Int) (r : W32) : Bool :=
  match f32 r with
  | .fin y => (y - e).natAbs ≤ 2 ^ (unitLog - 22)
  | _ => false

/-- A result of an exact value `e` (R147): the free `r`, where it is a value that the bound `ok` admits, and else the FP32
value nearest to `e`, so that every value within the bound is left open and no other. A zero is +0 (R69), exact or, below
half the smallest subnormal, with `FUNF`. -/
def openRes (r : W32) (ok : Int → W32 → Bool) (e : Int) : W32 × Flags :=
  if e = 0 then (0, 0)
  else if e.natAbs < 2 ^ (unitLog - 150) then (0, fUnf)
  else
    let y := if ok e r && r != 0x80000000 then r else (toF32 .rne 0 (.fin e)).1
    (y, if y = 0 then fUnf else 0)

/-- An FP32 magnitude in units of 2^-520 is 2^`e` exactly. -/
def isPow2 (q : Int) : Option Int :=
  if 0 < q ∧ (2 : Int) ^ q.natAbs.log2 = q then some ((q.natAbs.log2 : Int) - unitLog) else none

/-- The integer that a value is, if it is one. -/
def isInt (q : Int) : Option Int := if q % 2 ^ unitLog = 0 then some (q / 2 ^ unitLog) else none

/-- 2 to an integer power as FP32: exact, or rounded to nearest where it is not representable. -/
def pow2Res (e : Int) : W32 × Flags :=
  if e < -200 then (0, fUnf)
  else if 200 < e then (fpInf, fOvf)
  else toF32 .rne 0 (.fin (2 ^ (unitLog + e).toNat))

/-- The reciprocal and the square root, correctly rounded. Under `RTZ` a reciprocal above the largest finite value is that value, of
its sign, as R70 gives; R147 ends with +infinity, and the spec does not say which of the two rules stands (DESIGN CHOICE, log 146). -/
def rcpRes (rm : Rm) (r x : W32) : W32 × Flags :=
  match f32 x with
  | .nan => (fpNan, 0)
  | .inf _ => (0, 0)
  | .fin q =>
    if q = 0 then (fpInf, 0)
    else
      let n := 2 ^ (2 * unitLog)
      let y := fmtFP32.encode rm r (.fin (if q < 0 then -((n / q.natAbs : Nat) : Int) else (n / q.natAbs : Nat)))
        (n % q.natAbs ≠ 0)
      (BitVec.ofNat 32 y.1, y.2)
def sqrtRes (rm : Rm) (r x : W32) : W32 × Flags :=
  match f32 x with
  | .nan => (fpNan, 0)
  | .inf true => (fpNan, fInv)
  | .inf false => (fpInf, 0)
  | .fin q =>
    if q < 0 then (fpNan, fInv)
    else
      let n := q.natAbs * 2 ^ unitLog
      let m := isqrt n 600 0
      let y := fmtFP32.encode rm r (.fin m) (m * m ≠ n)
      (BitVec.ofNat 32 y.1, y.2)

/-- A logarithm: `exact` is its exact value for a positive argument, `f` the free choice within `b` units. -/
def logRes (f : W32 → W32) (b : Nat) (exact : Int → Int) (x : W32) : W32 × Flags :=
  match f32 x with
  | .nan => (fpNan, 0)
  | .inf true => (fpNan, fInv)
  | .inf false => (fpInf, 0)
  | .fin q =>
    if q = 0 then (fpNegInf, 0) else if q < 0 then (fpNan, fInv) else openRes (f x) (inUlps b) (exact q)

/-- The two ends of the exponential: at and above the one the exact value is above the largest finite FP32 value, at
and below the other it is below half the smallest subnormal. -/
def expHigh : W32 := 0x42B17218
def expLow : W32 := 0xC2CFF1B5

/-- A function of finite values with the limits `lo` and `hi` at the infinities, within 2 units. -/
def boundRes (lo hi : W32) (f : W32 → W32) (exact : Int → Int) (x : W32) : W32 × Flags :=
  match f32 x with
  | .nan => (fpNan, 0)
  | .inf true => (lo, 0)
  | .inf false => (hi, 0)
  | .fin q => openRes (f x) (inUlps 2) (exact q)

/-- The sine and the cosine: 2 units up to 2^16, an absolute error beyond. -/
def trigRes (f : W32 → W32) (quarter : Int) (x : W32) : W32 × Flags :=
  match f32 x with
  | .nan => (fpNan, 0)
  | .inf _ => (fpNan, fInv)
  | .fin q => openRes (f x) (if q.natAbs ≤ 2 ^ (unitLog + 16) then inUlps 2 else inAbs) (fxTrig quarter q)

/-- One lane of `VSF`; a -0 is +0 (R69). -/
def sfLane (op : SfOp) (rm : Rm) (r x0 : W32) : W32 × Flags :=
  let x := if x0 = 0x80000000 then 0 else x0
  let v := f32 x
  match op with
  | .rcp => rcpRes rm r x
  | .sqrt => sqrtRes rm r x
  | .exp =>
    match v with
    | .nan => (fpNan, 0)
    | .inf true => (0, 0)
    | .inf false => (fpInf, 0)
    | .fin q =>
      if !v.lt (f32 expHigh) then (fpInf, fOvf)
      else if !(f32 expLow).lt v then (0, fUnf) else openRes (Config.exp x) (inUlps 2) (fxExp q)
  | .exp2 =>
    match v with
    | .nan => (fpNan, 0)
    | .inf true => (0, 0)
    | .inf false => (fpInf, 0)
    | .fin q =>
      match isInt q with
      | some e => pow2Res e
      | none =>
        if 128 * 2 ^ unitLog ≤ q then (fpInf, fOvf)
        else if q < -150 * 2 ^ unitLog then (0, fUnf) else openRes (Config.exp2 x) (inUlps 1) (fxExp2 q)
  | .log => logRes Config.log 2 fxLn x
  | .log2 =>
    match v with
    | .fin q =>
      match isPow2 q with
      | some e => toF32 .rne 0 (.fin (e * 2 ^ unitLog))
      | none => logRes Config.log2 1 fxLog2 x
    | _ => logRes Config.log2 1 fxLog2 x
  | .rsqrt =>
    match v with
    | .nan => (fpNan, 0)
    | .inf true => (fpNan, fInv)
    | .inf false => (0, 0)
    | .fin q =>
      if q = 0 then (fpInf, 0) else if q < 0 then (fpNan, fInv) else openRes (Config.rsqrt x) (inUlps 1) (fxRsqrt q)
  | .tanh => boundRes fpNegOne fpOne Config.tanh fxTanh x
  | .erf => boundRes fpNegOne fpOne Config.erf fxErf x
  | .sigmoid =>
    match v with
    | .fin q => if !(f32 expLow).lt v then (0, fUnf) else openRes (Config.sigmoid x) (inUlps 2) (fxSigmoid q)
    | _ => boundRes 0 fpOne Config.sigmoid fxSigmoid x
  | .sin => trigRes Config.sin 0 x
  | .cos => trigRes Config.cos 1 x

/-- `VSF` on registers. -/
def vsfRes (op : SfOp) (rm : Rm) (vl : Nat) (d a : VReg) (seed : W32) : VRes :=
  laneLoop (op.rounds && rm == .sr) (fun i r => sfLane op rm r (lane a i)) (vlLanes vl) (d, seed, 0)

/-! ### `VCVT` (R148-R149, R74-R75) -/

/-- Wide registers of a narrow type; elements of a block. -/
def cvtGroup (t : Nat) : Nat := if t = 1 ∨ t = 2 then 5 else 32 / tyWidth t
def cvtBlock (t : Nat) : Nat := if t = 1 ∨ t = 2 then 16 else 32

/-- The narrow type is converted from and to INT32 lanes (R148). -/
def cvtInt (t : Nat) (xf : Bool) : Bool := (t == 7 || t == 8) && xf

/-- Block scales are used (R148). -/
def cvtScaled (t : Nat) (xf : Bool) : Bool := t ≤ 6 && xf

/-- Element `e` of a type in a register, as bits; the register with it set. -/
def elemBits (t : Nat) (v : VReg) (e : Nat) : Nat := fld v (elemPos t e) (tyWidth t)
def setElem (t : Nat) (v : VReg) (e x : Nat) : VReg := setFld v (elemPos t e) (tyWidth t) x

/-- The scale code of a block of FP32 values for a format (R75). -/
def blockScale (f : Fmt) (xs : List Val) : Nat :=
  if xs.any (· == .nan) then 255
  else
    let m := xs.foldl (fun m v => match v with
      | .fin q => max m q.natAbs
      | .inf _ => max m fmtFP32.maxMag
      | .nan => m) 0
    if m = 0 then 127
    else min ((m.log2 : Int) - unitLog - (f.maxMag.log2 - unitLog) + 127).toNat 254

/-- A value divided by the factor of a scale code. -/
def unscale (code : Nat) : Val → Val
  | .fin q => .fin (q * 2 ^ 127 / 2 ^ code)
  | v => v

/-- What a narrowing leaves: destination, scale register, generator, flags. -/
structure NarrowRes where
  dst : VReg
  sc : VReg
  seed : W32
  fl : Flags

/-- A narrowing of the elements listed, in order (R148-R149). `src` gives the wide lane of an element. -/
def narrowLoop (t : Nat) (xf : Bool) (rm : Rm) (n : Nat) (src : Nat → W32) : List Nat → NarrowRes → NarrowRes
  | [], st => st
  | e :: es, st =>
    let seed := if rm = .sr then srAdvance st.seed else st.seed
    let w := src e
    let b := cvtBlock t
    let k := e / b
    let blk := ((List.range b).map (fun i => k * b + i)).filter (· < n)
    let code := match tyFmt t with
      | some f => blockScale f (blk.map (fun i => f32 (src i)))
      | none => 127
    let x : Nat × Flags :=
      if cvtInt t xf then intSat (tyWidth t) w.toInt
      else if cvtScaled t xf then
        if code = 255 then (0, 0) else tyEncode t rm seed (unscale code (f32 w))
      else tyEncode t rm seed (f32 w)
    narrowLoop t xf rm n src es
      { dst := setElem t st.dst e x.1
        sc := if cvtScaled t xf then setFld st.sc (8 * k) 8 code else st.sc
        seed := seed, fl := st.fl ||| x.2 }

/-- Bytes 60-63 of each FP6 row that a narrowing writes are zero (R60). -/
def zeroPad (t n : Nat) (v : VReg) : VReg :=
  if t = 1 ∨ t = 2 then
    (List.range 4).foldl (fun v r => if 80 * r < n then setFld v (512 * r + 480) 32 0 else v) v
  else v

/-- One element widened: source bits and scale code (R148). -/
def widenElem (t : Nat) (xf : Bool) (rm : Rm) (r : W32) (bits code : Nat) : W32 × Flags :=
  if cvtInt t xf then (BitVec.ofInt 32 (intOf (tyWidth t) bits), 0)
  else toF32 rm r (if cvtScaled t xf then scaleBy code (tyDecode t bits) else tyDecode t bits)

/-- A widening of the elements listed into the registers of a group, in order. Under SR each element draws, in a form that
never has to round too (R67; DEDUCED, log 53). -/
def widenLoop (t : Nat) (xf : Bool) (rm : Rm) (src sc : VReg) : List Nat → List VReg × W32 × Flags → List VReg × W32 × Flags
  | [], st => st
  | e :: es, (g, seed, fl) =>
    let seed := if rm = .sr then srAdvance seed else seed
    let x := widenElem t xf rm seed (elemBits t src e) (fld sc (8 * (e / cvtBlock t)) 8)
    widenLoop t xf rm src sc es (g.modify (e / 64) (fun v => setLane v (e % 64) x.1), seed, fl ||| x.2)

end Sys2Proof.Machine
end

