-- ==== Sys2Proof/Machine/VecRun.lean ====
section
/-!
DEFINITION. What a vector instruction does to the registers when it runs (R135-R149).
-/
namespace Sys2Proof.Machine

/-! ### Registers -/

def VecEng.get (x : VecEng) (r : BitVec 5) : VReg := rget x.v (rix r)
def VecEng.set (x : VecEng) (r : BitVec 5) (v : VReg) : VecEng := { x with v := rset x.v (rix r) v }

/-- `VL`'s `LEN`. -/
def VecEng.len (x : VecEng) : Nat := fld x.vl 0 10

/-- The vector engine of core `c`. -/
def State.vx (s : State) (c : Nat) : VecEng := (s.core c).vx

/-- The state with vector register `r` of core `c` set. -/
def State.setV (s : State) (c : Nat) (r : BitVec 5) (v : VReg) : State :=
  s.modCore c (fun k => { k with vx := k.vx.set r v })

/-- A lane-wise result is written: destination, generator, flags. -/
def State.putVRes (s : State) (c : Nat) (t : BitVec 2) (vd : BitVec 5) (r : VRes) : State :=
  (s.setV c vd r.1).modThread c t (fun y => { y.addFlags r.2.2 with srseed := r.2.1 })

/-- Registers of a group written from a list, from `vd` upward. -/
def State.putGroup (s : State) (c : Nat) (vd : BitVec 5) : List VReg → State
  | [] => s
  | v :: vs => (s.setV c vd v).putGroup c (vd + 1) vs

/-- 256 bytes put into a matrix register, which is then in use. -/
def Matrix.putGroup (m : Matrix) (o : FmtVmovt) (v : VReg) : Matrix :=
  let pos := 2048 * o.grp.toNat
  if o.kind = 0 then (m.setTile o.unit (setFld (m.tile o.unit) pos 2048 v.toNat)).markTile o.unit.toNat
  else if o.kind = 1 then (m.setScales o.unit (setFld (m.scales o.unit) pos 2048 v.toNat)).markTile o.unit.toNat
  else
    let a : BitVec 2 := o.unit.setWidth 2
    (m.setAcc a (setFld (m.acc a) pos 2048 v.toNat)).markAcc a.toNat (o.unit.getLsbD 2)

/-- 256 bytes of a matrix register. -/
def Matrix.getGroup (m : Matrix) (o : FmtVmovt) : VReg :=
  let pos := 2048 * o.grp.toNat
  BitVec.ofNat 2048 (
    if o.kind = 0 then fld (m.tile o.unit) pos 2048
    else if o.kind = 1 then fld (m.scales o.unit) pos 2048
    else fld (m.acc (o.unit.setWidth 2)) pos 2048)

/-- The registers of a matrix unit that a `VMOVT` to it writes are in use from its issue on (R110, R141). -/
def Matrix.markUnit (m : Matrix) (o : FmtVmovt) : Matrix :=
  if o.kind = 2 then m.markAcc (o.unit.setWidth 2 : BitVec 2).toNat (o.unit.getLsbD 2) else m.markTile o.unit.toNat

/-- `VCVT` (R148): the narrowing of a group, the widening to one. -/
def State.runNarrow (s : State) (c : Nat) (t : BitVec 2) (o : FmtVcvt) : State :=
  let v := s.vx c
  let ty := o.ty.toNat
  let n := min v.len (tyCap ty)
  let src (e : Nat) : W32 := lane (v.get (o.va + BitVec.ofNat 5 (e / 64))) (e % 64)
  let r := narrowLoop ty o.xf (Rm.of o.rm) n src (List.range n)
    ⟨v.get o.vd, v.get (o.vd + 1), (s.thread c t).srseed, 0⟩
  let s := if cvtScaled ty o.xf then s.setV c (o.vd + 1) r.sc else s
  s.putVRes c t o.vd (zeroPad ty n r.dst, r.seed, r.fl)
def State.runWiden (s : State) (c : Nat) (t : BitVec 2) (o : FmtVcvt) : State :=
  let v := s.vx c
  let ty := o.ty.toNat
  let n := min v.len (tyCap ty)
  let g := (List.range (cvtGroup ty)).map (fun i => v.get (o.vd + BitVec.ofNat 5 i))
  let r := widenLoop ty o.xf (Rm.of o.rm) (v.get o.va) (v.get (o.va + 1)) (List.range n)
    (g, (s.thread c t).srseed, 0)
  (s.putGroup c o.vd r.1).modThread c t (fun y => { y.addFlags r.2.2 with srseed := r.2.1 })

/-- The effect of a vector instruction that stands or could stand in the queue, from the registers, `VL` and the generator as
they are; `VLD` and `VST` have theirs in memory. -/
def State.vecFn (s : State) (c : Nat) (t : BitVec 2) (q : VKind) : State :=
  let v := s.vx c
  let seed := (s.thread c t).srseed
  match q with
  | .arith op o => s.putVRes c t o.vd (varithRes op o.int (Rm.of o.rm) v.len (v.get o.vd) (v.get o.va) (v.get (o.va + 1)) seed)
  | .cmp o => s.setV c o.vd (vcmpRes o.cond.toNat o.int v.len (v.get o.vd) (v.get o.va))
  | .bit op o => s.setV c o.vd (vbitRes op v.len (v.get o.vd) (v.get o.va) (v.get (o.va + 1)))
  | .perm o => s.setV c o.vd (vpermRes (v.get o.vd) (v.get o.va))
  | .red op o =>
    let r := vredRes op (Rm.of o.rm) o.half v.len (v.get o.vd) (v.get o.va)
    s.putVRes c t o.vd (r.1, seed, r.2)
  | .sf op o => s.putVRes c t o.vd (vsfRes op (Rm.of o.rm) v.len (v.get o.vd) (v.get o.va) seed)
  | .narrow o => s.runNarrow c t o
  | .widen o => s.runWiden c t o
  | .bcast vd x => s.setV c vd (bcast x)
  | .movt true o => s.modCore c (fun k => { k with vx := k.vx.set o.vr (k.mx.getGroup o) })
  | .movt false o => s.modCore c (fun k => { k with mx := k.mx.putGroup o (k.vx.get o.vr) })
  | .vld .. => s
  | .vst .. => s

end Sys2Proof.Machine
end

