-- ==== Sys2Proof/Machine/MatrixOps.lean ====
section
/-!
DEFINITION. The engines' queues (R118-R120, R138): collection and finish (R119), the checksum lane's outcomes
(R130-R131), the finished-tile hand-over (R120, R151), and the instructions that wait in them.
-/
namespace Sys2Proof.Machine

/-! ### The queue (R118-R120) -/

/-- The `TFIN` of accumulator `acc` at position `j` has started: nothing before it still writes its accumulator, and the
finished-tile queue has an entry for it (R118, R120). -/
def Matrix.tfinStarts (m : Matrix) (j : Nat) (acc : BitVec 2) : Bool :=
  !(m.queue.take j).any (fun q => match q.kind with | .tmma _ a .. => a == acc | _ => false) &&
    m.ftq.length + (m.queue.take j).countP (fun q => match q.kind with | .tfin .. => true | _ => false) < 4

/-- Every instruction before position `i` of the queue has started: matrix instructions start in program order (R118). -/
def Matrix.clear (m : Matrix) (i : Nat) : Bool :=
  (m.queue.take i).zipIdx.all (fun p => match p.1.kind with
    | .tmma _ _ _ _ _ _ _ _ buf => buf.isSome
    | .tfin acc _ _ => m.tfinStarts p.2 acc
    | .zero .. => false
    | .mem .. => false
    | .movt => false)

/-- The first `TFIN` of the queue, with its position. -/
def Matrix.nextTfin (m : Matrix) : Option (Nat × MOp) :=
  (m.queue.zipIdx.find? (fun p => match p.1.kind with | .tfin .. => true | _ => false)).map (fun p => (p.2, p.1))

/-- A `TFIN` that has its turn and its accumulator, nothing before it able to raise an exception (R98), and finds the
finished-tile queue full, begins to wait: it is marked, and pennant 22 set (R120, R153). -/
def State.armTfin (s : State) (c : Nat) : State :=
  let m := (s.core c).mx
  match m.nextTfin with
  | some (i, ⟨t, n, .tfin acc tag false, snap, tiu⟩) =>
    if 4 ≤ m.ftq.length ∧ m.clear i ∧ !(s.core c).unsettled t n ∧
        !(m.queue.take i).any (fun q => match q.kind with | .tmma _ a .. => a == acc | _ => false) then
      (s.modCore c (fun k => { k with mx := { k.mx with queue := k.mx.queue.set i ⟨t, n, .tfin acc tag true, snap, tiu⟩ } })).setPenn
        c 22
    else s
  | _ => s

/-- Registers named by masks set to zero. -/
def Matrix.zeroMasks (m : Matrix) (tiles : BitVec 8) (accs : BitVec 4) : Matrix :=
  let m := (List.range 8).foldl (fun m i =>
    if tiles.getLsbD i then (m.setTile (BitVec.ofNat 3 i) 0).setScales (BitVec.ofNat 3 i) 0 else m) m
  (List.range 4).foldl (fun m i => if accs.getLsbD i then m.setAcc (BitVec.ofNat 2 i) 0 else m) m

/-- The thread waits in an instruction of the matrix engine; of the vector engine. -/
def Thread.inMatrix (x : Thread) : Bool :=
  match x.wait with
  | some (.rows ..) => true
  | some (.gather _ (.tsld _) _ _ _) => true
  | some (.gather _ (.tald _ _) _ _ _) => true
  | some (.gather _ (.row ..) _ _ _) => true
  | _ => false
def Thread.inVector (x : Thread) : Bool :=
  match x.wait with
  | some (.gather _ (.vld _) _ _ _) => true
  | some (.vftqRead ..) => true
  | some .vftqPop => true
  | _ => false

/-- The matrix engine, the vector engine has an instruction that has not retired. -/
def Core.matrixBusy (k : Core) : Bool := !k.mx.queue.isEmpty || k.thr.toList.any Thread.inMatrix
def Core.vectorBusy (k : Core) : Bool :=
  !k.vx.queue.isEmpty || !k.vx.done.isEmpty || k.thr.toList.any Thread.inVector

/-! ### The vector engine's queue (R138) -/

/-- A vector instruction has ended: it is counted (R401). One that has retired, nothing else being queued, sets pennant 20
(R153). -/
def Core.countVec (k : Core) (n : Nat) : Core :=
  { k with cnt := { k.cnt with pcVinstr := k.cnt.pcVinstr + BitVec.ofNat 64 n } }
def State.vecDone (s : State) (c : Nat) : State := (s.modCore c (fun k => k.countVec 1)).setPenn c 20

/-- The thread's vector instruction `n` has run, on the engine as `old`. It retires where nothing before it may raise an
exception; else what it changed is kept until that is so (R98). -/
def State.vecEnd (s : State) (c : Nat) (t : BitVec 2) (n : Nat) (old : VecEng) (popped : Option FtEntry) : State :=
  let k := s.core c
  if !k.unsettled t n && k.vx.done.isEmpty then
    if k.vx.queue.isEmpty then s.vecDone c else s.modCore c (fun k => k.countVec 1)
  else s.modCore c (fun k => { k with vx := { k.vx with done := k.vx.done ++ [⟨t, n, old.v, old.vl, popped⟩] } })

/-- The vector instructions that have run retire, as far as nothing before them may raise an exception. -/
def State.vecRetire (s : State) (c : Nat) : State :=
  let k := s.core c
  let ends := k.vx.done.takeWhile (fun d => !k.unsettled d.thr d.n)
  if ends.isEmpty then s
  else
    let rest := k.vx.done.drop ends.length
    let s := s.modCore c (fun k => { k.countVec ends.length with vx := { k.vx with done := rest } })
    if k.vx.queue.isEmpty && rest.isEmpty then s.setPenn c 20 else s

/-- The head `q` of the vector engine's queue runs, with the `VL` and the generator's run of its issue (R68, R154). -/
def State.vecRun (s : State) (c : Nat) (q : VOp) : State :=
  let k := s.core c
  let y := s.thread c q.thr
  let s := (s.modCore c (fun k => { k with vx := { k.vx with queue := k.vx.queue.tail, vl := q.vl } })).modThread c q.thr
    (fun y => { y with srseed := q.seed })
  let s := s.vecFn c q.thr q.kind
  let stat := (s.thread c q.thr).stat
  let s := s.modCore c (fun k' => { k' with vx := { k'.vx with vl := k.vx.vl }, mx := { k'.mx with tiu := k.mx.tiu } })
  let s := (s.modThread c q.thr (fun z => { z with srseed := y.srseed })).modCore c (fun k =>
    k.modThrAfter q.thr q.n (fun z => { z with stat := z.stat ||| stat &&& 0x70000 }))
  s.vecEnd c q.thr q.n k.vx none

/-- The head of the vector engine's queue runs, where it needs no memory; a `VMOVT` once its place is at the head of the
matrix engine's queue too, and nothing before it may raise an exception (R98, R141). None where it waits. -/
def State.vecHead (s : State) (c : Nat) : Option State :=
  let k := s.core c
  match k.vx.queue with
  | q :: _ =>
    match q.kind with
    | .vld .. => none
    | .vst .. => none
    | .movt .. =>
      if (k.mx.queue.head?.any (fun m => m.kind == .movt && m.thr == q.thr && m.n == q.n)) && !k.unsettled q.thr q.n then
        some ((s.modCore c (fun k => { k with mx := { k.mx with queue := k.mx.queue.tail } })).vecRun c q)
      else none
    | _ => some (s.vecRun c q)
  | [] => none

/-- One step of the engines that needs neither memory nor an event: a `TZERO` or `TFREE` at the head of the matrix engine's
queue, nothing before it able to raise an exception, or the head of the vector engine's. -/
def State.engineStep (s : State) (c : Nat) : Option State :=
  let k := s.core c
  match k.mx.queue with
  | ⟨t, n, .zero tiles accs, _, _⟩ :: rest =>
    if k.unsettled t n then s.vecHead c
    else some (s.modCore c (fun k => { k with mx := { k.mx.zeroMasks tiles accs with queue := rest } }))
  | _ => s.vecHead c

/-- The engines go on by such steps, `fuel` at most. -/
def State.engines (s : State) (c : Nat) : Nat → State
  | 0 => s
  | fuel + 1 => match s.engineStep c with | some s => s.engines c fuel | none => s

/-- After an instruction of the matrix engine has ended: what follows in the engines, pennant 16 when this one has retired
everything issued to it (R133), and the next `TFIN`. R133 does not say whether a discard that empties the engine sets the pennant: it
does where the engine goes on from here, as after `CHECKSUM_FAIL`, and not where another late exception or an uncorrectable collect
discards what waits (DESIGN CHOICE, log 145). -/
def State.afterMatrix (s : State) (c : Nat) : State :=
  let s := (s.engines c 24).vecRetire c
  if (s.core c).matrixBusy then s.armTfin c else s.setPenn c 16

/-! ### `TMMA` (R119) -/

/-- The LM rows of an operand with `SRC` = 1, as a tile image (R124). -/
def State.lmRows (s : State) (c : Nat) (w : W64) : BitVec 16384 :=
  (List.range (cfgRows w)).foldl (fun x r =>
    setFld x (512 * r) 512 (ofLE (Memory.readBytes s.mem (lmAddr c (cfgRowOff w r)) 64))) 0

/-- Some row of an operand with `SRC` = 1 is uncorrectable: its LM offset. -/
def State.lmRowPoison (s : State) (c : Nat) (w : W64) : Option Nat :=
  if cfgSrc w then
    (List.range (cfgRows w)).findSome? (fun r =>
      if s.poisoned (lmAddr c (cfgRowOff w r)) 64 then some (cfgRowOff w r) else none)
  else none

/-- The first `TMMA` of the queue that has not collected, with its position. -/
def Matrix.nextCollect (m : Matrix) : Option (Nat × MOp) :=
  (m.queue.zipIdx.find? (fun p => match p.1.kind with | .tmma _ _ _ _ _ _ _ _ none => true | _ => false)).map
    (fun p => (p.2, p.1))

/-- Collector buffers held (R119). -/
def Matrix.buffers (m : Matrix) : Nat :=
  m.queue.countP (fun q => match q.kind with | .tmma _ _ _ _ _ _ _ _ (some _) => true | _ => false)

/-- The accesses of a `TMMA`'s collector are held back by something earlier (R124). -/
def State.collectHeld (s : State) (c : Nat) (q : MOp) : Bool :=
  (s.core c).mem.accs.any (fun a => a.kind == .collect && a.thr == q.thr && a.n == q.n &&
    s.orderHeld c a.id a.space a.lo a.len false)

/-- The next `TMMA` copies its operands into a collector buffer, when every earlier instruction has started, a buffer is
free and nothing it reads is still to be written (R118, R119, R124); `e` is what the code over its LM rows finds. The flag names a thread that took an
exception. -/
def State.collect (s : State) (c : Nat) (e : Ecc) : State × Option (BitVec 2) :=
  let m := (s.core c).mx
  match m.nextCollect with
  | some (i, ⟨t, n, .tmma rm acc ta tb zf cfgA cfgB seed none, snap, tiu⟩) =>
    let q : MOp := ⟨t, n, .tmma rm acc ta tb zf cfgA cfgB seed none, snap, tiu⟩
    if 2 ≤ m.buffers ∨ !m.clear i ∨ s.collectHeld c q then (s, none)
    else
      let s := if cfgSrc cfgA then s.eccEvent (lmAddr c (cfgRowOff cfgA 0)) e
        else if cfgSrc cfgB then s.eccEvent (lmAddr c (cfgRowOff cfgB 0)) e else s
      match (s.lmRowPoison c cfgA).orElse (fun _ => s.lmRowPoison c cfgB) with
      | some off =>
        if (s.core c).mem.accs.any (fun a => a.thr == t && a.n < n) ∨ (s.core c).engineOpen t n ∨ 0 < i then (s, none)
        else
          let s := match s.partOf c with | some p => s.breakCond p 1 | none => s
          ((s.modCore c (fun k => k.discard t n snap)).enterExc c t
            { code := excEcc, stval := BitVec.ofNat 64 off }, some t)
      | none =>
        let b : Collected :=
          { rowsA := if cfgSrc cfgA then s.lmRows c cfgA else m.tile ta
            rowsB := if cfgSrc cfgB then s.lmRows c cfgB else m.tile tb
            scalesA := m.scales ta, scalesB := m.scales tb }
        (s.modCore c (fun k => { k with
          mx := { k.mx with queue := k.mx.queue.set i ⟨t, n, .tmma rm acc ta tb zf cfgA cfgB seed (some b), snap, tiu⟩ }
          mem := { k.mem with accs := k.mem.accs.filter (fun a => !(a.kind == .collect && a.thr == t && a.n == n)) } }),
          none)
  | _ => (s, none)

/-- The error source of a register-file locator (R413-R414). -/
def locatorSource (w : W64) : Nat :=
  let f := fld w 12 4
  if f ≤ 3 then 2 else if f ≤ 5 then 3 else 4

/-- A thread that waits in `VFTQ` goes on when the queue holds an entry and no earlier instruction of the vector engine
waits (R138, R151). What `READ` and `POP` do is undone where an instruction before them is discarded later (R98). A `READ`
of an entry whose data fail their code has no effect and raises `ECC_UNCORR` (R154). -/
def State.ftqServe (s : State) (c : Nat) (t : BitVec 2) : State :=
  let k := s.core c
  let n := (s.thread c t).n
  if !k.vx.queue.isEmpty then s
  else
    match (s.thread c t).wait, k.mx.ftq with
    | some (.vftqRead _ _ (some loc)), _ :: _ =>
      (s.coreUncorrected c t.toNat (locatorSource loc) excEcc loc true).modThread c t (fun x =>
        { x with wait := some (.trapping { code := excEcc, stval := loc, loc := true }) })
    | some (.vftqRead vr g none), e :: _ =>
      ((s.setV c vr (BitVec.ofNat 2048 (e.bytes.toNat >>> (2048 * g.toNat)))).wake c t (fun x => x)).vecEnd c t n k.vx none
    | some .vftqPop, e :: rest =>
      ((((s.modCore c (fun k => { k with mx := { k.mx with ftq := rest, ftOut := k.mx.ftOut + 1 } })).setPenn c 21).wake c
        t (fun x => x)).vecEnd c t n k.vx (some e)).armTfin c
    | _, _ => s

/-- Every thread of the core that waits in `VFTQ` is served where it can be. -/
def State.ftqServeAll (s : State) (c : Nat) : State :=
  ([0, 1, 2, 3] : List (BitVec 2)).foldl (fun s t => s.ftqServe c t) s

/-- The first `TMMA` of the queue, with its position. -/
def Matrix.nextFinish (m : Matrix) : Option (Nat × MOp) :=
  (m.queue.zipIdx.find? (fun p => match p.1.kind with | .tmma .. => true | _ => false)).map
    (fun p => (p.2, p.1))

/-- A `TFIN` of an accumulator, or a `TZERO` or `TFREE`, stands before position `i`. -/
def Matrix.tfinBefore (m : Matrix) (i : Nat) (acc : BitVec 2) : Bool :=
  (m.queue.take i).any (fun q => match q.kind with | .tfin a _ _ => a == acc | .zero .. => true | _ => false)

/-- Array cycles of a `TMMA` (R112-R113). -/
def arrayCycles (cfg : W64) : Nat :=
  let t := cfgFmt cfg
  let cm : Nat × Nat :=
    if t = 0 ∨ t = 7 then (32, 128) else if t = 1 ∨ t = 2 then (40, 80) else if t = 5 ∨ t = 6 then (64, 32) else (32, 64)
  (cm.1 * cfgK cfg + cm.2 - 1) / cm.2

/-- The first `TMMA`, collected, finishes (R119): result, flags, retirement; `mismatch` says that its first attempt
failed the checksum and its reissue passed (R131-R132). -/
def State.finish (s : State) (c : Nat) (mismatch : Bool) : State :=
  let m := (s.core c).mx
  match m.nextFinish with
  | some (i, ⟨t, n, .tmma rm acc _ _ zf cfgA cfgB seed (some b), _, _⟩) =>
    if m.tfinBefore i acc ∨ (s.core c).unsettled t n then s
    else
      let x := tmmaResult cfgA cfgB b (Rm.of rm) zf seed (m.acc acc)
      let s := s.modCore c (fun k =>
        let k := { k with
          mx := { k.mx.setAcc acc x.1 with queue := k.mx.queue.eraseIdx i }
          cnt := { k.cnt with
            pcTmma := k.cnt.pcTmma + 1
            pcArray := k.cnt.pcArray + BitVec.ofNat 64 (arrayCycles cfgA * if mismatch then 2 else 1) } }
        k.modThrAll t (fun y => y.addFlags x.2))
      let s :=
        if mismatch then
          let r := m.reissues + 1
          let s := s.modCore c (fun k => { k with
            mx := { k.mx with reissues := r }, cnt := { k.cnt with pcReissue := k.cnt.pcReissue + 1 } })
          let s := ((s.countErr 7 false).setPenn c 17).traceCore c t.toNat 0x06 acc.toNat
          if 2 ≤ r then (match s.partOf c with | some p => s.breakCond p 1 | none => s) else s
        else s
      (s.afterMatrix c).ftqServeAll c
  | _ => s

/-- The first `TMMA` fails its checksum twice (R131): `CHECKSUM_FAIL`, once every earlier access of its thread is
complete; pennant 16 as `afterMatrix` says (log 145). -/
def State.checksumFails (s : State) (c : Nat) : State :=
  let m := (s.core c).mx
  match m.nextFinish with
  | some (i, ⟨t, n, .tmma _ acc _ _ _ cfgA _ _ (some _), snap, _⟩) =>
    if 0 < i ∨ (s.core c).mem.accs.any (fun a => a.thr == t && a.n < n) then s
    else
      let s := s.modCore c (fun k => { k with cnt := { k.cnt with
        pcReissue := k.cnt.pcReissue + 1
        pcArray := k.cnt.pcArray + BitVec.ofNat 64 (2 * arrayCycles cfgA) } })
      let s := (s.coreUncorrected c t.toNat 7 excChecksum (BitVec.ofNat 64 acc.toNat) false).setPenn c 31
      let s := s.traceCore c t.toNat 0x06 (acc.toNat + 256)
      ((s.modCore c (fun k => k.discard t n snap)).enterExc c t
        { code := excChecksum, stval := BitVec.ofNat 64 acc.toNat }).afterMatrix c
  | _ => s

/-- The queue's first `TFIN` ends its copy (R120, R150): the entry becomes readable and the accumulator is freed. -/
def State.tfinDone (s : State) (c : Nat) : State :=
  let m := (s.core c).mx
  match m.nextTfin with
  | some (i, ⟨t, n, .tfin acc tag waited, _, tiu⟩) =>
    if !m.clear i ∨ !m.tfinStarts i acc ∨ (s.core c).unsettled t n then s
    else
      let e : FtEntry := ⟨m.acc acc, tag, tiu.getLsbD (12 + acc.toNat), acc⟩
      let s := s.modCore c (fun k => { k with mx := { k.mx.setAcc acc 0 with
        queue := k.mx.queue.eraseIdx i, ftq := k.mx.ftq ++ [e], ftIn := k.mx.ftIn + 1 } })
      let s := s.setPenn c 18
      let s := if waited then s.traceCore c t.toNat 0x07 (Config.cycles s.free).toNat else s
      (s.afterMatrix c).ftqServeAll c
  | _ => s

/-! ### Memory instructions in the queues (R118, R121-R123, R126, R138, R140) -/

/-- What the memory instruction at the head of a queue came to: its bytes are there, or its lines may be written; it waits; it
raises an exception; or an earlier access raised one in a thread. -/
inductive EngRes where
  | ok (s : State) (ls : List (W64 × Resolved)) (bs : List Byte)
  | wait (s : State)
  | trap (s : State) (e : Exc)
  | other (s : State) (t : BitVec 2)

/-- The lines of the head's instruction, number `id` of the core's accesses, resolved and in order (R218). -/
def State.engLines (s0 : State) (c : Nat) (t : BitVec 2) (id : Nat) (need : Need) (user : Bool) (lines : List RowLine) : EngRes :=
  match s0.resolveLines c need user 64 lines with
  | (s, .error e) => .trap s e
  | (s, .ok ls) =>
    match s.orderLines c t id ls (need == .write) 64 with
    | .stuck => .wait s0
    | .trapped s => .other s t
    | .ok s => .ok s ls []

/-- The lines are read; those of another device are asked for in its slots (R173-R174). -/
def State.engRead (s0 : State) (c : Nat) (vec : Bool) (t : BitVec 2) (id : Nat) (user : Bool) (lines : List RowLine) : EngRes :=
  match (s0.core c).gath vec with
  | some g =>
    if g.todo.isEmpty && g.lines.all Option.isSome then
      .ok (s0.modCore c (fun k => k.setGath vec none)) [] (g.lines.flatMap (fun b => b.getD []))
    else .wait s0
  | none =>
    match s0.engLines c t id .read user lines with
    | .ok s ls _ =>
      match s.readLines 64 ls with
      | .error ea => .trap (s.eccReached c) { code := excEcc, stval := ea }
      | .ok bs =>
        let s := s.countLines c ls false
        if bs.all Option.isSome then .ok s ls (bs.flatMap (fun b => b.getD []))
        else .wait (s.modCore c (fun k => k.setGath vec (some ⟨id, bs, remoteLines 0 ls, 64⟩)))
    | r => r

/-- The lines are written with the bytes of `bs`, once nothing of the thread before its instruction `n` may raise an
exception (R98). -/
def State.engWrite (s0 : State) (c : Nat) (t : BitVec 2) (n id : Nat) (user : Bool) (lines : List RowLine) (bs : List (List Byte)) :
    EngRes :=
  if (s0.core c).unsettled t n then .wait s0
  else
    match s0.engLines c t id .write user lines with
    | .ok s ls _ =>
      match ls.find? (fun p => match p.2.place with | .here pa => !s.homeUp pa | .remote _ => false) with
      | some p => .trap s { code := excAccess, stval := p.1 }
      | none => .ok ((s.countLines c ls true).writeLines c t ls bs) ls []
    | r => r

/-- Instruction `n` of thread `t` raises an exception late, and what follows it is discarded (R98); it waits while something
before it has not taken full effect. -/
def State.engTrap (s0 s : State) (c : Nat) (t : BitVec 2) (n : Nat) (snap : Thread) (e : Exc) : State × Option (BitVec 2) :=
  if (s.core c).mem.accs.any (fun a => a.thr == t && a.n < n) || (s.core c).engineOpen t n then (s0, none)
  else ((s.modCore c (fun k => k.discard t n snap)).enterExc c t e, some t)

/-- The head of the matrix queue, a memory instruction of number `id`, has ended. -/
def State.memEnd (s : State) (c id : Nat) : State :=
  (s.modCore c (fun k => { k.dropAcc id with mx := { k.mx with queue := k.mx.queue.tail } })).afterMatrix c

/-- The addresses of row `r` of an instruction, of `per` lines. -/
def rowAt (base stride : W64) (per r : Nat) : List RowLine :=
  (List.range per).map (fun i =>
    ⟨base + BitVec.ofNat 64 r * stride + BitVec.ofNat 64 (64 * i), base + BitVec.ofNat 64 r * stride⟩)

/-- The rows of a queued `TLD` or `TST` move in ascending order from row `TROW` on (R126), `fuel` at most: an exception of
the first one comes before the row check (log 115). The tile of a `TLD` stays in use from its first row on, whatever its
later rows raise. -/
def State.rowsRun (s0 : State) (c : Nat) (q : MOp) (store : Bool) (id : Nat) (tile : BitVec 3) (base stride : W64) :
    Nat → State × Option (BitVec 2)
  | 0 => (s0, none)
  | fuel + 1 =>
    let m := (s0.core c).mx
    let w := m.tcfgOf tile
    let r := fld m.trow 0 5
    let user := !q.snap.sup
    let row := rowAt base stride 1 r
    let shape := !rowsOk w || decide (cfgRows w ≤ r)
    let res :=
      if shape then
        match s0.resolveLines c (if store then .write else .read) user 64 row with
        | (s, .error e) => .trap s e
        | (s, .ok ls) => .ok s ls []
      else if store then s0.engWrite c q.thr q.n id user row [toLE 64 (fld (m.tile tile) (512 * r) 512)]
      else s0.engRead c false q.thr id user row
    let bad (s : State) (e : Exc) := s0.engTrap s c q.thr q.n q.snap e
    match res with
    | .wait s => (s, none)
    | .other s t => (s, some t)
    | .trap s e => bad s e
    | .ok s _ bs =>
      if shape then
        bad (s0.modCore c (fun k => { k with mx := { k.mx with
          tfault := BitVec.ofNat 64 (2 + tile.toNat * 16 + (if store then 256 else 0)) } })) { code := excShape, stval := 0 }
      else
        let moved (m : Matrix) : Matrix :=
          if store then m
          else
            { m.setTile tile (setFld (m.tile tile) (512 * r) 512 (ofLE bs)) with
              queue := m.queue.set 0 { q with tiu := setBit q.tiu tile.toNat true } }
        if r + 1 < cfgRows w then
          (s.modCore c (fun k => { k with mx := { moved k.mx with trow := BitVec.ofNat 64 (r + 1) } })).rowsRun c
            { q with tiu := if store then q.tiu else setBit q.tiu tile.toNat true } store id tile base stride fuel
        else ((s.modCore c (fun k => { k with mx := { moved k.mx with trow := 0 } })).memEnd c id, none)

/-- `TSLD`, `TSST`, `TALD` and `TAST` at the head of the queue move all their rows or none (R123). -/
def State.unitRun (s0 : State) (c : Nat) (q : MOp) (op : TileMem) (id : Nat) (reg : BitVec 5) (base stride : W64) :
    State × Option (BitVec 2) :=
  let m := (s0.core c).mx
  let user := !q.snap.sup
  let ts : BitVec 3 := reg.setWidth 3
  let acc : BitVec 2 := reg.setWidth 2
  let scaleLines := rowLines base stride 8 1
  let accLines := rowLines base stride 32 2
  let res := match op with
    | .tsld => s0.engRead c false q.thr id user scaleLines
    | .tald => s0.engRead c false q.thr id user accLines
    | .tsst => s0.engWrite c q.thr q.n id user scaleLines (cutLines (m.scales ts).toNat 8)
    | _ => s0.engWrite c q.thr q.n id user accLines (cutLines (m.acc acc).toNat 64)
  match res with
  | .wait s => (s, none)
  | .other s t => (s, some t)
  | .trap s e => s0.engTrap s c q.thr q.n q.snap e
  | .ok s _ bs =>
    ((s.modCore c (fun k => { k with mx := match op with
      | .tsld => k.mx.setScales ts (BitVec.ofNat 4096 (ofLE bs))
      | .tald => k.mx.setAcc acc (BitVec.ofNat 32768 (ofLE bs))
      | _ => k.mx })).memEnd c id, none)

/-- The memory instruction at the head of the matrix queue goes on. -/
def State.memRun (s : State) (c : Nat) : State × Option (BitVec 2) :=
  match (s.core c).mx.queue with
  | q :: _ =>
    match q.kind with
    | .mem .tld id reg base stride => s.rowsRun c q false id (reg.setWidth 3) base stride 32
    | .mem .tst id reg base stride => s.rowsRun c q true id (reg.setWidth 3) base stride 32
    | .mem op id reg base stride => s.unitRun c q op id reg base stride
    | _ => (s, none)
  | [] => (s, none)

/-- A `VST` has read its register: its rows are written once nothing before it may raise an exception (R98, R140). -/
def State.vstGo (s : State) (c : Nat) (id : Nat) (ls : List (W64 × Resolved)) (v : VReg) : State :=
  s.modCore c (fun k => { k with mem := { k.mem with accs := k.mem.accs.map (fun a =>
    if a.id = id then { a with kind := .vst ls v } else a) } })

/-- The memory instruction at the head of the vector engine's queue goes on. -/
def State.vecMem (s0 : State) (c : Nat) : State × Option (BitVec 2) :=
  let k := s0.core c
  let pop (s : State) : State := s.modCore c (fun k => { k with vx := { k.vx with queue := k.vx.queue.tail } })
  match k.vx.queue with
  | q :: _ =>
    match q.kind with
    | .vld id vr base stride =>
      match s0.engRead c true q.thr id (!q.snap.sup) (rowLines base stride 4 1) with
      | .wait s => (s, none)
      | .other s t => (s, some t)
      | .trap s e => s0.engTrap s c q.thr q.n q.snap e
      | .ok s _ bs =>
        ((((pop s).modCore c (fun k => k.dropAcc id)).setV c vr (BitVec.ofNat 2048 (ofLE bs))).vecEnd c q.thr q.n k.vx none, none)
    | .vst id vr base stride =>
      match s0.resolveLines c .write (!q.snap.sup) 64 (rowLines base stride 4 1) with
      | (s, .error e) => s0.engTrap s c q.thr q.n q.snap e
      | (s, .ok ls) => (((pop s).vstGo c id ls (k.vx.get vr)).vecEnd c q.thr q.n k.vx none, none)
    | _ => (s0, none)
  | [] => (s0, none)

/-! ### Bringing the engines forward -/

/-- The head of the matrix queue runs, as far as the engine alone can bring it. -/
def State.matrixHead (s : State) (c : Nat) : State × Option (BitVec 2) :=
  match (s.core c).mx.queue with
  | ⟨_, _, .tmma _ _ _ _ _ _ _ _ none, _, _⟩ :: _ =>
    match s.collect c .good with
    | (s, some t) => (s, some t)
    | (s, none) => (s.finish c false, none)
  | ⟨_, _, .tmma .., _, _⟩ :: _ => (s.finish c false, none)
  | ⟨_, _, .tfin .., _, _⟩ :: _ => (s.tfinDone c, none)
  | ⟨_, _, .mem .., _, _⟩ :: _ => s.memRun c
  | _ => (s.afterMatrix c, none)

/-- The accesses before an instruction at the head of a queue complete, and it runs: of the matrix engine, or of the vector
engine where that has one. The flag says that thread `t` took an exception. -/
def State.matrixStep (s : State) (c : Nat) (t : BitVec 2) : State × Option (BitVec 2) :=
  let before (t' : BitVec 2) (n : Nat) : List Nat :=
    ((s.core c).mem.accs.filter (fun a => !a.alone && (a.n < n || a.thr != t'))).map Acc.id
  match (s.core c).mx.queue, (s.core c).vx.queue with
  | q :: _, _ =>
    match s.forceList c t (before q.thr q.n) with
    | (s, true) => (s, some t)
    | (s, false) =>
      match s.matrixHead c with
      | (s, some t) => (s, some t)
      | (s, none) => s.vecMem c
  | [], q :: _ =>
    match s.forceList c t (before q.thr q.n) with
    | (s, true) => (s, some t)
    | (s, false) => (s.afterMatrix c).vecMem c
  | [], [] => (s, none)

/-- Bring the engines forward, at most `fuel` instructions; stop when thread `t` takes an exception. -/
def State.matrixRun (s : State) (c : Nat) (t : BitVec 2) : Nat → State × Bool
  | 0 => (s, false)
  | fuel + 1 =>
    match s.matrixStep c t with
    | (s, some t') => if t' = t then (s, true) else s.matrixRun c t fuel
    | (s, none) =>
      if (s.core c).mx.queue.isEmpty && (s.core c).vx.queue.isEmpty then (s, false) else s.matrixRun c t fuel

/-- The rows of every `VST` that may be written are. -/
def State.vstServe (s : State) (c : Nat) : State :=
  ((s.core c).mem.accs.filter (fun a => match a.kind with | .vst _ _ => true | _ => false)).foldl
    (fun s a => (s.forceAcc c a.id).1) s

/-- What in core `c` waits for its own earlier work goes on where that has ended: an exception found late, a memory
instruction of an engine, and what follows it. -/
def State.kick (s : State) (c : Nat) : State :=
  let s := (s.lateServe c).1
  let s := (s.memRun c).1
  let s := (s.vecMem c).1
  ((s.engines c 24).vstServe c).vecRetire c |>.armTfin c

end Sys2Proof.Machine
end

