-- ==== Sys2Proof/Machine/Issue.lean ====
section
/-!
DEFINITION. Issuing one instruction (R78, R84, R86, R93-R100): readiness, checks in the order of R99, the predicate,
waiting for operands, the instruction's own effect, and its retirement or exception.

A wait that the core's own earlier work ends (an operand in flight, a full scoreboard, an engine to drain) is spent
inside the command: that work is completed first (DESIGN CHOICE, log 6). A wait that only something else can end leaves the state as
it was: the instruction has not issued (R78).
-/
namespace Sys2Proof.Machine

/-- The outcomes of a command are next states. -/
abbrev Out := Host.Outcome State Fault Refusal

/-- What an instruction's own effect came to. -/
inductive Res where
  /-- It is complete, and the thread goes on to the next instruction. -/
  | done (s : State)
  /-- It is complete, and the thread goes on at an address. -/
  | jump (s : State) (pc : W64)
  /-- It raises an exception. -/
  | trap (s : State) (e : Exc)
  /-- The thread now waits in it. -/
  | wait (s : State)
  /-- It cannot issue now. -/
  | stall
  /-- Nothing more is done: an earlier instruction of the thread raised its exception and this one is discarded (R98), or
  the state says what the thread does next. -/
  | gone (s : State)

/-- What issue needs to know of an instruction: its word, whether its encoding is legal, whether it needs supervisor
mode, the general registers it reads or writes, whether earlier work of the thread must be complete before it
(its effect cannot be undone by a late exception, R98), and its base register (R96). -/
structure Info where
  word : W32
  legal : Bool
  priv : Bool := false
  uses : List (BitVec 5) := []
  drains : Bool := false
  base : Option (BitVec 5 × Bool) := none

/-- The thread can issue (R78): its core is present and clocked, it is not stopped and waits in nothing. -/
def State.ready (s : State) (c : Nat) (t : BitVec 2) : Bool :=
  s.coreRuns c && !(s.ctl c t).stopped && !(s.ctl c t).halted &&
    (s.thread c t).wait.isNone

/-- The thread is at a boundary where an interrupt, `WATCHDOG` or stop request is taken (R102). -/
def Thread.atBoundary (x : Thread) : Bool :=
  !(x.rptOn && x.rptN) &&
    x.loads.all (fun l => l.n + 3 ≤ x.n || (x.rptOn && !x.rptN && x.rptFrom ≤ l.n))

/-- Loads whose delay has ended and whose values have arrived become visible, the latest of one register last; an
earlier load of that register still on its way then writes nothing (R93-R94). -/
def Thread.commit (x : Thread) : Thread :=
  let due (l : PLoad) : Bool := l.n + 3 ≤ x.n && l.val.isSome
  let shown := x.loads.filter due
  let rest := (x.loads.filter (fun l => !due l)).map (fun l =>
    if shown.any (fun m => m.rd == l.rd && l.n < m.n) then { l with rd := 0 } else l)
  { shown.foldl Thread.showLoad x with loads := rest }

/-- Instruction `n` of a thread that is about to issue its instruction `now` holds back that issue: 32 instructions are
unretired with it (R98). -/
def windowFull (n now : Nat) : Bool := n + 32 ≤ now

/-- An instruction of the thread that may raise an exception is in an engine. -/
def Core.engineRaises (k : Core) (t : BitVec 2) : Bool :=
  k.mx.queue.any (fun q => q.thr == t && q.kind.mayRaise) || k.vx.queue.any (fun q => q.thr == t && q.kind.mayRaise)

/-- An instruction that the thread issued to an engine has not retired, and is so old that the window of 32 is full (R98). -/
def Core.engineOld (k : Core) (t : BitVec 2) (now : Nat) : Bool :=
  k.mx.queue.any (fun q => q.thr == t && windowFull q.n now) || k.vx.queue.any (fun q => q.thr == t && windowFull q.n now) ||
    k.vx.done.any (fun q => q.thr == t && windowFull q.n now)

/-- The number below which the accesses of a thread must be complete before it issues an instruction that reads or writes
`uses` (R93, R98). -/
def Core.mustEnd (k : Core) (t : BitVec 2) (x : Thread) (uses : List (BitVec 5)) : Nat :=
  let vals := (x.loads.filter (fun l => l.val.isNone && l.n + 3 ≤ x.n && l.rd != 0 && uses.contains l.rd)).map PLoad.id
  let old := (k.mem.accs.filter (fun a => a.thr == t && windowFull a.n x.n)).map Acc.id
  (vals ++ old).foldl (fun m i => max m (i + 1)) 0

/-- The engines go on, and then the accesses of thread `t` numbered below `upto` that waited for them. -/
def State.engineDrain (s : State) (c : Nat) (t : BitVec 2) (upto : Nat) : Drain :=
  match s.matrixRun c t 24 with
  | (s, true) => .trapped s
  | (s, false) => s.drainAccs c t upto

/-- The next instruction of a thread is made ready to take effect: the operands that it names have arrived (R93), the
window has room (R98), and, where it `drains`, earlier instructions of the thread are complete and can raise no
exception. -/
def State.settle (s : State) (c : Nat) (t : BitVec 2) (uses : List (BitVec 5)) (drains : Bool) : Drain :=
  let s := s.modThread c t Thread.commit
  let now := (s.thread c t).n
  let upto := if drains then (s.core c).mem.nextId else (s.core c).mustEnd t (s.thread c t) uses
  let first := match s.drainAccs c t upto with
    | .stuck => if drains ∨ 0 < upto then s.engineDrain c t upto else .stuck
    | r => r
  match first with
  | .ok s =>
    let s := s.modThread c t Thread.commit
    if drains ∨ (s.core c).engineOld t now then
      match s.engineDrain c t upto with
      | .ok s =>
        if (s.core c).engineOld t now ∨ (drains ∧ (s.core c).engineRaises t) then .stuck else .ok (s.vecRetire c)
      | r => r
    else .ok s
  | r => r

/-- What the thread has issued is brought as far as the device alone can bring it, for an instruction whose effect can be
undone (R98). -/
def State.soft (s : State) (c : Nat) (t : BitVec 2) : Drain :=
  match s.forceList c t (s.core c).forcible with
  | (s, true) => .trapped s
  | (s, false) =>
    match s.matrixRun c t 24 with
    | (s, true) => .trapped s
    | (s, false) => .ok (s.vecRetire c)

/-- The thread has nothing in an engine but `TFIN`s that wait for space. -/
def Core.engineClear (k : Core) (t : BitVec 2) : Bool :=
  !(k.mx.open.any (fun p => p.1.thr == t)) && !(k.vx.queue.any (fun q => q.thr == t))

/-- The thread takes an exception at its present instruction: every earlier instruction completes first, and an
exception of one of those is taken in its place (R98-R100); none where one waits for something outside. A `TFIN` that waits
for space in the finished-tile queue does not keep the exception back (DESIGN CHOICE, log 130). -/
def State.raise (s : State) (c : Nat) (t : BitVec 2) (e : Exc) : Option State :=
  match s.settle c t [] true with
  | .ok s => if (s.core c).engineClear t then some (s.enterExc c t e) else none
  | .trapped s => some s
  | .stuck => none

/-! ### Events at a boundary (R101-R102) -/

/-- The pennants that may interrupt the thread now, as bits 0-15 of `IMASK` (R101). -/
def State.pendingInts (s : State) (c : Nat) (t : BitVec 2) : W32 :=
  let x := s.thread c t
  if x.stat.getLsbD 2 then ((s.core c).penn >>> 16) &&& x.imask.setWidth 32 &&& 0xFFFF else 0

/-- The highest bit that is set. -/
def highBit (v : W32) : Nat := v.toNat.log2

/-- `WATCHDOG`, a stop request or an interrupt is due for the thread. -/
def State.eventDue (s : State) (c : Nat) (t : BitVec 2) : Bool :=
  (s.thread c t).wdog || (s.ctl c t).stopReq || s.pendingInts c t != 0

/-- The entry that a thread's present instruction of many lines holds is given up. -/
def Core.dropLines (k : Core) (t : BitVec 2) : Core :=
  { k with mem := { k.mem with accs := k.mem.accs.filter (fun a =>
      !(a.thr == t && a.n == (rget k.thr (tix t)).n && (match a.kind with | .lines _ _ => true | _ => false))) } }

/-- The first read of a thread's `WAITM`. -/
def Acc.waitmOf (a : Acc) (t : BitVec 2) : Bool := a.thr == t && a.kind == .waitm

/-- A thread's `WAITM` is given up: its reads and their requests are forgotten (R230). -/
def State.dropWaitm (s : State) (c : Nat) (t : BitVec 2) : State :=
  let mine := ((s.core c).mem.accs.filter (fun a => a.waitmOf t)).map Acc.id
  let s := { s.dropPolls c t with remReqs := (s.dropPolls c t).remReqs.filter (fun q =>
    match q.org with | .acc d id => !(d == c && mine.contains id) | _ => true) }
  s.modCore c (fun k => { k with mem := { k.mem with accs := k.mem.accs.filter (fun a => !a.waitmOf t) } })

/-- A waiting thread leaves its instruction with no effect of it, so that an event is taken there (R99, R102, R126,
R185, R193, R230); none while the instruction cannot be left. -/
def State.cancelWait (s : State) (c : Nat) (t : BitVec 2) : Option State :=
  let left (s : State) : State := s.modThread c t (fun x => { x with wait := none })
  match (s.thread c t).wait with
  | none => some s
  | some (.gather ..) => none
  | some (.trapping _) => none
  | some (.send _ _ _ .flying _) => none
  | some (.send _ _ _ (.answered _) _) => none
  | some (.send _ _ _ .lost _) => none
  | some (.waitm ..) => some (left (s.dropWaitm c t))
  | some (.rows ..) => some (left (s.modCore c (fun k => k.dropLines t)))
  | some (.sdesc seq _ _ _ _) => some (left (s.modCore c (fun k => k.dropAcc seq)))
  | some _ => some (left s)

/-- The thread waits in an instruction at which `WATCHDOG` and a stop request are taken at once (R99, R102). -/
def Thread.waitsOpen (x : Thread) : Bool :=
  match x.wait with
  | none => false
  | some (.rows ..) => false
  | some (.gather ..) => false
  | some (.trapping _) => false
  | some _ => true

/-- Instructions of the thread that stand behind a `TFIN` which waits for space cannot end before a `POP` that the thread has
still to issue: an event that is taken discards them, and the thread is at the first of them again (R98, R151; DESIGN
CHOICE, log 130). -/
def State.unblock (s : State) (c : Nat) (t : BitVec 2) : State :=
  let m := (s.core c).mx
  match m.fullAt with
  | some i =>
    match m.open.find? (fun p => i < p.2 && p.1.thr == t) with
    | some (q, _) => s.modCore c (fun k => k.discard t q.n q.snap)
    | none => s
  | none => s

/-- Thread `t` stops (R102): every issued instruction retires, and `PC` names the next one. -/
def State.takeStop (s : State) (c : Nat) (t : BitVec 2) : Option State :=
  match (s.unblock c t).settle c t [] true with
  | .ok s =>
    if !(s.core c).engineClear t then none
    else
      some ((s.modThread c t Thread.showAll).setCtl c t
        { s.ctl c t with stopped := true, stopReq := false, run := false })
  | .trapped s => some s
  | .stuck => none

/-- `WATCHDOG` is taken: `STVAL` is the low half of the partition's `STEPNO` (R99). -/
def State.takeWdog (s : State) (c : Nat) (t : BitVec 2) : Option State :=
  ((s.unblock c t).modThread c t (fun y => { y with wdog := false })).raise c t
    { code := excWatchdog, stval := BitVec.ofNat 64 (s.rfld (prt ((s.partOf c).getD 0) 0x28) 0 32) }

/-- The event that is due for the thread is taken where the thread stands: `WATCHDOG`, then a stop request, then the
interrupt of the highest code (R99, R101, R102). None while it cannot be taken. The order among the three kinds is the
model's (DESIGN CHOICE, log 13). -/
def State.takeEvent (s : State) (c : Nat) (t : BitVec 2) : Option State :=
  let x := s.thread c t
  let now := x.atBoundary || x.waitsOpen
  if x.wdog && now then (s.cancelWait c t).bind (fun s => s.takeWdog c t)
  else if (s.ctl c t).stopReq && now then (s.cancelWait c t).bind (fun s => s.takeStop c t)
  else if s.pendingInts c t != 0 && x.atBoundary then
    (s.cancelWait c t).bind (fun s => (s.unblock c t).raise c t { code := 0x10 + highBit (s.pendingInts c t), stval := 0 })
  else none

/-- The predicate of an instruction (R86). -/
def predOf (x : Iss) (th : Thread) : Bool := th.getP x.pi != x.pn

/-- The state after an exception at the instruction, or unchanged while it cannot be taken. -/
def State.raiseOr (s s0 : State) (c : Nat) (t : BitVec 2) (e : Exc) : Out :=
  match s.raise c t e with
  | some s' => .next s'
  | none => .next s0

/-- An instruction has been fetched: the instruction cache of 32 KiB holds its line (R17). -/
def Core.fetched (k : Core) (pc : W64) : Core :=
  let l := pc.toNat / 64
  { k with icache := (l :: k.icache.filter (· != l)).take 512 }

/-- The word fetched in place of the command's instruction, where it is one that no row of the opcode table has. -/
def noRow (x : Iss) : Option W32 :=
  match x.hw with
  | .word w => if (decodeCore x.core x.thr .ok 0 w.toNat).isNone then some w else none
  | _ => none

/-- The exception of a word that no row has: `UNDEF`, with `EMUL` for opcode 63 (R87-R92, R99). -/
def undefWord (w : W32) : Exc := { code := excUndef, stval := w.setWidth 64, emul := fld w 26 6 == 63 }

/-- What issue meets and goes on with: an error that the core corrects, and a parity error of the scoreboard, which raises nothing
(R413, R422). A line or a translation that is no longer held cannot be in error. -/
def State.hwEvent (s : State) (x : Iss) : State :=
  let c := x.core.toNat
  match x.hw with
  | .corrected .icache => s.coreCorrected c 1
  | .corrected (.dcache line) =>
    let (bad, good) := (s.core c).mem.dcache.partition (fun d => d.ea == 64 * line)
    if bad.isEmpty then s else (s.modCore c (fun k => { k with mem := { k.mem with dcache := good } })).coreCorrected c 1
  | .corrected .tile => s.coreCorrected c 2
  | .corrected .vector => s.coreCorrected c 3
  | .corrected .queue => s.coreCorrected c 4
  | .corrected (.translation v l) =>
    let (bad, good) := (s.core c).mem.tlb.partition (fun e => e.vpage == v && e.log == l)
    if bad.isEmpty then s else (s.modCore c (fun k => { k with mem := { k.mem with tlb := good } })).coreCorrected c 6
  | .scoreboard => s.coreUncorrected c x.thr.toNat 6 0 0 false
  | _ => s

/-- Checks that come before the predicate (R86, R99): fetch faults, then `UNDEF` and `PRIV`. -/
def State.early (s : State) (x : Iss) (i : Info) : State × Option Exc :=
  let th := s.thread x.core.toNat x.thr
  match s.resolve x.core.toNat th.pc .fetch (!th.sup) with
  | (s, .error e) => (s, some e)
  | (s, .ok _) =>
    let s := (s.modCore x.core.toNat (fun k => k.fetched th.pc)).hwEvent x
    if x.hw = .fetch then (s.eccReached x.core.toNat, some { code := excEcc, stval := th.pc })
    else if let some w := noRow x then (s, some (undefWord w))
    else if !i.legal || (x.pn && x.pi == 0) then (s, some { code := excUndef, stval := i.word.setWidth 64 })
    else if i.priv && !th.sup then (s, some { code := excPriv, stval := i.word.setWidth 64 })
    else (s, none)

/-- The instruction's own part of issue, its operands ready. -/
def State.runBody (s s0 : State) (x : Iss) (body : State → Res) : Out :=
  let c := x.core.toNat
  let t := x.thr
  let r := body s
  match r, x.hw with
  | .trap s e, _ => s.raiseOr s0 c t e
  | .stall, _ => .next s0
  | .gone s, _ => .next s
  | _, .regFile loc =>
    (s.coreUncorrected c t.toNat (locatorSource loc) excEcc loc true).raiseOr s0 c t
      { code := excEcc, stval := loc, loc := true }
  | .done s, _ => .next (s.modThread c t Thread.retire)
  | .jump s pc, _ => .next (s.modThread c t (fun y => { y with n := y.n + 1, pc := pc }))
  | .wait s, _ => .next s

/-- One instruction issues (R78): see the file's header. -/
def State.issue (s0 : State) (x : Iss) (i : Info) (body : State → Res) : Out :=
  let c := x.core.toNat
  let t := x.thr
  if !s0.ready c t then .next s0
  else if s0.eventDue c t && (s0.thread c t).atBoundary then .next ((s0.takeEvent c t).getD s0)
  else
    let s := { s0 with free := s0.free + 1 }
    let s := s.modCore c (fun k => { k.tickStall t 0 with last := t })
    match s.early x i with
    | (s, some e) => s.raiseOr s0 c t e
    | (s, none) =>
      let s := if (s.thread c t).rptOn then s.modThread c t (fun y => { y with rptBase := i.base }) else s
      if predOf x (s.thread c t) then
        match s.settle c t i.uses i.drains with
        | .stuck => .next s0
        | .trapped s => .next s
        | .ok s => s.runBody s0 x body
      else
        match s.settle c t (if (s.thread c t).rptOn then (i.base.map Prod.fst).toList else []) false with
        | .stuck => .next s0
        | .trapped s => .next s
        | .ok s => .next (s.modThread c t (fun y => y.commit.retire))

end Sys2Proof.Machine
end

