-- ==== Sys2Proof/Machine/Csr.lean ====
section
/-!
DEFINITION. Control registers: the map of R82, reads and writes, and the instructions that make them.
-/
namespace Sys2Proof.Machine

/-! ### The map (R82) -/

/-- The table of R82 lists the number. -/
def csrListed (n : Nat) : Bool :=
  n ≤ 0x0D || (0x10 ≤ n && n ≤ 0x13) || n == 0x18 || (0x20 ≤ n && n ≤ 0x2A) || n == 0x30 || n == 0x40 ||
    (0x50 ≤ n && n ≤ 0x60)

/-- A user thread may not read it; may not write it (R80, R82). -/
def csrPrivRead (n : Nat) : Bool := (1 ≤ n && n ≤ 5) || (0x50 ≤ n && n ≤ 0x5F)
def csrPrivWrite (n : Nat) : Bool :=
  (1 ≤ n && n ≤ 6) || n == 0x0A || (0x10 ≤ n && n ≤ 0x13) || n == 0x18 || n == 0x40 || (0x50 ≤ n && n ≤ 0x60)

/-- It is a register of the matrix engine; of the vector engine. -/
def csrMatrix (n : Nat) : Bool := 0x20 ≤ n && n ≤ 0x2A
def csrVector (n : Nat) : Bool := n == 0x30

/-! ### Reads -/

/-- `THRCTL` as read (R79). -/
def thrctlWord (k : ThrCtl) (pc : W64) : W64 :=
  BitVec.ofNat 64 (k.prio.toNat + 4 * k.run.toNat + 8 * k.stopped.toNat + 16 * k.halted.toNat + 256 * k.hcause.toNat +
    (fld pc 2 46) * 2 ^ 18)

/-- Words in a receive queue (R189). -/
def MsgUnit.words (m : MsgUnit) (q : BitVec 3) : Nat := (rget m.q (qix q)).foldl (fun n e => n + e.left.length) 0

/-- `QCFG` as read: its RW fields with `WORDS`, `SPREC` and `SPHEAD` (R189). -/
def MsgUnit.qcfgWord (m : MsgUnit) (q : BitVec 3) : W64 :=
  rget m.qcfg (qix q) ||| BitVec.ofNat 64 ((m.words q % 64) * 2 ^ 25 + ((rget m.spForms (qix q)).length % 2048) * 2 ^ 32 +
    (rget m.spHead (qix q) % 1024) * 2 ^ 44)

/-- The value of a listed control register for thread `t` of core `c`. -/
def State.csrRead (s : State) (c : Nat) (t : BitVec 2) (n : Nat) : W64 :=
  let k := s.core c
  let x := s.thread c t
  if n = 0 then x.stat
  else if n = 1 then x.scause
  else if n = 2 then x.sepc
  else if n = 3 then x.stval
  else if n = 4 then x.svec
  else if n = 5 then x.sscr
  else if n = 6 then x.imask
  else if n = 7 then x.pmask
  else if n = 8 then x.srseed.setWidth 64
  else if n = 9 then x.rptcnt
  else if n = 0x0A then x.swlim
  else if n = 0x0B then
    BitVec.ofNat 64 (c + s.devid * 2 ^ 10 + t.toNat * 2 ^ 27 + ((s.partOf c).getD 0) * 2 ^ 29)
  else if n = 0x0C then s.devtime
  else if n = 0x0D then k.seqno.setWidth 64
  else if n ≤ 0x13 then
    let t' := BitVec.ofNat 2 (n - 0x10)
    thrctlWord (s.ctl c t') (s.thread c t').pc
  else if n = 0x18 then k.engbind
  else if n ≤ 0x27 then k.mx.tcfgOf (BitVec.ofNat 3 (n - 0x20))
  else if n = 0x28 then k.mx.tiu
  else if n = 0x29 then k.mx.trow
  else if n = 0x2A then k.mx.tfault
  else if n = 0x30 then k.vx.vl
  else if n = 0x40 then k.penn.setWidth 64
  else if n ≤ 0x57 then k.mu.qcfgWord (BitVec.ofNat 3 (n - 0x50))
  else if n ≤ 0x5F then rget k.mu.tagm (qix (BitVec.ofNat 3 (n - 0x58)))
  else k.nisplit.setWidth 64

/-! ### Writes -/

/-- The value that `CSRW`, `CSRS` or `CSRC` writes over `old` (R82). -/
def csrNew (op : CsrOp) (old v : W64) : W64 :=
  match op with
  | .write => v
  | .set => old ||| v
  | .clear => old &&& ~~~v

/-- The bits of a W1C field that it clears (R82): `CSRC` does nothing there. -/
def csrW1c (op : CsrOp) (v : W64) : W64 :=
  match op with
  | .write => v
  | .set => v
  | .clear => 0

/-- `THRSTAT` written (R82): flags are W1C, `MODE` is not written, and a user thread reaches the flags only. -/
def writeThrstat (op : CsrOp) (old v : W64) (sup : Bool) : W64 :=
  let rw : W64 := if sup then 0x1E else 0
  ((old &&& ~~~rw) ||| (csrNew op old v &&& rw)) &&& ~~~(csrW1c op v &&& 0x70000)

/-- A thread starts to run, at `PC`, and goes on with the repetition in which it was stopped (R79, R102). What a thread
loaded by `CTXLD` was doing is the model's reading of its context (`Thread.ofContext`; DESIGN CHOICE, log 46). -/
def Thread.start (x : Thread) : Thread := { x with rptFrom := x.n, rptBase := none }

/-- `THRCTL` of thread `t'` written with `v` (R79). -/
def State.writeThrctl (s : State) (c : Nat) (t' : BitVec 2) (v : W64) : State :=
  let k := s.ctl c t'
  let s := if k.stopped then s.modThread c t' (fun x => { x with pc := BitVec.ofNat 64 (4 * fld v 18 46) }) else s
  let k := { k with prio := BitVec.ofNat 2 (fld v 0 2) }
  if v.getLsbD 2 then
    if k.halted then s.setCtl c t' k
    else
      let s := if k.stopped then s.modThread c t' Thread.start else s
      s.setCtl c t' { k with run := true, stopped := false, stopReq := false }
  else s.setCtl c t' { k with run := false, stopReq := !k.stopped && !k.halted }

/-- `TIU` written (R110): a 1 marks in use, a 0 over a 1 frees; an `AINT` bit holds while its accumulator is in use. -/
def Matrix.writeTiu (m : Matrix) (v : W64) : Matrix :=
  let old := m.tiu
  let m := m.freeMasks (fld (old &&& ~~~v) 0 8) (fld (old &&& ~~~v) 8 4)
  { m with tiu := BitVec.ofNat 64 (fld v 0 12 + (fld v 8 4 &&& fld v 12 4) * 2 ^ 12) }

/-- The bits of `QCFG` that are RW. -/
def qcfgMask : W64 := 0x1FFFFF7

/-- `QCFG` `q` written with `v` (R189): ignored as a whole where R189 says so. The record index of an empty ring stays, as
far as the ring has that record (DEDUCED, log 98). `RINGLOG` is given as 8-16 and has 4 bits, so that 16 cannot be written: the
model takes the field as it stands (DESIGN CHOICE, log 147). -/
def MsgUnit.writeQcfg (m : MsgUnit) (q : BitVec 3) (v : W64) : MsgUnit :=
  let v := v &&& qcfgMask
  let old := rget m.qcfg (qix q)
  let log := fld v 8 4
  let busy := m.words q ≠ 0 ∨ rget m.spForms (qix q) ≠ []
  let base := fld v 12 13 * 64
  if fld v 0 2 = 3 ∨ log < 8 ∨ (busy ∧ (fld v 2 1 ≠ fld old 2 1 ∨ fld v 8 17 ≠ fld old 8 17)) ∨
      (v.getLsbD 2 ∧ (base % 2 ^ log ≠ 0 ∨ 524288 < base + 2 ^ log)) then m
  else { m with qcfg := rset m.qcfg (qix q) v, spHead := rset m.spHead (qix q) (rget m.spHead (qix q) % 2 ^ (log - 6)) }

/-- `ENGBIND` written (R83, R127). -/
def Core.writeEngbind (k : Core) (v : W64) : Core :=
  let v := v &&& 0x77
  let mx := if fld v 0 3 = fld k.engbind 0 3 then k.mx else { k.mx with trow := 0 }
  { k with engbind := v, mx := mx }

/-- A listed control register written by thread `t` of core `c`; a register that is RO ignores the write (R4). -/
def State.csrWrite (s : State) (c : Nat) (t : BitVec 2) (op : CsrOp) (n : Nat) (v : W64) : State :=
  let w := csrNew op (s.csrRead c t n) v
  let thr (f : Thread → Thread) : State := s.modThread c t f
  let core (f : Core → Core) : State := s.modCore c f
  if n = 0 then thr (fun x => { x with stat := writeThrstat op x.stat v x.sup })
  else if n = 1 then thr (fun x => { x with scause := w &&& 0x1FF })
  else if n = 2 then thr (fun x => { x with sepc := w })
  else if n = 3 then thr (fun x => { x with stval := w })
  else if n = 4 then thr (fun x => { x with svec := w })
  else if n = 5 then thr (fun x => { x with sscr := w })
  else if n = 6 then thr (fun x => { x with imask := w &&& 0xFFFF })
  else if n = 7 then thr (fun x => { x with pmask := w &&& 0xFFFFFFFF })
  else if n = 8 then thr (fun x => { x with srseed := if w.setWidth 32 = 0 then 1 else w.setWidth 32 })
  else if n = 9 then thr (fun x => { x with rptcnt := w &&& 0x1FFFFFFFFFFF })
  else if n = 0x0A then thr (fun x => { x with swlim := w &&& 0xFFFFFFFF })
  else if n < 0x10 then s
  else if n ≤ 0x13 then s.writeThrctl c (BitVec.ofNat 2 (n - 0x10)) w
  else if n = 0x18 then core (fun k => k.writeEngbind w)
  else if n ≤ 0x27 then
    core (fun k => { k with mx := { k.mx with
      tcfg := rset k.mx.tcfg (qix (BitVec.ofNat 3 (n - 0x20))) (w &&& 0xFFFFFF3FFFFF) } })
  else if n = 0x28 then core (fun k => { k with mx := k.mx.writeTiu w })
  else if n = 0x29 then core (fun k => { k with mx := { k.mx with trow := w &&& 0x1F } })
  else if n = 0x2A then core (fun k => { k with mx := { k.mx with tfault := w &&& 0xFF7 } })
  else if n = 0x30 then
    core (fun k => { k with vx := { k.vx with vl := BitVec.ofNat 64 (min 512 (fld w 0 10)) } })
  else if n = 0x40 then core (fun k => { k with penn := w.setWidth 32 &&& pennBits })
  else if n ≤ 0x57 then core (fun k => { k with mu := k.mu.writeQcfg (BitVec.ofNat 3 (n - 0x50)) w })
  else if n ≤ 0x5F then
    core (fun k => { k with mu := { k.mu with
      tagm := rset k.mu.tagm (qix (BitVec.ofNat 3 (n - 0x58))) (w &&& 0xFFFFFFFFF) } })
  else core (fun k => { k with nisplitStaged := some (w.setWidth 32) })

/-! ### The instructions -/

/-- The engine that an access to control register `n` waits for has an instruction that has not retired: both engines for a
write of `ENGBIND`, the matrix engine for its registers, the vector engine for a write of `VL` (R83, R109, R154). -/
def Core.csrWaits (k : Core) (n : Nat) (write : Bool) : Bool :=
  (csrMatrix n && k.matrixBusy) || (n == 0x18 && write && (k.matrixBusy || k.vectorBusy)) ||
    (csrVector n && write && k.vectorBusy)

/-- The access of thread `t` to control register `n` raises an exception or waits for an engine (R83, R109); otherwise
`f` says its effect. -/
def State.csrAccess (s : State) (c : Nat) (t : BitVec 2) (n : Nat) (write : Bool) (f : State → State) : Res :=
  let k := s.core c
  if csrMatrix n && !k.matrixBound t then .trap s { code := excAccess, stval := 56 }
  else if csrVector n && !k.vectorBound t then .trap s { code := excAccess, stval := 57 }
  else if k.csrWaits n write then .stall
  else .done (f s)

/-- A write of control register `n` from `ra` by an instruction with the given word. -/
def State.csrInstr (s : State) (x : Iss) (word : Nat) (op : CsrOp) (ra : BitVec 5) (n : Nat) : Out :=
  s.issue x
    { word := BitVec.ofNat 32 word, legal := csrListed n, priv := csrPrivWrite n, uses := [ra], drains := 0x10 ≤ n }
    (fun s => s.csrAccess x.core.toNat x.thr n true
      (fun s => s.csrWrite x.core.toNat x.thr op n ((s.thread x.core.toNat x.thr).getG ra)))

/-- `CSRR` (R82). -/
def execCsrr (x : Iss) (o : FmtI) (s : State) : Out :=
  let n := o.imm.toNat
  s.issue x
    { word := BitVec.ofNat 32 (encI 16 x o), legal := csrListed n, priv := csrPrivRead n, uses := [o.rd]
      drains := csrMatrix n }
    (fun s => s.csrAccess x.core.toNat x.thr n false
      (fun s => s.modThread x.core.toNat x.thr (fun y => y.setG o.rd (s.csrRead x.core.toNat x.thr n))))

/-- `CSRW` (R82). -/
def execCsrw (x : Iss) (o : FmtI) (s : State) : Out := s.csrInstr x (encI 17 x o) .write o.ra o.imm.toNat

/-- `CSRS` (R82). -/
def execCsrs (x : Iss) (o : FmtI) (s : State) : Out := s.csrInstr x (encI 18 x o) .set o.ra o.imm.toNat

/-- `CSRC` (R82). -/
def execCsrc (x : Iss) (o : FmtI) (s : State) : Out := s.csrInstr x (encI 19 x o) .clear o.ra o.imm.toNat

/-- `ENGBIND_WRITE` (R83). -/
def execEngbindWrite (x : Iss) (op : CsrOp) (ra : BitVec 5) (s : State) : Out :=
  s.csrInstr x (csrWord op x ra 0x18) op ra 0x18

/-- `TCFG_WRITE` (R109): a write of `TCFG0`-`TCFG7`, `TROW` or `TFAULT`. -/
def execTcfgWrite (x : Iss) (op : CsrOp) (ra : BitVec 5) (reg : MatCsr) (s : State) : Out :=
  s.csrInstr x (csrWord op x ra reg.num) op ra reg.num

/-- `TIU_WRITE` (R110). -/
def execTiuWrite (x : Iss) (op : CsrOp) (ra : BitVec 5) (s : State) : Out :=
  s.csrInstr x (csrWord op x ra 0x28) op ra 0x28

/-- `VL_WRITE` (R137). -/
def execVlWrite (x : Iss) (op : CsrOp) (ra : BitVec 5) (s : State) : Out :=
  s.csrInstr x (csrWord op x ra 0x30) op ra 0x30

/-- `SRSEED_WRITE` (R66). -/
def execSrseedWrite (x : Iss) (op : CsrOp) (ra : BitVec 5) (s : State) : Out :=
  s.csrInstr x (csrWord op x ra 0x08) op ra 0x08

/-- `THREAD_RUN_REQUEST` (R79): a write of `THRCTL`, whose `RUN` bit is 1 in what is written. -/
def execThreadRunRequest (x : Iss) (op : CsrOp) (ra : BitVec 5) (target : BitVec 2) (s : State) : Out :=
  s.csrInstr x (csrWord op x ra (0x10 + target.toNat)) op ra (0x10 + target.toNat)

/-- `THREAD_STOP_REQUEST` (R79): a write of `THRCTL`, whose `RUN` bit is 0 in what is written. -/
def execThreadStopRequest (x : Iss) (op : CsrOp) (ra : BitVec 5) (target : BitVec 2) (s : State) : Out :=
  s.csrInstr x (csrWord op x ra (0x10 + target.toNat)) op ra (0x10 + target.toNat)

end Sys2Proof.Machine
end

