-- ==== Sys2Proof/Machine/Barrier.lean ====
section
/-!
DEFINITION. Barriers (R205-R213) and their fabric groups (R374-R375), on the state of a partition.
-/
namespace Sys2Proof.Machine

/-! ### The barrier registers (R205) -/

/-- Offset of `PRT_BAR` `b` of partition `n`. -/
def barOff (n b : Nat) : Nat := prt n (0x400 + 8 * b)

def State.barCount (s : State) (n b : Nat) : Nat := s.rfld (barOff n b) 0 13
def State.barArrived (s : State) (n b : Nat) : Nat := s.rfld (barOff n b) 13 13
/-- 0 `DISARMED`, 1 `ARMED`, 2 `TIMEDOUT`, 3 `BROKEN`. -/
def State.barState (s : State) (n b : Nat) : Nat := s.rfld (barOff n b) 26 2
def State.barTmo (s : State) (n b : Nat) : Nat := s.rfld (barOff n b) 32 24
def State.barGen (s : State) (n b : Nat) : Nat := s.rfld (barOff n b) 56 8

/-! ### Outcomes -/

/-- The statuses of R207. -/
def barReleased : Nat := 0
def barTimeout : Nat := 1
def barBroken : Nat := 2
def barPending : Nat := 3
def barNotArmed : Nat := 4
def barIdle : Nat := 5

/-- The thread's pending bit of a barrier cleared; set with a parity (R208). -/
def Thread.clearBar (x : Thread) (b : Nat) : Thread := { x with barPend := setBit x.barPend b false }
def Thread.setBar (x : Thread) (b : Nat) (par : Bool) : Thread :=
  { x with barPend := setBit x.barPend b true, barPar := setBit x.barPar b par }

/-- What a pending thread observes at barrier `b` of partition `n`; none while it is still pending (R208). -/
def State.barOutcome (s : State) (n b : Nat) (x : Thread) : Option Nat :=
  if s.barState n b = 2 then some barTimeout
  else if s.barState n b = 3 then some barBroken
  else if x.barPend.getLsbD b && x.barPar.getLsbD b != (s.barGen n b % 2 == 1) then some barReleased
  else none

/-- An observed outcome is traced (R395). -/
def State.traceBar (s : State) (c : Nat) (t : BitVec 2) (n b status : Nat) : State :=
  s.traceCore c t.toNat 0x04 (b + status * 2 ^ 8 + s.barGen n b * 2 ^ 16)

/-- Thread `t` of core `c`, waiting in `BARR`, returns when its barrier has an outcome (R208). -/
def State.barServe (s : State) (n b : Nat) (c : Nat) (t : BitVec 2) : State :=
  let x := s.thread c t
  match x.wait, s.barOutcome n b x with
  | some (.barr rd id), some v =>
    if id.toNat = b then
      (s.wake c t (fun y => (y.clearBar b).setG rd (BitVec.ofNat 64 v))).traceBar c t n b v
    else s
  | _, _ => s

/-- Where the count of a section node for barrier `b` of partition `n` is kept. -/
def nodeKey (n b sect : Nat) : Nat := 1024 * n + 8 * b + sect

/-- The generation of barrier `b` of partition `n` is over: the arrivals that it has counted, and what the section nodes hold of
them. -/
def State.barClear (s : State) (n b : Nat) : State :=
  let s := s.modPart n (fun p => { p with bars := p.bars.filter (fun a => !(a.bar == b && a.counted)) })
  { s with tally := { s.tally with nodes := s.tally.nodes.filter (fun x => x.1 / 8 != nodeKey n b 0 / 8) } }

/-- Every core of partition `n` learns of an outcome of barrier `b`: pennant 28 where an `ARRIVE` is pending, and the
waiting threads return (R208, R210, R213). A core of a PARKED half does when its clock runs again (R26). -/
def State.barTell (s : State) (n b : Nat) : State :=
  let p := s.part n
  let told := (p.bars.filter (fun a => a.bar == b && a.counted && a.arrive)).map BarArr.core
  let s := told.foldl (fun s c => if s.halfRuns (coreHalf c) then s.setPenn c 28 else s) s
  let later := told.filter (fun c => !s.halfRuns (coreHalf c))
  let s := (s.barClear n b).modPart n (fun p => { p with barDue := p.barDue ++ later })
  (s.cores.map (·.1)).foldl (fun s c =>
    if s.partOf c = some n && s.halfRuns (coreHalf c) then
      ([0, 1, 2, 3] : List (BitVec 2)).foldl (fun s t => s.barServe n b c t) s
    else s) s

/-- The clock of half `h` runs again: its cores learn of the outcomes of barriers that came while it stood. -/
def State.barWake (s : State) (h : Nat) : State :=
  let s := (List.range 8).foldl (fun (s : State) n =>
    let due := (s.part n).barDue.filter (fun c => coreHalf c == h)
    if due.isEmpty then s
    else (due.foldl (fun s c => s.setPenn c 28) s).modPart n (fun p =>
      { p with barDue := p.barDue.filter (fun c => coreHalf c != h) })) s
  (s.cores.map (·.1)).foldl (fun s c =>
    if coreHalf c = h then
      ([0, 1, 2, 3] : List (BitVec 2)).foldl (fun s t =>
        match (s.thread c t).wait with
        | some (.barr _ id) => s.barServe ((s.partOf c).getD 0) id.toNat c t
        | _ => s) s
    else s) s

/-- Barrier `b` is the final barrier of partition `n`'s program (R439). -/
def State.isFinal (s : State) (n b : Nat) : Bool := (s.part n).prog.any (fun g => g.finalBar == b)

/-- Core `c` has reached the final barrier of the step in progress, or observed its `BROKEN` outcome (R30, R425). -/
def State.seenFinal (s : State) (n b c : Nat) : State :=
  if s.isFinal n b then s.modPart n (fun p => { p with finalSeen := if p.finalSeen.contains c then p.finalSeen else c :: p.finalSeen })
  else s

/-- The generation is released (R208). -/
def State.barRelease (s : State) (n b : Nat) : State :=
  let s := (s.setRfld (barOff n b) 56 8 (s.barGen n b + 1)).setRfld (barOff n b) 13 13 0
  let s := s.modPart n (fun p => { p with barFirst := AMap.put p.barFirst b 0, barKids := AMap.put p.barKids b []
                                          finalDone := p.finalDone || s.isFinal n b })
  s.barTell n b

/-- The barrier becomes `TIMEDOUT` or `BROKEN` (R210, R213): its generation, and what children have reported of it, is over. -/
def State.barEnd (s : State) (n b state : Nat) : State :=
  ((s.setRfld (barOff n b) 26 2 state).modPart n (fun p => { p with barKids := AMap.put p.barKids b [] })).barTell n b

/-! ### Fabric groups (R374-R375) -/

/-- Offset of the group entry of barrier `b` (64-79) of partition `n`. -/
def fbarOff (n b : Nat) : Nat := 0x56000 + n * 0x100 + (b - 64) * 0x10

/-- Barrier `b` spans devices. -/
def State.fbarOn (s : State) (n b : Nat) : Bool := 64 ≤ b && s.rfld (fbarOff n b) 16 1 == 1
def State.fbarRoot (s : State) (n b : Nat) : Bool := s.rfld (fbarOff n b) 17 1 == 1
def State.fbarKids (s : State) (n b : Nat) : List Nat := AMap.get [] (s.part n).barKids b

/-- A `BAR` item of the group of barrier `b` leaves for a device. -/
def State.sendBar (s : State) (n b dev : Nat) (kind : BarKind) : State :=
  s.fabSend (.bar dev (s.rfld (fbarOff n b) 0 16) kind (s.barGen n b % 2 == 1))

/-- The children of the group that have reported so far. -/
def State.fbarKnown (s : State) (n b : Nat) : List Nat :=
  ((s.part n).barKnown.filter (fun k => k.1 == b && k.2.1 == s.rfld (fbarOff n b) 0 16)).map (fun k => k.2.2)

/-- Every child of the group (R374-R375): those that have reported, and of the others the device IDs that the host's tree gives
them, which no register holds (`Config.barChild`; DESIGN CHOICE, log 95). -/
def State.fbarAll (s : State) (n b : Nat) : List Nat :=
  let known := s.fbarKnown n b
  known ++ (List.range (s.rfld (fbarOff n b) 18 4 - known.length)).map (fun i =>
    (Config.barChild (s.rfld (fbarOff n b) 0 16) (known.length + i)).toNat)

/-- To the parent; to children. -/
def State.sendParent (s : State) (n b : Nat) (kind : BarKind) : State :=
  s.sendBar n b (s.rfld (fbarOff n b + 8) 0 17) kind
def State.sendKids (s : State) (n b : Nat) (kids : List Nat) (kind : BarKind) : State :=
  kids.foldl (fun s d => s.sendBar n b d kind) s

/-- The arrivals of this device have reached `COUNT`, and every child has reported. -/
def State.barComplete (s : State) (n b : Nat) : Bool :=
  s.barState n b == 1 && s.barArrived n b == s.barCount n b &&
    (!s.fbarOn n b || (s.fbarKids n b).length == s.rfld (fbarOff n b) 18 4)

/-- A barrier that is complete is released, or reported to the group's parent (R208, R375). -/
def State.barCheck (s : State) (n b : Nat) : State :=
  if s.barComplete n b then
    if s.fbarOn n b then
      if s.fbarRoot n b then (s.sendKids n b (s.fbarKids n b) .release).barRelease n b else s.sendParent n b .complete
    else s.barRelease n b
  else s

/-- A timeout, or a break, of a barrier: applied here, and sent to the root of its group, which sends it to every device
(R375). -/
def State.barFail (s : State) (n b state : Nat) : State :=
  let kind : BarKind := if state = 2 then .timeout else .broken
  if s.fbarOn n b then
    if s.fbarRoot n b then (s.sendKids n b (s.fbarAll n b) kind).barEnd n b state
    else (s.sendParent n b kind).barEnd n b state
  else s.barEnd n b state

/-- An arrival counts at the root (R208); one that has an outcome to tell to a core of a PARKED half waits (R26). -/
def State.barArrive (s : State) (n b : Nat) (c : Nat) (t : BitVec 2) : State :=
  let take : State := s.modPart n (fun p =>
    { p with bars := p.bars.filter (fun a => !(a.bar == b && a.core == c && a.thr == t && !a.counted)) })
  match (s.part n).bars.find? (fun a => a.bar == b && a.core == c && a.thr == t && !a.counted) with
  | none => s
  | some a =>
    if s.barState n b = 1 then
      let first := s.barArrived n b = 0
      let s := take.modPart n (fun p => { p with
        bars := p.bars ++ [{ a with counted := true }]
        barFirst := if first then AMap.put p.barFirst b s.elapsed else p.barFirst })
      let s : State := { s with tally := { s.tally with nodes := addAt s.tally.nodes (nodeKey n b (coreSect c)) 1 } }
      (s.setRfld (barOff n b) 13 13 (s.barArrived n b + 1)).barCheck n b
    else if !s.halfRuns (coreHalf c) then s
    else if s.barState n b = 0 then
      match (s.thread c t).wait with
      | some (.barr rd id) =>
        if id.toNat = b then
          (take.wake c t (fun y => (y.clearBar b).setG rd (BitVec.ofNat 64 barNotArmed))).traceBar c t n b barNotArmed
        else take
      | _ => take
    else
      let s := if a.arrive then take.setPenn c 28 else take
      s.barServe n b c t

end Sys2Proof.Machine
end

