-- ==== Sys2Proof/Machine/Link.lean ====
section
/-!
DEFINITION. Slot plans and the neighbour links (R239-R245).
-/
namespace Sys2Proof.Machine

/-! ### Slot plan entries (R240) -/

def pDir (e : BitVec 128) : Nat := fld e 32 2
def pHops (e : BitVec 128) : Nat := fld e 34 5
def pLines (e : BitVec 128) : Nat := fld e 40 16
def pSline (e : BitVec 128) : Nat := fld e 64 13
def pDline (e : BitVec 128) : Nat := fld e 80 13

/-- The core that `h` hops from core `c` in a direction reach, if any (R8, R240). -/
def hopCore (c dir h : Nat) : Option Nat :=
  match dir % 4 with
  | 0 => if h ≤ coreRow c then some (c - 32 * h) else none
  | 1 => if coreCol c + h < 32 then some (c + h) else none
  | 2 => if coreRow c + h < 32 then some (c + 32 * h) else none
  | _ => if h ≤ coreCol c then some (c - h) else none

/-- Two cores lie in different halves: a link path between them crosses the seam. -/
def crosses (c d : Nat) : Bool := coreHalf c != coreHalf d

/-- 2 for the faster of two halves whose points differ as FULL and HALF, else 1 (R250). -/
def clockScale (pts h : Nat) : Nat := if pts / 4 ^ h % 4 = 2 ∧ pts / 4 ^ (1 - h) % 4 = 1 then 2 else 1

/-- The cycle of core `c` in which line `l` of one of its entries, to core `d`, is planned to launch (R242, R250). -/
def planCycle (locked : Bool) (pts c d : Nat) (e : BitVec 128) (l : Nat) : Nat :=
  (if locked && crosses c d then clockScale pts (coreHalf c) else 1) * (fld e 0 32 + l)

/-- The cycle of core `d` in which a line of core `c` is written that launches in cycle `t` of `c`: planned within a half (R242)
and for a `LOCKED` crossing at its declared points (R250); for an `ELASTIC` one the first that R251 allows, at the points in
force. -/
def writeCycle (locked : Bool) (pts c d h t : Nat) : Nat :=
  let fs := clockScale pts (coreHalf c)
  let fr := clockScale pts (coreHalf d)
  if !crosses c d then t + h
  else if fs = fr then t + h + 6
  else if locked then fr * (t / fs + h + 3)
  else if fr = 2 then 2 * t + h + 6
  else (t + 1) / 2 + h + 3

/-- Seam queue of core `c`'s row in a direction: the lines that have launched across the seam and are not written (R251). -/
def Part.seamHeld (p : Part) (c dir : Nat) : Nat :=
  (p.lines.filter (fun l => crosses l.src l.dst && coreRow l.src == coreRow c && l.dir == dir)).length

/-- The line that is written first of those listed: by its cycle, then by its launch. -/
def firstDue : List LinkLine → Option LinkLine
  | [] => none
  | l :: ls =>
    match firstDue ls with
    | some m => if l.due ≤ m.due then some l else some m
    | none => some l

/-- A core's entries for one direction, in plan order: those that stay in its half, or those that cross the seam. -/
def Part.plan (p : Part) (c dir : Nat) (far : Bool) : List (BitVec 128) :=
  match p.prog with
  | some g => (AMap.get [] g.plans c).filter (fun e =>
      pDir e == dir && (match hopCore c dir (pHops e) with | some d => crosses c d == far | none => false))
  | none => []

/-- The first line from line `i` on of the lines of a list of entries, of which those that are not `ok` are passed over: the
entry, the line within it, and the lines passed with it; `base` lines come before the list. -/
def nextAt (ok : BitVec 128 → Bool) : List (BitVec 128) → Nat → Nat → Option (BitVec 128 × Nat × Nat)
  | [], _, _ => none
  | e :: es, i, base =>
    if i < pLines e then (if ok e then some (e, i, base + i + 1) else nextAt ok es 0 (base + pLines e))
    else nextAt ok es (i - pLines e) (base + pLines e)

/-- Lines that core `c` has passed in a direction in the step in progress. -/
def linkKey (c dir : Nat) (far : Bool) : Nat := 8 * c + 2 * dir + far.toNat
def Part.sent (p : Part) (c dir : Nat) (far : Bool) : Nat := AMap.get 0 p.link.pos (linkKey c dir far)

/-- The entry leads to a core that is present: lines to a quarantined core are not sent (R264). -/
def State.leadsOn (s : State) (c dir : Nat) (e : BitVec 128) : Bool :=
  match hopCore c dir (pHops e) with | some d => s.present d | none => false

/-- The next line of core `c` in a direction: of the next line that stays in the half and the next that crosses the seam, the one
that launches first, with what `nextAt` says of it. -/
def State.nextLine (s : State) (p : Part) (pts c dir : Nat) : Option (Bool × BitVec 128 × Nat × Nat) :=
  let at_ (far : Bool) := nextAt (s.leadsOn c dir) (p.plan c dir far) (p.sent c dir far) 0
  let cycle (e : BitVec 128) (l : Nat) : Nat :=
    planCycle (match p.prog with | some g => g.seam == 1 | none => false) pts c ((hopCore c dir (pHops e)).getD c) e l
  match at_ false, at_ true with
  | some a, some b => if cycle a.1 a.2.1 ≤ cycle b.1 b.2.1 then some (false, a) else some (true, b)
  | some a, none => some (false, a)
  | none, b => b.map (fun x => (true, x))

/-- Every line that entries of core `c` in a direction send to core `d` has been sent. -/
def Part.sentTo (p : Part) (c dir d : Nat) : Bool :=
  let far := crosses c d
  let rec go : List (BitVec 128) → Nat → Bool
    | [], _ => true
    | e :: es, base => (hopCore c dir (pHops e) != some d || base + pLines e ≤ p.sent c dir far) && go es (base + pLines e)
  go (p.plan c dir far) 0

/-- The link unit of core `c` has read the last line of its plan, and every line to the core has been written
(R245). -/
def State.planDone (s : State) (n c : Nat) : Bool :=
  let p := s.part n
  (List.range 4).all (fun d => (s.nextLine p 0 c d).isNone) &&
    p.lines.all (fun l => l.dst != c) &&
    (match p.prog with
      | none => true
      | some g => g.plans.all (fun x => !s.present x.1 || (List.range 4).all (fun d => p.sentTo x.1 d c)))

/-- The cycle of core `c` in which a line of its `ELASTIC` program launches: as planned, but not before the lines ahead of it on
the link, nor before the credit of its seam queue that the line 16 before it returns (R251). Credits return in the cycle of the
write (DEDUCED, log 140). -/
def Part.launchCycle (p : Part) (pts c d dir planned : Nat) : Nat :=
  let t := max planned (AMap.get 0 p.link.free (4 * c + dir))
  if crosses c d then
    let fs := clockScale pts (coreHalf c)
    let fr := clockScale pts (coreHalf d)
    let ds := AMap.get [] p.link.dues (4 * coreRow c + dir)
    if ds.length < 16 then t else max t ((ds.getD (ds.length - 16) 0 * fs + fr - 1) / fr)
  else t

/-- The cycles of a line's launch and of its write. -/
def Part.lineCycles (p : Part) (g : Program) (pts c d dir : Nat) (e : BitVec 128) (l : Nat) : Nat × Nat :=
  let planned := planCycle (g.seam == 1) pts c d e l
  let t := if g.seam = 2 then p.launchCycle pts c d dir planned else planned
  (t, writeCycle (g.seam == 1) pts c d (pHops e) t)

/-- A seam queue has a free credit less, or more: lines of a row of cores in a direction (R251). -/
def seamKey (c dir : Nat) : Nat := 4 * coreRow c + dir
def State.seamFree (s : State) (k : Nat) : Nat := AMap.get 16 s.tally.credits k
def State.seamTake (s : State) (k : Nat) : State :=
  { s with tally := { s.tally with credits := AMap.put s.tally.credits k (s.seamFree k - 1) } }
def State.seamGive (s : State) (l : LinkLine) : State :=
  if l.credit then
    let k := seamKey l.src l.dir
    { s with tally := { s.tally with credits := AMap.put s.tally.credits k (s.seamFree k + 1) } }
  else s

/-- The lines of partition `n` that are on their way are dropped, and the credits that they hold return. -/
def State.dropLines (s : State) (n : Nat) : State :=
  ((s.part n).lines.foldl State.seamGive s).modPart n (fun p => { p with lines := [], link := LinkRun.reset })

/-- The link units, after a line of core `c` to core `d` with these cycles. -/
def LinkRun.sendLine (k : LinkRun) (c d dir pos : Nat) (cyc : Nat × Nat) : LinkRun :=
  let q := 4 * coreRow c + dir
  { pos := AMap.put k.pos (linkKey c dir (crosses c d)) pos
    free := AMap.put k.free (4 * c + dir) (cyc.1 + 1)
    dues := if crosses c d then
        AMap.put k.dues q ((AMap.get [] k.dues q ++ [cyc.2]).drop ((AMap.get [] k.dues q).length - 15))
      else k.dues }

/-- The points that decide a program's crossing cycles: declared where it is `LOCKED`, else in force. -/
def State.seamPoints (s : State) (g : Program) : Nat :=
  if g.seam = 1 then g.decl else s.rfld 0x90000 0 2 + 4 * s.rfld 0x90008 0 2

/-- `LINK_LINE_SEND` (R242-R243): the next line of the core's plan in a direction is read from its LM and leaves. An
`ELASTIC` crossing waits for a credit of its seam queue of 16 lines (R251). -/
def execLinkLineSend (core : BitVec 10) (dir : BitVec 2) (s : State) : Out :=
  let c := core.toNat
  match s.partOf c with
  | none => .next s
  | some n =>
    let p := s.part n
    match p.step, p.prog with
    | some _, some g =>
      match s.nextLine p (s.seamPoints g) c dir.toNat with
      | some (_, e, l, pos) =>
        match hopCore c dir.toNat (pHops e) with
        | some d =>
          if s.present c ∧ s.halfRuns (coreHalf c) ∧ !(g.seam == 2 && crosses c d && 16 ≤ p.seamHeld c dir.toNat) then
            let pa := lmAddr c (64 * (pSline e + l))
            let cyc := p.lineCycles g (s.seamPoints g) c d dir.toNat e l
            let credit := g.seam == 2 && crosses c d
            let x : LinkLine :=
              ⟨c, dir.toNat, d, pDline e + l, Memory.readBytes s.mem pa 64, s.poisoned pa 64, cyc.2, credit⟩
            let s := if credit then s.seamTake (seamKey c dir.toNat) else s
            .next (s.setPart n { p with link := p.link.sendLine c d dir.toNat pos cyc, lines := p.lines ++ [x] })
          else .next s
        | none => .next s
      | none => .next s
    | _, _ => .next s

/-- `LINK_LINE_WRITE` (R242, R244; R413 source 8): of the lines on their way to the core in a direction, the one whose cycle
comes first is written into its LM. The direction is the one in which the line travels. Lines of the seam queue of a PARKED half
are drained (R264), and written (DEDUCED, log 140). -/
def execLinkLineWrite (core : BitVec 10) (dir : BitVec 2) (ecc : Ecc) (s : State) : Out :=
  let d := core.toNat
  match s.partOf d with
  | none => .next s
  | some n =>
    let p := s.part n
    match firstDue (p.lines.filter (fun l => l.dst == d && l.dir == dir.toNat)) with
    | none => .next s
    | some l =>
      if !s.halfRuns (coreHalf d) ∧ !crosses l.src d then .next s else
      let s := (s.setPart n { p with lines := p.lines.erase l }).seamGive l
      let pa := lmAddr d (64 * l.line)
      let s := s.homeWrite pa l.bytes
      let s := match ecc with
        | .good => s
        | .corrected => s.countErr 8 false
        | .uncorrectable =>
          (s.countErr 8 true).errLog ⟨8, 1, some n, excEcc, some d, 0, BitVec.ofNat 64 pa, 0⟩
      if l.bad || ecc == .uncorrectable then
        .next ((List.range 8).foldl (fun s i => s.addPoison (pa + 8 * i)) s)
      else .next s

end Sys2Proof.Machine
end

