-- ==== Sys2Proof/Machine/LoadStore.lean ====
section
/-!
DEFINITION. Scalar loads, stores, atomics and `WAITM` (R85, R87, R91, R217-R233), `REMFENCE`, and the events that
carry their accesses to the home and back.
-/
namespace Sys2Proof.Machine

/-! ### Issue of an access -/

/-- What an access is before its address is resolved: its kind, address, bytes, permission, and the register that a
load, `AMO` or `WAITM` writes; the store of an `ST.REL`. -/
structure AccReq where
  kind : AccKind
  ea : W64
  len : Nat
  need : Need
  rd : Option (BitVec 5) := none
  rel : Bool := false

/-- The value of a plain load that hits a valid line which nothing in flight holds (R222-R223). -/
def State.hitValue (s : State) (c : Nat) (r : AccReq) (a : Resolved) : Option W64 :=
  match r.kind with
  | .load _ size signed true _ =>
    if s.orderHeld c (s.core c).mem.nextId a.space a.lo r.len false then none
    else ((s.core c).line? r.ea.toNat a.place).map (fun d =>
      let v := fld d.bytes (8 * lineOff a.place) (8 * size)
      if signed then sext (8 * size) v else BitVec.ofNat 64 v)
  | _ => none

/-- The thread has a load of `LD.ACQ` or `LD.ACQR` in flight, which holds its later accesses (R225): the number below
which its accesses must be complete. -/
def Core.acqBound (k : Core) (t : BitVec 2) : Nat :=
  k.mem.accs.foldl (fun m a => match a.kind with
    | .load _ _ _ _ true => if a.thr = t then max m (a.id + 1) else m
    | _ => m) 0

/-- Room is made for a new access of thread `t`: what holds its later accesses is complete, and of the 16 entries
one is free (R217, R225). -/
def State.makeRoom (s : State) (c : Nat) (t : BitVec 2) : Drain :=
  match s.drainAccs c t ((s.core c).acqBound t) with
  | .ok s =>
    if (s.core c).mem.accs.length < 16 then .ok s
    else
      match s.soft c t with
      | .ok s => if (s.core c).mem.accs.length < 16 then .ok s else .stuck
      | r => r
  | r => r

/-- The access in flight for a request (R217). -/
def Core.newAcc (k : Core) (t : BitVec 2) (th : Thread) (r : AccReq) (a : Resolved) : Acc where
  id := k.mem.nextId
  thr := t
  n := th.n
  kind := r.kind
  ea := r.ea
  place := a.place
  space := a.space
  lo := a.lo
  len := r.len
  injected := isOwnLm r.ea
  performed := false
  val := 0
  line := none
  fill := true
  err := none
  snap := th
  rel := r.rel

/-- Checks, then issue, of an access (R85, R99, R217): alignment, decoding and translation, then an entry. A load that
hits the data cache has its value at once, and gives the entry up (R222). `fin` says what the thread does next. -/
def State.access (s : State) (x : Iss) (r : AccReq) (fin : State → Nat → Place → Res) : Res :=
  let c := x.core.toNat
  let t := x.thr
  if r.ea.toNat % r.len ≠ 0 then .trap s { code := excAlign, stval := r.ea }
  else
    match s.resolve c r.ea r.need (!(s.thread c t).sup) with
    | (s, .error e) => .trap s e
    | (s, .ok a) =>
      match s.makeRoom c t with
      | .stuck => .stall
      | .trapped s => .gone s
      | .ok s =>
        let id := (s.core c).mem.nextId
        let s' := s.modCore c (fun k => k.addAcc (k.newAcc t (s.thread c t) r a))
        match s.hitValue c r a, r.rd with
        | some v, some rd =>
          .done ((s'.modCore c (fun k => k.dropAcc id)).modThread c t (fun y => { y with loads := y.loads ++ [⟨id, y.n, rd, some v⟩] }))
        | _, _ => fin s' id a.place

/-- After a load or `AMO`: its value is on its way (R93). -/
def finLoad (x : Iss) (rd : BitVec 5) (s : State) (id : Nat) (_ : Place) : Res :=
  .done (s.modThread x.core.toNat x.thr (fun y => { y with loads := y.loads ++ [⟨id, y.n, rd, none⟩] }))

/-- After a store: its valid lines in the data cache are updated (R222). -/
def finStore (x : Iss) (size : Nat) (data : W64) (s : State) (_ : Nat) (p : Place) : Res :=
  .done (s.modCore x.core.toNat (fun k => k.updateLine p size data))

/-- After a `WAITM`: the thread waits (R91). -/
def finWaitm (x : Iss) (rd : BitVec 5) (cmp limit ea : W64) (s : State) (_ : Nat) (p : Place) : Res :=
  .wait (s.modThread x.core.toNat x.thr (fun y => { y with wait := some (.waitm rd cmp limit ea p false false none) }))

/-- The base register of the M format (R85). -/
def baseReg (bn : BitVec 3) : BitVec 5 := BitVec.ofNat 5 (24 + bn.toNat)

/-- The effective address of the M format (R85). -/
def Thread.eaM (y : Thread) (o : FmtM) : W64 := y.getG (baseReg o.bn) + sext 14 o.disp.toNat

/-- The effective address of row 0 of the CM format (R85). -/
def Thread.eaCM (y : Thread) (o : FmtCM) : W64 := y.getG (baseReg o.bn) + sext 10 o.disp.toNat * 64

/-- The row stride of the CM format (R85). -/
def Thread.strideCM (y : Thread) (o : FmtCM) : W64 := y.getG (BitVec.ofNat 5 (16 + o.bn.toNat))

/-! ### The shapes -/

/-- What issue needs of a scalar load or store. -/
def infoM (op : Nat) (x : Iss) (o : FmtM) (drains : Bool) : Info :=
  { word := BitVec.ofNat 32 (encM op x o), legal := true, uses := [o.r, baseReg o.bn], drains := drains,
    base := some (baseReg o.bn, false) }

/-- A scalar load (R87, R93). -/
def State.load (s : State) (x : Iss) (o : FmtM) (op size : Nat) (signed : Bool) : Out :=
  s.issue x (infoM op x o false) (fun s =>
    s.access x
      { kind := .load o.r size signed true false, ea := (s.thread x.core.toNat x.thr).eaM o, len := size,
        need := .read, rd := some o.r } (finLoad x o.r))

/-- A scalar store (R87); `rel` says that of an `ST.REL`, which waits on its way and holds nothing of the thread (R227). -/
def State.store (s : State) (x : Iss) (o : FmtM) (op size : Nat) (rel : Bool) : Out :=
  s.issue x (infoM op x o false) (fun s =>
    let y := s.thread x.core.toNat x.thr
    s.access x { kind := .store size (y.getG o.r), ea := y.eaM o, len := size, need := .write, rel := rel }
      (finStore x size (y.getG o.r)))

/-- An atomic (R91, R229). -/
def State.amo (s : State) (x : Iss) (o : FmtAmo) (op : Nat) : Out :=
  s.issue x { word := BitVec.ofNat 32 (encAmo 34 op x o), legal := o.z == 0, uses := [o.rd, o.ra, o.rb] }
    (fun s =>
      let y := s.thread x.core.toNat x.thr
      s.access x
        { kind := .amo o.rd (BitVec.ofNat 4 op) o.w32 (y.getG o.rb) (y.getG o.rd), ea := y.getG o.ra,
          len := if o.w32 then 4 else 8, need := .both, rd := some o.rd } (finLoad x o.rd))

/-- The acquire load (R225-R226): `lines` names the data cache lines, by effective address, that it invalidates. -/
def State.acquire (s : State) (x : Iss) (rd : BitVec 5) (ea : W64) (lines : Nat → Bool) : Res :=
  if ea.toNat % 8 ≠ 0 then .trap s { code := excAlign, stval := ea }
  else
    match s.resolve x.core.toNat ea .read (!(s.thread x.core.toNat x.thr).sup) with
    | (s, .error e) => .trap s e
    | (s, .ok _) =>
      (s.modCore x.core.toNat (fun k => k.invalidateEa lines)).access x
        { kind := .load rd 8 false false true, ea := ea, len := 8, need := .read, rd := some rd } (finLoad x rd)

/-- `LD8` (R87, R93). -/
def execLd8 (x : Iss) (o : FmtM) (s : State) : Out := s.load x o 20 1 true

/-- `LD8U` (R87, R93). -/
def execLd8u (x : Iss) (o : FmtM) (s : State) : Out := s.load x o 21 1 false

/-- `LD16` (R87, R93). -/
def execLd16 (x : Iss) (o : FmtM) (s : State) : Out := s.load x o 22 2 true

/-- `LD16U` (R87, R93). -/
def execLd16u (x : Iss) (o : FmtM) (s : State) : Out := s.load x o 23 2 false

/-- `LD32` (R87, R93). -/
def execLd32 (x : Iss) (o : FmtM) (s : State) : Out := s.load x o 24 4 true

/-- `LD32U` (R87, R93). -/
def execLd32u (x : Iss) (o : FmtM) (s : State) : Out := s.load x o 25 4 false

/-- `LD64` (R87, R93). -/
def execLd64 (x : Iss) (o : FmtM) (s : State) : Out := s.load x o 26 8 false

/-- `ST8` (R87). -/
def execSt8 (x : Iss) (o : FmtM) (s : State) : Out := s.store x o 27 1 false

/-- `ST16` (R87). -/
def execSt16 (x : Iss) (o : FmtM) (s : State) : Out := s.store x o 28 2 false

/-- `ST32` (R87). -/
def execSt32 (x : Iss) (o : FmtM) (s : State) : Out := s.store x o 29 4 false

/-- `ST64` (R87). -/
def execSt64 (x : Iss) (o : FmtM) (s : State) : Out := s.store x o 30 8 false

/-- `LD.ACQ` (R225). -/
def execLdAcq (x : Iss) (o : FmtM) (s : State) : Out :=
  s.issue x (infoM 31 x o true) (fun s =>
    s.acquire x o.r ((s.thread x.core.toNat x.thr).eaM o) (fun _ => true))

/-- `ST.REL` (R227). -/
def execStRel (x : Iss) (o : FmtM) (s : State) : Out := s.store x o 32 8 true

/-- `LD.ACQR` (R87, R226): `func` from 6 to 47 names the block of 2^`func` bytes that contains `rb`. -/
def execLdAcqr (x : Iss) (o : FmtR) (func : BitVec 7) (s : State) : Out :=
  s.issue x { word := BitVec.ofNat 32 (encRf 33 x o func), legal := 6 ≤ func.toNat && func.toNat ≤ 47,
              uses := [o.rd, o.ra, o.rb], drains := true }
    (fun s =>
      let y := s.thread x.core.toNat x.thr
      s.acquire x o.rd (y.getG o.ra) (fun a => a / 2 ^ func.toNat == (y.getG o.rb).toNat / 2 ^ func.toNat))

/-- `AMO ADD` (R91, R229). -/
def execAmoAdd (x : Iss) (o : FmtAmo) (s : State) : Out := s.amo x o 0

/-- `AMO AND` (R91, R229). -/
def execAmoAnd (x : Iss) (o : FmtAmo) (s : State) : Out := s.amo x o 1

/-- `AMO OR` (R91, R229). -/
def execAmoOr (x : Iss) (o : FmtAmo) (s : State) : Out := s.amo x o 2

/-- `AMO XOR` (R91, R229). -/
def execAmoXor (x : Iss) (o : FmtAmo) (s : State) : Out := s.amo x o 3

/-- `AMO SWAP` (R91, R229). -/
def execAmoSwap (x : Iss) (o : FmtAmo) (s : State) : Out := s.amo x o 4

/-- `AMO MIN` (R91, R229). -/
def execAmoMin (x : Iss) (o : FmtAmo) (s : State) : Out := s.amo x o 5

/-- `AMO MAX` (R91, R229). -/
def execAmoMax (x : Iss) (o : FmtAmo) (s : State) : Out := s.amo x o 6

/-- `AMO MINU` (R91, R229). -/
def execAmoMinu (x : Iss) (o : FmtAmo) (s : State) : Out := s.amo x o 7

/-- `AMO MAXU` (R91, R229). -/
def execAmoMaxu (x : Iss) (o : FmtAmo) (s : State) : Out := s.amo x o 8

/-- `AMO CAS` (R91, R229). -/
def execAmoCas (x : Iss) (o : FmtAmo) (s : State) : Out := s.amo x o 9

/-- `WAITM` (R91, R230). -/
def execWaitm (x : Iss) (o : FmtR) (func : BitVec 7) (s : State) : Out :=
  s.issue x { word := BitVec.ofNat 32 (encRf 35 x o func), legal := true, uses := [o.rd, o.ra, o.rb], drains := true }
    (fun s =>
      let y := s.thread x.core.toNat x.thr
      s.access x { kind := .waitm, ea := y.getG o.ra, len := 8, need := .read, rd := some o.rd }
        (finWaitm x o.rd (y.getG o.rb) (y.getG o.rd) (y.getG o.ra)))

/-! ### `REMFENCE` (R232-R233) -/

/-- Writes of the thread to other devices that have not been answered. -/
def Core.remoteOut (k : Core) (t : BitVec 2) : Bool := k.mem.remOut.any (fun w => w.thr == t)

/-- The thread's outstanding set emptied and its recorded error cleared (R233). -/
def State.clearRemote (s : State) (c : Nat) (t : BitVec 2) : State :=
  (s.modCore c (fun k => { k with mem := { k.mem with remOut := k.mem.remOut.filter (fun w => w.thr != t) } })).modThread
    c t (fun y => { y with remErr := none })

/-- `REMFENCE` (R232). -/
def execRemfence (x : Iss) (o : FmtS) (s : State) : Out :=
  s.issue x { word := BitVec.ofNat 32 (encS 0 4 x o), legal := true, drains := true } (fun s =>
    let c := x.core.toNat
    match (s.thread c x.thr).remErr with
    | some a => .trap (s.clearRemote c x.thr) { code := excAccess, stval := a }
    | none =>
      if (s.core c).remoteOut x.thr then .wait (s.modThread c x.thr (fun y => { y with wait := some .remfence }))
      else .done s)

/-- A write of thread `t` to another device has been answered well: its `REMFENCE` ends with the last. -/
def State.remoteAcked (s : State) (c : Nat) (t : BitVec 2) (id : Nat) : State :=
  let s := s.modCore c (fun k => { k with mem := { k.mem with remOut := k.mem.remOut.filter (fun w => w.id != id) } })
  match (s.thread c t).wait with
  | some .remfence => if (s.core c).remoteOut t then s else s.wake c t (fun y => y)
  | _ => s

/-- A write of thread `t` to another device has been answered with an error (R233). -/
def State.remoteFailed (s : State) (c : Nat) (t : BitVec 2) (id : Nat) (gfa : W64) : State :=
  let s := s.setPenn c 31
  let s := s.modCore c (fun k => { k with mem := { k.mem with remOut := k.mem.remOut.filter (fun w => w.id != id) } })
  let s := s.modThread c t (fun y => { y with remErr := some (y.remErr.getD gfa) })
  match (s.thread c t).wait, (s.thread c t).remErr with
  | some .remfence, some a =>
    ((s.clearRemote c t).modThread c t (fun y => { y with wait := none })).enterExc c t { code := excAccess, stval := a }
  | _, _ => s

/-! ### Events -/

/-- `HOME_READ` (R216, R230): a load, or the first read of a `WAITM`, is performed. -/
def execHomeRead (core : BitVec 10) (id : Nat) (ecc : Ecc) (s : State) : Out :=
  match (s.core core.toNat).acc? id with
  | some a =>
    if s.mayPerform core.toNat a then
      match a.kind with
      | .load .. => .next (s.perform core.toNat a ecc)
      | .waitm =>
        if s.coreRuns core.toNat then
          let s := s.perform core.toNat a ecc
          match (s.core core.toNat).acc? id with
          | some a => .next (s.complete core.toNat a).1
          | none => .next s
        else .next s
      | _ => .next s
    else .next s
  | none => .next s

/-- `HOME_ATOMIC` (R229): an `AMO` is performed. -/
def execHomeAtomic (core : BitVec 10) (id : Nat) (ecc : Ecc) (s : State) : Out :=
  match (s.core core.toNat).acc? id with
  | some a =>
    match a.kind with
    | .amo .. => .next (if s.mayPerform core.toNat a then s.perform core.toNat a ecc else s)
    | _ => .next s
  | none => .next s

/-- `WRITE_ACKNOWLEDGEMENT` (R217): the acknowledgement of a performed store reaches its core. -/
def execWriteAcknowledgement (core : BitVec 10) (id : Nat) (s : State) : Out :=
  match (s.core core.toNat).acc? id with
  | some a =>
    match a.kind with
    | .store .. => .next (if a.performed && s.halfRuns (coreHalf core.toNat) then (s.complete core.toNat a).1 else s)
    | _ => .next s
  | none => .next s

/-- `REMOTE_WRITE_ERROR` (R233): an error answers a posted write. -/
def execRemoteWriteError (core : BitVec 10) (id : Nat) (s : State) : Out :=
  match (s.core core.toNat).mem.remOut.find? (fun w => w.id == id) with
  | some w =>
    if !s.halfRuns (coreHalf core.toNat) then .next s else
    let s : State := { s with remReqs := s.remReqs.filter (fun q => q.id != id), free := s.free + 1 }
    let s := (s.countErr 16 true).errLog
      ⟨16, 1, s.partOf core.toNat, (Config.errCode s.free).toNat, some core.toNat, w.thr.toNat, w.gfa, 0⟩
    .next (s.remoteFailed core.toNat w.thr id w.gfa)
  | none => .next s

/-- `WAITM_WATCH_TRIGGER` (R230): a write has changed the watched word, and the `WAITM` returns the value written. -/
def execWaitmWatchTrigger (core : BitVec 10) (thr : BitVec 2) (s : State) : Out :=
  match (s.thread core.toNat thr).wait with
  | some (.waitm rd _ _ _ _ _ true (some v)) => .next (if s.coreRuns core.toNat then s.waitmEnd core.toNat thr rd v else s)
  | _ => .next s

/-- `WAITM_POLL` (R230): a `WAITM` without a watch reads its word again, in a slot of its kind (R173). -/
def execWaitmPoll (core : BitVec 10) (thr : BitVec 2) (ecc : Ecc) (s : State) : Out :=
  let c := core.toNat
  match (s.thread c thr).wait with
  | some (.waitm rd _ _ ea pl true false _) =>
    let slot := lineSlot ea pl false
    if !(s.coreRuns c && (match slot with | some i => (s.core c).hasSlot i && s.readRoom c | none => true)) then .next s
    else
      let s' := match slot with | some i => s.modCore c (fun k => k.countSlot i) | none => s
      match pl with
      | .here pa =>
        if !s.memRuns pa then .next s
        else
          let r := s'.homeRead pa 8 ecc
          if r.2.2 then
            let s := match r.1.partOf c with | some n => r.1.breakCond n 1 | none => r.1
            .next ((s.modThread c thr (fun y => { y with wait := none })).enterExc c thr
              { code := excEcc, stval := ea })
          else
            let v := BitVec.ofNat 64 (ofLE r.2.1)
            match r.1.waitmRead c thr v with
            | (s, true) => .next (s.waitmEnd c thr rd v)
            | (s, false) => .next s
      | .remote g =>
        .next (if s.remReqs.any (fun q => q.org == .poll c thr) then s
          else s'.sendReq (.poll c thr) ea (fun i => .read i c false g 8))
  | _ => .next s

/-- `WAITM_TIMEOUT` (R91, R230): the limit runs out, and the `WAITM` returns its compared value. -/
def execWaitmTimeout (core : BitVec 10) (thr : BitVec 2) (s : State) : Out :=
  match (s.thread core.toNat thr).wait with
  | some (.waitm rd cmp limit _ _ true _ none) =>
    .next (if limit = 0 ∨ !s.coreRuns core.toNat then s else s.waitmEnd core.toNat thr rd cmp)
  | _ => .next s

end Sys2Proof.Machine
end

