-- ==== Sys2Proof/Machine/Rows.lean ====
section
/-!
DEFINITION. Accesses of many 64-byte lines made by one instruction: tile, scale, accumulator, vector and context
accesses and descriptor lists (R103, R121-R123, R140, R217). Each holds one entry of the scoreboard. The lines of this
device are moved as one action at issue, when the accesses issued before are complete; a line of another device is waited
for.
-/
namespace Sys2Proof.Machine

/-- The lines of a multi-row read, resolved: `fin` is its effect once the bytes are there; with lines of another device the
thread waits, and each is asked for in a slot (`NI_SLOT_INJECT`). -/
def State.linesRead (s : State) (c : Nat) (t : BitVec 2) (id : Nat) (kind : GatherKind) (ls : List (W64 × Resolved))
    (len : Nat) (fin : State → List Byte → Res) : Res :=
  match s.orderLines c t id ls false len with
  | .stuck => .stall
  | .trapped s => .gone s
  | .ok s =>
    match s.readLines len ls with
    | .error ea => .trap ((s.modCore c (fun k => k.dropAcc id)).eccReached c) { code := excEcc, stval := ea }
    | .ok bs =>
      let s := s.countLines c ls false
      if bs.all Option.isSome then fin s (bs.flatMap (fun b => b.getD []))
      else .wait (s.modThread c t (fun x =>
        { x with wait := some (.gather id kind bs (remoteLines 0 ls) len) }))

/-- A multi-row read (R123): every row is checked before any byte moves. -/
def State.multiRead (s : State) (c : Nat) (t : BitVec 2) (kind : GatherKind) (lines : List RowLine) (len : Nat)
    (fin : State → List Byte → Res) : Res :=
  match s.resolveLines c .read (!(s.thread c t).sup) len lines with
  | (s, .error e) => .trap s e
  | (s, .ok ls) =>
    match s.makeRoom c t with
    | .stuck => .stall
    | .trapped s => .gone s
    | .ok s =>
      let id := (s.core c).mem.nextId
      (s.modCore c (fun k => k.addLines c t lines len false)).linesRead c t id kind ls len
        (fun s bs => fin (s.modCore c (fun k => k.dropAcc id)) bs)

/-- An instruction whose access, number `id`, is held through several reads ends with what the last of them came to: its
entry of the scoreboard is given up (R217). -/
def endAcc (c id : Nat) : Res → Res
  | .done s => .done (s.modCore c (fun k => k.dropAcc id))
  | .trap s e => .trap (s.modCore c (fun k => k.dropAcc id)) e
  | r => r

/-! ### Writes -/

/-- A multi-row write of the bytes of its lines (R123): every row is checked before any byte moves. -/
def State.multiWrite (s : State) (c : Nat) (t : BitVec 2) (lines : List RowLine) (bytes : State → List (List Byte))
    (fin : State → State) : Res :=
  match s.resolveLines c .write (!(s.thread c t).sup) 64 lines with
  | (s, .error e) => .trap s e
  | (s, .ok ls) =>
    match s.makeRoom c t with
    | .stuck => .stall
    | .trapped s => .gone s
    | .ok s =>
      let id := (s.core c).mem.nextId
      match (s.modCore c (fun k => k.addLines c t lines 64 true)).orderLines c t id ls true 64 with
      | .stuck => .stall
      | .trapped s => .gone s
      | .ok s =>
        let s := s.modCore c (fun k => k.dropAcc id)
        match ls.find? (fun p => match p.2.place with | .here pa => !s.homeUp pa | .remote _ => false) with
        | some p => .trap s { code := excAccess, stval := p.1 }
        | none => .done (fin ((s.countLines c ls true).writeLines c t ls (bytes s)))

/-! ### Waiting instructions -/

/-- What a waiting instruction came to when its event arrived: complete, an exception, or waiting on. An exception that the
thread's earlier work still keeps back is raised later (`Wait.trapping`). -/
def State.settleRes (s0 : State) (c : Nat) (t : BitVec 2) : Res → State
  | .done s => s.wake c t (fun y => y)
  | .jump s pc => s.modThread c t (fun y => { y with wait := none, n := y.n + 1, pc := pc })
  | .trap s e =>
    ((s.modThread c t (fun y => { y with wait := none })).raise c t e).getD
      (s.modThread c t (fun y => { y with wait := some (.trapping e) }))
  | .wait s => s
  | .stall => s0
  | .gone s => s

/-- An exception that waited for the thread's earlier work is taken, when it can be. -/
def State.trapServe (s : State) (c : Nat) (t : BitVec 2) : State :=
  match (s.thread c t).wait with
  | some (.trapping e) => ((s.modThread c t (fun y => { y with wait := none })).raise c t e).getD s
  | _ => s

end Sys2Proof.Machine
end

