-- ==== Sys2Proof/Machine/Stream.lean ====
section
/-!
DEFINITION. The stream unit (R158-R172): `SDESC`, `SSTOP`, `SSTAT`, the beats of a channel, its block lists, its
faults and completions.
-/
namespace Sys2Proof.Machine

/-! ### Descriptors (R162-R164) -/

def dSrc (d : BitVec 256) : Nat := dField d 0 8
def dDst (d : BitVec 256) : Nat := dField d 8 8
def dSbln (d : BitVec 256) : Nat := dField d 20 2
def dDbln (d : BitVec 256) : Nat := dField d 22 2
def dTag (d : BitVec 256) : Nat := dField d 28 4
def dExt (d : BitVec 256) : Nat := fld (dCtrl d) 4 2
def dPrio (d : BitVec 256) : Nat := fld (dCtrl d) 6 2
def dPen (d : BitVec 256) : Bool := (dCtrl d).getLsbD 10

/-- The widths and the conversion form a combination of R163. -/
def dConvOk (d : BitVec 256) : Bool :=
  fld (dCtrl d) 2 2 != 3 &&
    (match dExt d with
      | 0 => dSw d ≤ dDw d
      | 1 => dSw d < dDw d
      | 2 => dDw d < dSw d
      | _ => false)

/-- `n` bytes from an address lie inside the address space of the address, and not in the LM window of an absent core
(R16, R163); the LM windows are no part of the virtual space (R269). -/
def State.spanOk (s : State) (addr n : Nat) : Bool :=
  if addr < 0x80000 then addr + n ≤ 0x80000
  else if 2 ^ 48 ≤ addr then addr % 2 ^ 47 + n ≤ 2 ^ 47
  else if inLm addr then addr % 0x100000 + n ≤ 0x80000 && s.present ((addr - lmBase) / 0x100000)
  else addr + n ≤ 2 ^ 48 && (lmBase ≤ addr || addr + n ≤ lmBase)

/-- One side of a descriptor passes R163. -/
def State.sideOk (s : State) (bl : Bool) (addr n width count : Nat) : Bool :=
  if bl then addr % 16 == 0 && s.spanOk addr (16 * n) else n == 0 && s.spanOk addr (count * width)

/-- A flat destination is a post address (R366, R371). -/
def dPost (d : BitVec 256) : Bool := !dDbl d && 2 ^ 48 ≤ dDst d && dDst d / 2 ^ 43 % 16 == 1

/-- A descriptor passes the checks of R160, and those of R371 for a post. -/
def State.descOk (s : State) (d : BitVec 256) : Bool :=
  (!dPost d || (dDst d % 4096 == 0 && dCount d * dDw d ≤ 4032)) && dConvOk d && fld (dCtrl d) 11 5 == 0 && dField d 26 2 == 0 &&
    s.sideOk (dSbl d) (dSrc d) (dSbln d) (dSw d) (dCount d) && s.sideOk (dDbl d) (dDst d) (dDbln d) (dDw d) (dCount d)

/-- Block-list entries (R164). -/
def eAddr (e : BitVec 128) : Nat := fld e 0 48
def eZero (e : BitVec 128) : Bool := e.getLsbD 48
def eLen (e : BitVec 128) : Nat := fld e 64 32

/-- A block-list entry passes the check of R165 for an element width. -/
def entryOk (e : BitVec 128) (width : Nat) : Bool :=
  fld e 49 15 == 0 && fld e 96 32 == 0 && !(eZero e && eAddr e != 0) && eLen e % width == 0 && eAddr e + eLen e ≤ 2 ^ 48

/-! ### Channels -/

/-- Channel `ch` of core `c`; the state with it replaced. -/
def State.chan (s : State) (c : Nat) (ch : BitVec 3) : Channel := rget (s.core c).ch (qix ch)
def State.setChan (s : State) (c : Nat) (ch : BitVec 3) (h : Channel) : State :=
  s.modCore c (fun k => { k with ch := rset k.ch (qix ch) h })

/-- The current descriptor. -/
def Channel.cur (h : Channel) : Option (BitVec 256) := h.store[h.didx]?

/-- The channel executes its list. -/
def Channel.active (h : Channel) : Bool := h.state == .running || h.state == .stopping

/-- Elements held in the holding register (R177). -/
def Channel.held (h : Channel) : Nat :=
  match h.cur with
  | some d => h.rd - h.wr / dDw d
  | none => 0

/-- The number of a channel state (R161). -/
def ChState.num : ChState → Nat
  | .idle => 0 | .running => 1 | .stopping => 2 | .stopped => 3 | .faulted => 4

/-- The four words that `SSTAT` reads (R161). The spec gives `DIDX` no value in `IDLE` after a list; it reads the low four bits
of n there (DESIGN CHOICE, log 99). -/
def Channel.word (h : Channel) (sel : Nat) : W64 :=
  let bad := h.state == .faulted
  match sel with
  | 0 => BitVec.ofNat 64 (h.state.num + 8 * (bad && h.fnr).toNat + 16 * (h.didx % 16) + 256 * (h.n - h.didx) +
      (match h.cur with | some d => dPrio d * 2 ^ 14 | none => 0) +
      (if bad then h.fcode.toNat * 2 ^ 16 + h.fent.toNat * 2 ^ 22 + h.fside.toNat * 2 ^ 23 + h.fidx.toNat * 2 ^ 24 else 0) +
      (h.hold.length + h.part.length) * 2 ^ 40)
  | 1 => h.list + BitVec.ofNat 64 (32 * h.didx)
  | 2 => BitVec.ofNat 64 ((match h.cur with | some d => h.wr / dDw d | none => h.wr) % 2 ^ 32 + h.rd % 2 ^ 32 * 2 ^ 32)
  | _ => if bad then h.faddr else 0

/-- A channel's entry to `STOPPED`, `FAULTED` or `IDLE` is traced (R395). -/
def State.traceChan (s : State) (c : Nat) (ch : BitVec 3) (d : Option (BitVec 256)) : State :=
  let h := s.chan c ch
  let bad := h.state == .faulted
  s.traceCore c 0 0x05 (ch.toNat + h.state.num * 2 ^ 8 + (if bad then h.fcode.toNat * 2 ^ 16 else 0) +
    (match d with | some d => dTag d * 2 ^ 24 | none => 0) + (if bad then h.faddr.toNat * 2 ^ 56 else 0))

/-- A channel's pennant set. -/
def State.chanPenn (s : State) (c : Nat) (ch : BitVec 3) : State := s.setPenn c (8 + ch.toNat)

/-! ### `SDESC` (R159-R160) -/

/-- The core's counters with elements dropped (R177). -/
def Core.dropElems (k : Core) (n : Nat) : Core :=
  { k with cnt := { k.cnt with dropEl := k.cnt.dropEl + BitVec.ofNat 64 n } }

/-- A request of a channel whose list has been left: `counts` says that the channel waits for the acknowledgement of its
writes. -/
def RemOrigin.left (o : RemOrigin) (c : Nat) (ch : BitVec 3) (counts : Bool) : RemOrigin :=
  match o with
  | .chanRead d h => if d = c ∧ h = ch then .chanOld c ch false true else o
  | .chanEntry d h _ => if d = c ∧ h = ch then .chanOld c ch false true else o
  | .chanWrite d h _ => if d = c ∧ h = ch then .chanOld c ch counts false else o
  | .post d h _ => if d = c ∧ h = ch then .chanOld c ch counts false else o
  | .chanOld d h k r => if d = c ∧ h = ch then .chanOld c ch (k && counts) r else o
  | _ => o

/-- The channel leaves its list: what other devices have not answered stays outstanding. The spec does not say what an answer
to a list that a `POST` has replaced does: an error is counted and logged, and the new list is not touched; a refused post
is not sent again (DESIGN CHOICE, log 134). -/
def State.leaveList (s : State) (c : Nat) (ch : BitVec 3) (counts : Bool) : State :=
  { s with
    remReqs := s.remReqs.map (fun q => { q with org := q.org.left c ch counts })
    postWaits := s.postWaits.filter (fun w => !(w.core == c && w.ch == ch)) }

/-- A checked list is loaded, and the channel runs (R159); `since` is the place of its `SDESC` in the core's issue order
(R219). A pennant that is due for the list replaced is set once the writes of that one are acknowledged (R158, R171). -/
def State.chanStart (s : State) (c : Nat) (ch : BitVec 3) (list : W64) (ds : List (BitVec 256)) (user : Bool) (since : Nat) :
    State :=
  let h := s.chan c ch
  let s := if h.state == .faulted then s.modCore c (fun k => k.dropElems h.held) else s
  let waiting := (s.remReqs.countP (fun q => match q.org with
    | .chanWrite d h _ => d == c && h == ch
    | .post d h _ => d == c && h == ch
    | _ => false))
  let due := h.pennDue || h.oldDue
  let s := if due && waiting + h.oldOut = 0 then s.chanPenn c ch else s
  (s.leaveList c ch true).setChan c ch { Channel.reset with
    state := .running, list := list, n := ds.length, store := ds, user := user, since := since
    oldOut := waiting + h.oldOut, oldDue := due && 0 < waiting + h.oldOut }

/-- The list has been read, descriptor by descriptor, an uncorrectable one as no bytes: the descriptors are checked, and the
channel starts (R160). An uncorrectable one counts after the checks of the others (R99). -/
def State.postCheck (s : State) (c : Nat) (t : BitVec 2) (ch : BitVec 3) (list : W64) (since : Nat) (bs : List (List Byte)) :
    Res :=
  match bs.findIdx? (fun b => !b.isEmpty && !s.descOk (BitVec.ofNat 256 (ofLE b))) with
  | some i => .trap s { code := excAccess, stval := list + BitVec.ofNat 64 (32 * i) }
  | none =>
    match bs.findIdx? List.isEmpty with
    | some i => .trap s { code := excEcc, stval := (list + BitVec.ofNat 64 (32 * i)) &&& ~~~63 }
    | none => .done (s.chanStart c ch list (bs.map (fun b => BitVec.ofNat 256 (ofLE b))) (!(s.thread c t).sup) since)

/-- The lines of a list, a descriptor each. -/
def listLines (list : W64) (n : Nat) : List RowLine :=
  (List.range n).map (fun i => ⟨list + BitVec.ofNat 64 (32 * i), list + BitVec.ofNat 64 (32 * i)⟩)

/-- The exceptions of reading a list, the first in the order of R99 (R160): those of translation with the address that
fails, `ACCESS` with the list's. Of a list of more than 16 descriptors the first 16 are looked up (DEDUCED, log 100). -/
def State.listExc (s : State) (c : Nat) (t : BitVec 2) (list n : W64) : State × Option Exc :=
  let r := s.areaExc c .read (!(s.thread c t).sup) 32 list none (listLines list (min n.toNat 16))
  let bounds : Option Exc := if 16 < n.toNat ∨ !s.spanOk list.toNat (32 * n.toNat) then some { code := excAccess, stval := list } else none
  let e := match r.2, bounds with
    | some e, some b => some (firstExc (some e) b)
    | some e, none => some e
    | none, b => b
  (r.1, e.map (fun e => if e.code = excAccess then { e with stval := list } else e))

/-- The descriptors of a list, its lines resolved, as far as they lie on this device: an uncorrectable one has no bytes. -/
def State.listBytes (s : State) (ls : List (W64 × Resolved)) : List (Option (List Byte)) :=
  ls.map (fun p => match p.2.place with
    | .here pa => some (if s.poisoned pa 32 || !s.homeUp pa then [] else Memory.readBytes s.mem pa 32)
    | .remote _ => none)

/-- The list of a `POST`, its lines resolved, is read (R159-R160): at once where it lies on this device. -/
def State.listRead (s : State) (c : Nat) (t : BitVec 2) (ch : BitVec 3) (list : W64) (n id : Nat) (ls : List (W64 × Resolved)) : Res :=
  match s.orderLines c t id ls false 32 with
  | .stuck => .stall
  | .trapped s => .gone s
  | .ok s =>
    let bs := s.listBytes ls
    let s := s.countLines c ls false
    let s := if bs.any (· == some []) then s.eccReached c else s
    if bs.all Option.isSome then s.postCheck c t ch list id (bs.map (fun b => b.getD []))
    else .wait (s.modThread c t (fun x =>
      { x with wait := some (.gather id (.sdesc ch list n) bs (remoteLines 0 ls) 32) }))

/-- `POST`, number `id` of the core's accesses, on a channel that is not executing (R159-R160). -/
def State.postList (s : State) (c : Nat) (t : BitVec 2) (ch : BitVec 3) (list n : W64) (id : Nat) : Res :=
  if list.toNat % 32 ≠ 0 then .trap s { code := excAlign, stval := list }
  else
    match s.listExc c t list n with
    | (s, some e) => .trap s e
    | (s, none) =>
      match s.resolveLines c .read (!(s.thread c t).sup) 32 (listLines list n.toNat) with
      | (s, .error e) => .trap s e
      | (s, .ok ls) => s.listRead c t ch list n.toNat id ls

/-- `RESUME`, number `id` in the core's issue order, on a channel that is not executing (R159, R219). -/
def State.chanResume (s : State) (c : Nat) (ch : BitVec 3) (id : Nat) : Res :=
  let h := s.chan c ch
  let run := s.setChan c ch { h with state := .running, since := id }
  match h.state with
  | .faulted => if h.fnr then .trap s { code := excAccess, stval := h.faddr } else .done run
  | .stopped => .done run
  | _ => .done s

/-- The thread waits, in an `SDESC` of a channel issued before number `seq`, or reads the list of one. -/
def Thread.ahead (x : Thread) (ch : BitVec 3) (seq : Nat) : Bool :=
  match x.wait with
  | some (.sdesc q ch' _ _ _) => ch' == ch && q < seq
  | some (.gather _ (.sdesc ch' _ _) _ _ _) => ch' == ch
  | _ => false

/-- An `SDESC` with its place in the core's issue order acts on its channel once that is not executing and no `SDESC`
issued before it still waits for it (R159, R179). -/
def State.sdescAct (s : State) (c : Nat) (t : BitVec 2) (seq : Nat) (ch : BitVec 3) (list n : W64) (resume : Bool) : Res :=
  let hold : Res := .wait (s.modThread c t (fun y => { y with wait := some (.sdesc seq ch list n resume) }))
  if (s.chan c ch).active ∨ (s.core c).thr.toList.any (fun x => x.ahead ch seq) then hold
  else if resume then s.chanResume c ch seq
  else
    match s.postList c t ch list n seq with
    | .stall => hold
    | r => endAcc c seq r

/-- An `SDESC` issues: it takes a number of the core's issue order, and a `POST` an entry of the scoreboard for the list that
it will read (R217, R219). -/
def State.sdescIssue (s : State) (c : Nat) (t : BitVec 2) (ch : BitVec 3) (list n : W64) (resume : Bool) : Res :=
  if resume then
    let seq := (s.core c).mem.nextId
    (s.modCore c (fun k => { k with mem := { k.mem with nextId := seq + 1 } })).sdescAct c t seq ch list n true
  else
    match s.makeRoom c t with
    | .stuck => .stall
    | .trapped s => .gone s
    | .ok s =>
      (s.modCore c (fun k => k.addLines c t (listLines list (min n.toNat 16)) 32 false)).sdescAct c t
        (s.core c).mem.nextId ch list n false

/-- `SDESC POST` (R159). -/
def execSdescPost (x : Iss) (o : FmtSdesc) (s : State) : Out :=
  s.issue x
    { word := BitVec.ofNat 32 (encSdesc 58 0 0 x o), legal := o.rm == 0 && o.z == 0, uses := [o.ra, o.rb],
      drains := true }
    (fun s =>
      let y := s.thread x.core.toNat x.thr
      if y.getG o.rb = 0 then .done s
      else s.sdescIssue x.core.toNat x.thr o.ch (y.getG o.ra) (y.getG o.rb) false)

/-- `SDESC RESUME` (R159). -/
def execSdescResume (x : Iss) (o : FmtSdesc) (s : State) : Out :=
  s.issue x
    { word := BitVec.ofNat 32 (encSdesc 58 0 1 x o), legal := o.rm == 0 && o.z == 0 && o.ra == 0 && o.rb == 0,
      drains := true }
    (fun s => s.sdescIssue x.core.toNat x.thr o.ch 0 0 true)

/-- The thread of a core whose `SDESC` for a channel waits and issued first. -/
def State.sdescNext (s : State) (c : Nat) (ch : BitVec 3) : Option (BitVec 2) :=
  (([0, 1, 2, 3] : List (BitVec 2)).find? (fun t =>
    match (s.thread c t).wait with
    | some (.sdesc seq ch' _ _ _) => ch' == ch && !(s.core c).thr.toList.any (fun x => x.ahead ch seq)
    | _ => false))

/-- A channel is not executing: the `SDESC`s that wait for it act in the order of their issue (R179), `fuel` at most. -/
def State.sdescServe (s : State) (c : Nat) (ch : BitVec 3) : Nat → State
  | 0 => s
  | fuel + 1 =>
    match s.sdescNext c ch with
    | none => s
    | some t =>
      match (s.thread c t).wait with
      | some (.sdesc seq _ list n resume) =>
        if (s.chan c ch).active then s
        else (s.settleRes c t (s.sdescAct c t seq ch list n resume)).sdescServe c ch fuel
      | _ => s

/-! ### `SSTOP` and `SSTAT` (R161) -/

/-- `SSTOP` (R161). It never waits: what the device alone can complete of the thread's earlier accesses is completed first,
so that an exception of theirs comes before it (R98), and what waits for another device is not waited for (DEDUCED,
log 102). -/
def execSstop (x : Iss) (o : FmtSstop) (s : State) : Out :=
  s.issue x
    { word := BitVec.ofNat 32 (encSstop 58 1 x o), legal := o.rm == 0 && o.zhi == 0 && o.zlo == 0 }
    (fun s =>
      let c := x.core.toNat
      let stop (s : State) : State :=
        let h := s.chan c o.ch
        if h.state == .running then s.setChan c o.ch { h with state := .stopping } else s
      match s.drainAccs c x.thr (s.core c).mem.nextId with
      | .trapped s => .gone s
      | .ok s => .done (stop s)
      | .stuck => .done (stop s))

/-- `SSTAT` (R161). -/
def execSstat (x : Iss) (o : FmtSstat) (s : State) : Out :=
  s.issue x
    { word := BitVec.ofNat 32 (encSstat 58 2 x o), legal := o.rm == 0 && o.zhi == 0 && o.zlo == 0, uses := [o.rd] }
    (fun s =>
      let c := x.core.toNat
      .done (s.modThread c x.thr (fun y => y.setG o.rd ((s.chan c o.ch).word o.sel.toNat))))

/-! ### Faults and completion (R170-R172) -/

/-- A fault of a channel. -/
structure ChFault where
  code : Nat
  fnr : Bool
  side : Bool
  addr : W64
  ent : Bool := false
  idx : Nat := 0

/-- The channel enters `FAULTED` (R158, R170). Its pennant is set once every write that `DONE` counts has been answered
(R171). -/
def State.chanFault (s : State) (c : Nat) (ch : BitVec 3) (f : ChFault) : State :=
  let h := s.chan c ch
  let s := s.setChan c ch { h with
    state := .faulted, fnr := f.fnr, fcode := BitVec.ofNat 6 f.code, fent := f.ent, fside := f.side
    fidx := BitVec.ofNat 16 f.idx, faddr := f.addr, pennDue := h.remOut != 0 }
  let s := if h.remOut = 0 then s.chanPenn c ch else s
  (s.traceChan c ch h.cur).sdescServe c ch 4

/-- A write of the channel to another device has been answered (R166, R171). -/
def State.chanAnswered (s : State) (c : Nat) (ch : BitVec 3) : State :=
  let h := s.chan c ch
  let s := s.setChan c ch { h with remOut := h.remOut - 1, pennDue := h.pennDue && 1 < h.remOut }
  if h.pennDue && h.remOut ≤ 1 then s.chanPenn c ch else s

/-- A write of a list that the channel has left has been answered. -/
def State.oldAnswered (s : State) (c : Nat) (ch : BitVec 3) : State :=
  let h := s.chan c ch
  let s := s.setChan c ch { h with oldOut := h.oldOut - 1, oldDue := h.oldDue && 1 < h.oldOut }
  if h.oldDue && h.oldOut ≤ 1 then s.chanPenn c ch else s

/-- An error response answers a write or a read of a channel (R170): the channel is faulted, and cannot be resumed. Of one
that a resumable fault has already stopped, the error response is the fault; data and a block-list entry that arrive then
are dropped, and read again after a `RESUME` (DESIGN CHOICE, log 101). -/
def State.chanError (s : State) (c : Nat) (ch : BitVec 3) (code : Nat) (side : Bool) (addr : W64) : State :=
  let h := s.chan c ch
  if h.active then s.chanFault c ch { code := code, fnr := true, side := side, addr := addr }
  else if h.state == .faulted && !h.fnr then
    s.setChan c ch { h with fnr := true, fcode := BitVec.ofNat 6 code, fent := false, fside := side, fidx := 0, faddr := addr }
  else s

/-- The current descriptor is complete: the next one, a stop, or the end of the list (R158, R166, R172). -/
def State.descDone (s : State) (c : Nat) (ch : BitVec 3) : State :=
  let h := s.chan c ch
  match h.cur with
  | none => s
  | some d =>
    let left := h.didx + 1 < h.n
    let next : Channel := { h with didx := h.didx + 1, srcIdx := 0, srcEnt := none, srcOff := 0, dstIdx := 0,
                                   dstEnt := none, dstOff := 0, post := [] }
    if !left then
      (((s.setChan c ch { next with state := .idle, wr := h.wr / dDw d }).chanPenn c ch).traceChan c ch (some d)).sdescServe
        c ch 4
    else
      let next := { next with rd := 0, wr := 0 }
      if h.state == .stopping then
        (((s.setChan c ch { next with state := .stopped }).chanPenn c ch).traceChan c ch (some d)).sdescServe c ch 4
      else
        let s := s.setChan c ch next
        if dPen d then s.chanPenn c ch else s

/-- Every write of the current descriptor is acknowledged (R166). -/
def Channel.complete (h : Channel) : Bool :=
  match h.cur with
  | some d => h.wr == dCount d * dDw d && h.hold.isEmpty && h.remOut == 0
  | none => false

/-- `DESCRIPTOR_COMPLETE` (R166). -/
def execDescriptorComplete (core : BitVec 10) (ch : BitVec 3) (s : State) : Out :=
  let c := core.toNat
  let h := s.chan c ch
  if s.coreRuns c && h.active && h.complete then .next (s.descDone c ch) else .next s

/-! ### Beats (R166-R167) -/

/-- One element converted (R163). -/
def convElem (d : BitVec 256) (bs : List Byte) : List Byte :=
  match dExt d with
  | 1 => toLE (dDw d) (sext (8 * dSw d) (ofLE bs)).toNat
  | _ => toLE (dDw d) (ofLE bs)

/-- Source bytes taken into the holding register, elements converted as they become whole. -/
def Channel.take (h : Channel) (d : BitVec 256) : List Byte → Channel
  | [] => h
  | b :: bs =>
    let p := h.part ++ [b]
    (if p.length = dSw d then { h with part := [], hold := h.hold ++ convElem d p, rd := h.rd + 1 }
      else { h with part := p }).take d bs

/-- Bytes of the source that have been read. -/
def Channel.srcBytes (h : Channel) (d : BitVec 256) : Nat := h.rd * dSw d + h.part.length

/-- The address and the room at the source: of the flat side, or of the entry in use; `none` address for a `ZERO`
entry. -/
def Channel.srcAt (h : Channel) (d : BitVec 256) : Option (Option Nat × Nat) :=
  let left := dCount d * dSw d - h.srcBytes d
  if dSbl d then
    match h.srcEnt with
    | some e => some (if eZero e then none else some (eAddr e + h.srcOff), min left (eLen e - h.srcOff))
    | none => none
  else some (some ((dSrc d + h.srcBytes d) % 2 ^ 64), left)

/-- As `srcAt` for the destination. -/
def Channel.dstAt (h : Channel) (d : BitVec 256) : Option (Option Nat × Nat) :=
  let left := dCount d * dDw d - h.wr
  if dDbl d then
    match h.dstEnt with
    | some e => some (if eZero e then none else some (eAddr e + h.dstOff), min left (eLen e - h.dstOff))
    | none => none
  else some (some ((dDst d + h.wr) % 2 ^ 64), left)

/-- Bytes to the end of the 64-byte block of an address. -/
def blockRoom (a : Option Nat) : Nat := match a with | some a => 64 - a % 64 | none => 64

/-- The most source bytes, up to `n`, whose converted form fits the holding register (R167). -/
def Channel.fit (h : Channel) (d : BitVec 256) (n : Nat) : Nat :=
  ((List.range (n + 1)).filter (fun m =>
    let p := h.part.length + m
    h.hold.length + p / dSw d * dDw d + p % dSw d ≤ 128)).foldl max 0

/-- A beat of a channel may be performed: nothing that the core issued before the channel's start and that overlaps is
incomplete (R219), the wheel has its slot, with a response entry for a read (R173-R174), and the memory is clocked
(R26). -/
def State.beatFree (s : State) (c : Nat) (h : Channel) (addr : W64) (r : Resolved) (n : Nat) (write : Bool) : Bool :=
  !(s.core c).mem.accs.any (fun a => a.id < h.since && a.over r.space r.lo n) && s.slotFor c addr r.place write &&
    (match r.place with | .here pa => s.memRuns pa | .remote _ => true)

/-- The fault of a beat that fails to resolve (R170). -/
def beatExc (side : Bool) (addr : W64) (e : Exc) : ChFault := { code := e.code, fnr := false, side := side, addr := addr }

/-- A source beat's bytes arrive (R177). -/
def State.srcArrive (s : State) (c : Nat) (ch : BitVec 3) (d : BitVec 256) (bs : List Byte) : State :=
  let h := s.chan c ch
  let h' := (h.take d bs)
  (s.setChan c ch { h' with srcOff := h.srcOff + bs.length }).modCore c (fun k =>
    { k with cnt := { k.cnt with srcEl := k.cnt.srcEl + BitVec.ofNat 64 (h'.rd - h.rd) } })

/-- A source beat (R166-R167). -/
def State.srcBeat (s0 : State) (c : Nat) (ch : BitVec 3) (d : BitVec 256) (ecc : Ecc) : State :=
  let h := s0.chan c ch
  match h.srcAt d with
  | none => s0
  | some (none, room) =>
    let n := h.fit d (min room 64)
    if n = 0 then s0 else s0.srcArrive c ch d (List.replicate n 0)
  | some (some a, room) =>
    let n := h.fit d (min room (blockRoom (some a)))
    let addr := BitVec.ofNat 64 a
    if n = 0 ∨ s0.remReqs.any (fun q => q.org == .chanRead c ch) then s0
    else
      match s0.resolve c addr .read h.user with
      | (s, .error e) => s.chanFault c ch (beatExc false addr e)
      | (s, .ok r) =>
        if !s.beatFree c h addr r n false then s0
        else
          let s := s.modCore c (fun k => k.countLine addr r.place false)
          match r.place with
          | .here pa =>
            let y := s.homeRead pa n ecc
            if y.2.2 then
              (y.1.eccReached c).chanFault c ch { code := excEcc, fnr := false, side := false, addr := addr }
            else y.1.srcArrive c ch d y.2.1
          | .remote g => s.sendReq (.chanRead c ch) addr (fun q => .read q c true g n)

/-- A destination beat's bytes leave the holding register (R177). -/
def State.dstLeave (s : State) (c : Nat) (ch : BitVec 3) (d : BitVec 256) (n : Nat) : State :=
  let h := s.chan c ch
  (s.setChan c ch { h with hold := h.hold.drop n, wr := h.wr + n, dstOff := h.dstOff + n }).modCore c (fun k =>
    { k with cnt := { k.cnt with
      dstEl := k.cnt.dstEl + BitVec.ofNat 64 ((h.wr + n) / dDw d - h.wr / dDw d)
      dstBytes := k.cnt.dstBytes + BitVec.ofNat 64 n } })

/-- A post leaves whole (R371), with the time of its first injection (R391): the descriptor completes on its acceptance
(R373). -/
def State.postSend (s : State) (c : Nat) (ch : BitVec 3) (d : BitVec 256) (time : W64) (bs : List Byte) : State :=
  let dst := BitVec.ofNat 64 (dDst d)
  (s.sendReq (.post c ch time) dst (fun q => .post q c ch (dTag d) time dst bs)).setChan c ch
    { s.chan c ch with remOut := 1 }

/-- A destination beat (R166-R167); `ecc` is what the code over the holding register finds (R179). -/
def State.dstBeat (s0 : State) (c : Nat) (ch : BitVec 3) (d : BitVec 256) (ecc : Ecc) : State :=
  let h := s0.chan c ch
  match h.dstAt d with
  | none => s0
  | some (a, room) =>
    let n := min room (blockRoom a)
    if n = 0 ∨ h.hold.length < n then s0
    else
      match ecc, a with
      | .uncorrectable, _ =>
        (s0.coreUncorrected c 0 5 excEcc (BitVec.ofNat 64 (a.getD 0)) false).chanFault c ch
          { code := excEcc, fnr := true, side := true, addr := BitVec.ofNat 64 (a.getD 0) }
      | _, none => s0.dstLeave c ch d n
      | _, some a =>
        let addr := BitVec.ofNat 64 a
        match s0.resolve c addr .write h.user with
        | (s, .error e) => s.chanFault c ch (beatExc true addr e)
        | (s, .ok r) =>
          if !s.beatFree c h addr r n true then s0
          else
            let s := if ecc = .corrected then s.coreCorrected c 5 else s
            let s := s.modCore c (fun k => (k.countLine addr r.place true).invalidate (touches r.place n))
            match r.place with
            | .here pa =>
              if s.homeUp pa then (s.homeWrite pa (h.hold.take n)).dstLeave c ch d n
              else s.chanFault c ch { code := excAccess, fnr := true, side := true, addr := addr }
            | .remote g =>
              if dPost d then
                let s := s.dstLeave c ch d n
                let h' := { s.chan c ch with post := h.post ++ h.hold.take n }
                let s := s.setChan c ch h'
                if h'.wr = dCount d * dDw d then s.postSend c ch d s.devtime h'.post else s
              else
              let s := s.sendReq (.chanWrite c ch g) addr (fun q => .write q c true g (h.hold.take n))
              let s := s.dstLeave c ch d n
              s.setChan c ch { s.chan c ch with remOut := (s.chan c ch).remOut + 1 }

/-! ### Block-list entries (R165) -/

/-- The side needs its next entry: index and list address, entry count, element width. The channel reads an entry when it
needs it, and none ahead, which the spec leaves open from none to 4 (DESIGN CHOICE, log 103). -/
def Channel.needsEntry (h : Channel) (d : BitVec 256) (dst : Bool) : Option (Nat × Nat × Nat × Nat) :=
  if dst then
    let used := match h.dstEnt with | some e => eLen e ≤ h.dstOff | none => true
    if dDbl d && h.wr < dCount d * dDw d && used then some (h.dstIdx, dDst d, dDbln d, dDw d) else none
  else
    let used := match h.srcEnt with | some e => eLen e ≤ h.srcOff | none => true
    if dSbl d && h.srcBytes d < dCount d * dSw d && used then some (h.srcIdx, dSrc d, dSbln d, dSw d) else none

/-- Entry `i` has been read: it is checked, and put in use (R165). -/
def State.entryArrive (s : State) (c : Nat) (ch : BitVec 3) (dst : Bool) (i list width : Nat) (bs : List Byte) : State :=
  let e := BitVec.ofNat 128 (ofLE bs)
  let h := s.chan c ch
  if !entryOk e width then
    s.chanFault c ch { code := excAccess, fnr := true, side := dst, addr := BitVec.ofNat 64 (list + 16 * i), ent := true,
                       idx := i }
  else if dst then s.setChan c ch { h with dstEnt := some e, dstOff := 0, dstIdx := i + 1 }
  else s.setChan c ch { h with srcEnt := some e, srcOff := 0, srcIdx := i + 1 }

/-- The side's next block-list entry is read, and checked (R165); `ecc` is what the code over it finds. -/
def State.entryBeat (s0 : State) (c : Nat) (ch : BitVec 3) (d : BitVec 256) (dst : Bool) (ecc : Ecc) : State :=
  let h := s0.chan c ch
  match h.needsEntry d dst with
  | none => s0
  | some (i, list, n, width) =>
    let a := list + 16 * i
    let addr := BitVec.ofNat 64 a
    if n ≤ i then s0.chanFault c ch { code := excAccess, fnr := true, side := dst, addr := addr, ent := true, idx := i }
    else if s0.remReqs.any (fun q => q.org == .chanEntry c ch dst) then s0
    else
      match s0.resolve c addr .read h.user with
      | (s, .error e) => s.chanFault c ch (beatExc dst addr e)
      | (s, .ok r) =>
        if !s.beatFree c h addr r 16 false then s0
        else
          let s := s.modCore c (fun k => k.countLine addr r.place false)
          match r.place with
          | .here pa =>
            let y := s.homeRead pa 16 ecc
            if y.2.2 then (y.1.eccReached c).chanFault c ch { code := excEcc, fnr := false, side := dst, addr := addr }
            else y.1.entryArrive c ch dst i list width y.2.1
          | .remote g => s.sendReq (.chanEntry c ch dst) addr (fun q => .read q c true g 16)

/-! ### Which channel is served (R168) -/

/-- What a channel does in one beat: read its source, write its destination, read a block-list entry of a side. -/
inductive BeatKind where
  | source
  | destination
  | entry (dst : Bool)
deriving DecidableEq, Repr

/-- The address of a channel's next beat of a kind; none where it has no such beat. -/
def Channel.beatAddr (h : Channel) (d : BitVec 256) (kind : BeatKind) : Option Nat :=
  match kind with
  | .source =>
    match h.srcAt d with
    | some (some a, room) => if h.fit d (min room (blockRoom (some a))) = 0 then none else some a
    | _ => none
  | .destination =>
    match h.dstAt d with
    | some (some a, room) =>
      let n := min room (blockRoom (some a))
      if n = 0 ∨ h.hold.length < n then none else some a
    | _ => none
  | .entry dst => (h.needsEntry d dst).bind (fun e => if e.2.2.1 ≤ e.1 then none else some (e.2.1 + 16 * e.1))

/-- A beat of the kind writes. -/
def BeatKind.writes : BeatKind → Bool
  | .destination => true
  | _ => false

/-- Bytes of a channel's next beat of a kind. -/
def Channel.beatLen (h : Channel) (d : BitVec 256) (kind : BeatKind) (a : Nat) : Nat :=
  match kind with
  | .source => match h.srcAt d with | some (_, room) => h.fit d (min room (blockRoom (some a))) | none => 0
  | .destination => match h.dstAt d with | some (_, room) => min room (blockRoom (some a)) | none => 0
  | .entry _ => 16

/-- The request of a beat kind that another device has not answered yet. -/
def State.beatAsked (s : State) (c : Nat) (ch : BitVec 3) (kind : BeatKind) : Bool :=
  match kind with
  | .source => s.remReqs.any (fun q => q.org == .chanRead c ch)
  | .destination => false
  | .entry dst => s.remReqs.any (fun q => q.org == .chanEntry c ch dst)

/-- The resource that channel `ch` has a beat of a kind ready for (R168): 0 the read of the core's LM, 1 its write, 2 a slot
of the network interface, with the slot's kind. A beat that will fault is ready too. -/
def State.beatNeeds (s : State) (c : Nat) (ch : BitVec 3) (kind : BeatKind) : Option (Nat × Nat) :=
  let h := s.chan c ch
  match h.cur with
  | none => none
  | some d =>
    if !h.active then none
    else
      match h.beatAddr d kind with
      | none => none
      | some a =>
        let addr := BitVec.ofNat 64 a
        if s.beatAsked c ch kind then none
        else if isOwnLm addr then
          match s.resolve c addr (if kind.writes then .write else .read) h.user with
          | (s, .ok r) => if s.beatFree c h addr r (h.beatLen d kind a) kind.writes then some (kind.writes.toNat, 0) else none
          | (_, .error _) => some (kind.writes.toNat, 0)
        else
          match s.resolve c addr (if kind.writes then .write else .read) h.user with
          | (s, .ok r) =>
            if s.beatFree c h addr r (h.beatLen d kind a) kind.writes then
              some (2, (lineSlot addr r.place kind.writes).getD 0)
            else none
          | (_, .error _) => some (2, kind.writes.toNat)

/-- Priority of a channel's current descriptor. -/
def Channel.prio (h : Channel) : Nat := match h.cur with | some d => dPrio d | none => 0

/-- The kinds of beat, in the order in which a channel's own are tried: the spec does not say which of one channel's beats
that want one slot takes it first (DESIGN CHOICE, log 135). -/
def beatKinds : List BeatKind := [.source, .destination, .entry false, .entry true]

/-- The channels that have a beat ready for a resource. -/
def State.beatReady (s : State) (c : Nat) (need : Nat × Nat) : List (BitVec 3) :=
  ((List.range 8).map (BitVec.ofNat 3)).filter (fun ch => beatKinds.any (fun k => s.beatNeeds c ch k == some need))

/-- Of the channels ready for a resource, the one that is served (R168): the highest priority, and among equals the first
after the one that the resource served last at that priority. Each resource keeps such a channel for each priority of its
own (DEDUCED, log 112). -/
def State.beatNext (s : State) (c : Nat) (need : Nat × Nat) : Option (BitVec 3) :=
  let rs := s.beatReady c need
  ([3, 2, 1, 0] : List Nat).findSome? (fun p =>
    let last := rget (s.core c).served ⟨(4 * need.1 + p) % 12, Nat.mod_lt _ (by decide)⟩
    ((List.range 8).map (fun i => last + 1 + BitVec.ofNat 3 i)).find? (fun ch => rs.contains ch && (s.chan c ch).prio == p))

/-- Channel `ch` is served by a resource at its priority. -/
def Core.serve (k : Core) (ch : BitVec 3) (res : Nat) : Core :=
  { k with served := rset k.served ⟨(4 * res + (rget k.ch (qix ch)).prio) % 12, Nat.mod_lt _ (by decide)⟩ ch }

/-- A beat of a kind is made. -/
def State.beat (s : State) (c : Nat) (ch : BitVec 3) (kind : BeatKind) (ecc : Ecc) : State :=
  match (s.chan c ch).cur with
  | none => s
  | some d =>
    match kind with
    | .source => s.srcBeat c ch d ecc
    | .destination => s.dstBeat c ch d ecc
    | .entry dst => s.entryBeat c ch d dst ecc

/-- The row at which a thread's `TLD` or `TST` stands is ready for a slot of a kind: no event is taken first (R102), and
neither the scoreboard nor the response entries hold it back (R174, R218). A row that will raise an exception is ready for
the slot of its kind too. -/
def State.rowReady (s : State) (c : Nat) (t : BitVec 2) (id : Nat) (store : Bool) (ea : W64) (kind : Nat) : Bool :=
  !(s.eventDue c t && (s.thread c t).atBoundary) &&
    (match s.resolveLine c (if store then .write else .read) (!(s.thread c t).sup) 64 ⟨ea, ea⟩ with
      | (_, .ok (_, r)) =>
        lineSlot ea r.place store == some kind && s.slotFor c ea r.place store &&
          !s.orderHeld c id r.space r.lo 64 store
      | (_, .error _) => !isOwnLm ea && kind == (if store then slotWrite else slotRead))

/-- What has a line ready for a slot: the instruction in which a thread waits, that at the head of an engine's queue. -/
inductive RowSrc where
  | thread (t : BitVec 2)
  | engine (vec : Bool)
deriving DecidableEq, Repr

/-- What has a line ready for a slot of a kind (class 4 of R156), the oldest instruction first (R174). -/
def State.rowFor (s : State) (c kind : Nat) : Option RowSrc :=
  let asks := kind = slotRemote ∧ s.readRoom c
  let threads := ([0, 1, 2, 3] : List (BitVec 2)).filterMap (fun t =>
    match (s.thread c t).wait with
    | some (.rows id store _ base stride) =>
      if s.rowReady c t id store (base + BitVec.ofNat 64 (fld (s.core c).mx.trow 0 5) * stride) kind then
        some (id, RowSrc.thread t)
      else none
    | some (.gather id _ _ (_ :: _) _) => if asks then some (id, RowSrc.thread t) else none
    | _ => none)
  let engines := [false, true].filterMap (fun vec =>
    match (s.core c).gath vec with
    | some ⟨id, _, _ :: _, _⟩ => if asks then some (id, RowSrc.engine vec) else none
    | _ => none)
  ((threads ++ engines).foldl (fun (m : Option (Nat × RowSrc)) x => match m with
    | some y => if y.1 ≤ x.1 then some y else some x
    | none => some x) none).map Prod.snd

/-- The oldest scalar access of the core that is ready for a slot of a kind. -/
def State.accFor (s : State) (c kind : Nat) : Option Acc :=
  (s.core c).mem.accs.find? (fun a => s.mayInject c a && a.slotKind == kind)

/-- A ready beat of channel `ch` gets its resource now (R168, R174): no channel goes before it, and no scalar access or row
wants the slot. -/
def State.granted (s : State) (c : Nat) (ch : BitVec 3) (need : Nat × Nat) : Bool :=
  s.beatNext c need == some ch &&
    (need.1 != 2 || ((s.accFor c need.2).isNone && (s.rowFor c need.2).isNone))

/-- Channel `ch` makes a beat of a kind: one that needs no resource whenever it can, and another when it is its turn. -/
def State.beatTurn (s : State) (c : Nat) (ch : BitVec 3) (kind : BeatKind) (ecc : Ecc) : State :=
  if s.coreRuns c && (s.chan c ch).active then
    match s.beatNeeds c ch kind with
    | some need => if s.granted c ch need then (s.modCore c (fun k => k.serve ch need.1)).beat c ch kind ecc else s
    | none => s.beat c ch kind ecc
  else s

/-- Uncorrectable data in the descriptor store (R179): the channel is faulted and cannot be resumed. The spec gives the
fault no address: it is free (`Config.storeFault`; DESIGN CHOICE, log 114). -/
def State.storeBad (s : State) (c : Nat) (ch : BitVec 3) : State :=
  let s : State := { s with free := s.free + 1 }
  let a := Config.storeFault s.free
  (s.coreUncorrected c 0 5 excEcc a false).chanFault c ch { code := excEcc, fnr := true, side := false, addr := a }

/-- `CHANNEL_BEAT` (R166, R168); `ecc.store` is what the code over the channel's descriptor finds (R179). -/
def execChannelBeat (core : BitVec 10) (ch : BitVec 3) (side : BeatSide) (ecc : BeatEcc) (s : State) : Out :=
  let c := core.toNat
  if s.coreRuns c && (s.chan c ch).active then
    match ecc.store with
    | .uncorrectable => .next (s.storeBad c ch)
    | _ =>
      let s := if ecc.store = .corrected then s.coreCorrected c 5 else s
      .next (s.beatTurn c ch (match side with | .source => .source | .destination => .destination) ecc.data)
  else .next s

/-- `BLOCK_LIST_ENTRY_READ` (R165). -/
def execBlockListEntryRead (core : BitVec 10) (ch : BitVec 3) (side : BeatSide) (ecc : Ecc) (s : State) : Out :=
  .next (s.beatTurn core.toNat ch (.entry (side == .destination)) ecc)

end Sys2Proof.Machine
end

