-- ==== Sys2Proof/Machine/Message.lean ====
section
/-!
DEFINITION. The message and synchronisation instructions (R180-R214): `SEND`, receive queues, pennants, barriers,
`HSIG`; what an arriving message does at its core; the dead-letter ring.
-/
namespace Sys2Proof.Machine

/-! ### Headers (R180-R181) -/

def hDcore (h : W64) : Nat := fld h 0 10
def hDdev (h : W64) : Nat := fld h 10 17
def hLocal (h : W64) : Bool := h.getLsbD 27
def hTag (h : W64) : Nat := fld h 28 16
def hLen (h : W64) : Nat := fld h 44 4

/-- The delivered header (R181). -/
def deliveredHeader (core dev thr : Nat) (remote host : Bool) (tag len : Nat) : W64 :=
  BitVec.ofNat 64 (core % 1024 + (dev % 2 ^ 17) * 2 ^ 10 + (thr % 4) * 2 ^ 27 + remote.toNat * 2 ^ 29 + host.toNat * 2 ^ 30 +
    (tag % 65536) * 2 ^ 32 + (len % 16) * 2 ^ 48)

/-- `TAG` of a delivered header. -/
def mTag (m : Msg) : Nat := fld m.header 32 16

/-! ### The dead-letter ring (R195-R197) -/

/-- A dead-letter record; `place` says where the message was: 0 in flight or held, 1 in a queue, 2 in a spill ring, 3
held for a host `SIGNAL`. -/
def deadRecord (m : Msg) (left : List W32) (core queue popped place : Nat) (now : W64) : BitVec 512 :=
  BitVec.ofNat 512 (m.header.toNat + m.time.toNat * 2 ^ 64 +
    (left.zipIdx.foldl (fun n p => n + p.1.toNat * 2 ^ (32 * p.2)) 0) * 2 ^ 128 +
    (core % 1024 + (queue % 8) * 2 ^ 10 + (if popped = 0 then 0 else 2 ^ 13) + (popped % 16) * 2 ^ 14 + (place % 4) * 2 ^ 18) *
      2 ^ 384 + now.toNat * 2 ^ 448)

/-- The payload of a message with its first `n` words, already popped, zero. -/
def Msg.rest (m : Msg) (n : Nat) : List W32 := m.words.zipIdx.map (fun p => if p.2 < n then 0 else p.1)

/-- A record joins those that partition `n` holds (R196). What leaves a core at its quarantine or its reset joins them whatever their
number, and `HELD` then stays at 65,535: the spec does not say what else becomes of it (DESIGN CHOICE, log 136). -/
def State.deadLetter (s : State) (n : Nat) (r : BitVec 512) : State :=
  s.modPart n (fun p => { p with dead := p.dead ++ [r] })

/-- The control complex still takes dead letters (R196). -/
def State.deadRoom (s : State) (n : Nat) : Bool := (s.part n).dead.length < 65535

/-- `DEAD_LETTER_WRITE` (R196): the oldest record that partition `n` holds is written when its ring has space. -/
def execDeadLetterWrite (part : BitVec 3) (s : State) : Out :=
  let n := part.toNat
  let prod := s.rfld (prt n 0x110) 0 32
  let cons := s.rfld (prt n 0x118) 0 32
  let log := s.rfld (prt n 0x108) 0 5
  match (s.part n).dead with
  | r :: rest =>
    if s.rfld (prt n 0x108) 5 1 = 1 ∧ (prod + 2 ^ 32 - cons) % 2 ^ 32 < 2 ^ log then
      let s := s.homeWrite (s.rfld (prt n 0x100) 0 43 + 64 * (prod % 2 ^ log)) (toLE 64 r.toNat)
      .next ((s.setRfld (prt n 0x110) 0 32 (prod + 1)).modPart n (fun p => { p with dead := rest }))
    else .next s
  | [] => .next s

/-! ### Receive queues (R188-R193) -/

/-- The core's message unit changed. -/
def State.modMu (s : State) (c : Nat) (f : MsgUnit → MsgUnit) : State :=
  s.modCore c (fun k => { k with mu := f k.mu })

def MsgUnit.queue (m : MsgUnit) (q : BitVec 3) : List QMsg := rget m.q (qix q)
def MsgUnit.setQueue (m : MsgUnit) (q : BitVec 3) (l : List QMsg) : MsgUnit := { m with q := rset m.q (qix q) l }
def MsgUnit.cfg (m : MsgUnit) (q : BitVec 3) : W64 := rget m.qcfg (qix q)
def MsgUnit.forms (m : MsgUnit) (q : BitVec 3) : List (Nat × Nat) := rget m.spForms (qix q)
def MsgUnit.head (m : MsgUnit) (q : BitVec 3) : Nat := rget m.spHead (qix q)

/-- Records of the spill ring of a queue (R191). -/
def MsgUnit.ringRecs (m : MsgUnit) (q : BitVec 3) : Nat := 2 ^ (fld (m.cfg q) 8 4 - 6)

/-- LM offset of record `i` of a queue's ring. -/
def MsgUnit.recOff (m : MsgUnit) (q : BitVec 3) (i : Nat) : Nat := fld (m.cfg q) 12 13 * 64 + 64 * (i % m.ringRecs q)

/-- The queue that a tag matches (R188). -/
def MsgUnit.matchTag (m : MsgUnit) (tag : Nat) : BitVec 3 :=
  match m.tagm.toList.find? (fun e => e.getLsbD 35 && (tag &&& fld e 16 16) == (fld e 0 16 &&& fld e 16 16)) with
  | some e => BitVec.ofNat 3 (fld e 32 3)
  | none => 7

/-- The words of a message in the form `HDR` (R190). -/
def Msg.placed (m : Msg) (form : Nat) : List W32 :=
  (if 1 ≤ form then [m.header.setWidth 32, (m.header >>> 32).setWidth 32] else []) ++
    (if 2 ≤ form then [m.time.setWidth 32, (m.time >>> 32).setWidth 32] else []) ++ m.words

/-- The oldest word of a queue leaves it (R192): whether it is uncorrectable, the word, the rest. -/
def popOne : List QMsg → Option (Bool × W32 × List QMsg)
  | [] => none
  | e :: q =>
    match e.left with
    | [] => popOne q
    | [w] => some (e.bad, w, q)
    | w :: ws => some (e.bad, w, { e with popped := e.popped + 1, left := ws } :: q)

/-- The oldest `n` words of a queue leave it: the place of the first uncorrectable one among them, the words, the rest. -/
def popWords : Nat → List QMsg → Option (Option Nat × List W32 × List QMsg)
  | 0, q => some (none, [], q)
  | n + 1, q =>
    match popOne q with
    | none => none
    | some (b, w, q) => (popWords n q).map (fun r => (if b then some 0 else r.1.map (· + 1), w :: r.2.1, r.2.2))

/-- The LM offset of the oldest spill record of a queue, where that record is uncorrectable (R214). -/
def State.spillBad (s : State) (c : Nat) (q : BitVec 3) : Option Nat :=
  let m := (s.core c).mu
  if m.forms q = [] then none
  else
    let off := m.recOff q (m.head q)
    if s.poisoned (lmAddr c off) 64 then some off else none

/-- The locator of a word of a receive queue (R414): `ROW` counts from the queue's oldest word (DESIGN CHOICE, log 141). -/
def queueLocator (q : BitVec 3) (row : Nat) : W64 := BitVec.ofNat 64 (2 ^ 63 + 6 * 2 ^ 12 + q.toNat * 2 ^ 8 + row % 256)

/-- A pop of `n` words from a queue into `rd`, `f` of the words (R192-R193). A word that the Towpath has delivered poisoned is no
event of the queue's own code: it was counted where it arrived (R413 index 10), and its pop consumes poison (R415). -/
def State.popInto (s : State) (c : Nat) (t : BitVec 2) (q : BitVec 3) (n : Nat) (rd : BitVec 5)
    (f : List W32 → W64) : Option Res :=
  match popWords n ((s.core c).mu.queue q) with
  | some (bad, ws, rest) =>
    match bad with
    | some row => some (.trap (s.eccReached c) { code := excEcc, stval := queueLocator q row, loc := true })
    | none =>
      some (.done ((s.modMu c (fun m =>
        { m.setQueue q rest with counts := { m.counts with wordsPop := m.counts.wordsPop + BitVec.ofNat 64 n } })).modThread
        c t (fun y => y.setG rd (f ws))))
  | none =>
    (s.spillBad c q).map (fun off => .trap (s.eccReached c) { code := excEcc, stval := BitVec.ofNat 64 off })

/-- `MOVQ`, waiting while the queue is short (R192). -/
def State.movqAct (s : State) (c : Nat) (t : BitVec 2) (rd : BitVec 5) (q : BitVec 3) (two : Bool) : Res :=
  match s.popInto c t q (if two then 2 else 1) rd (fun ws =>
      BitVec.ofNat 64 (ws.zipIdx.foldl (fun n p => n + p.1.toNat * 2 ^ (32 * p.2)) 0)) with
  | some r => r
  | none => .wait (s.modThread c t (fun y => { y with wait := some (.movq rd q two) }))

/-- The queue that `RECV.SEL` chooses among those of the mask that hold a word (R193). -/
def recvChoice (m : MsgUnit) (mask : BitVec 8) (rot : Bool) (last : BitVec 3) : Option (BitVec 3) :=
  let order := if rot then (List.range 8).map (fun i => (last.toNat + 1 + i) % 8) else List.range 8
  (order.find? (fun i => mask.getLsbD i && m.words (BitVec.ofNat 3 i) != 0)).map (BitVec.ofNat 3)

/-- `RECV.SEL`, waiting while every queue of the mask is empty (R193). -/
def State.recvAct (s : State) (c : Nat) (t : BitVec 2) (rd : BitVec 5) (mask : BitVec 8) (rot : Bool) : Res :=
  match recvChoice (s.core c).mu mask rot (s.thread c t).rot with
  | some q =>
    match s.popInto c t q 1 rd (fun ws => (ws.headD 0).setWidth 64 ||| BitVec.ofNat 64 (q.toNat * 2 ^ 32)) with
    | some (.done s) => .done (if rot then s.modThread c t (fun y => { y with rot := q }) else s)
    | some r => r
    | none => .stall
  | none =>
    match (List.range 8).findSome? (fun i =>
        if mask.getLsbD i then s.spillBad c (BitVec.ofNat 3 i) else none) with
    | some off => .trap (s.eccReached c) { code := excEcc, stval := BitVec.ofNat 64 off }
    | none => .wait (s.modThread c t (fun y => { y with wait := some (.recvSel rd mask rot) }))

/-- The threads of a core in the order of R78: highest `PRIO` first, and within one the first after the thread that issued
last. -/
def State.byPrio (s : State) (c : Nat) : List (BitVec 2) :=
  let last := (s.core c).last
  ([3, 2, 1, 0] : List (BitVec 2)).flatMap (fun p =>
    ([last + 1, last + 2, last + 3, last] : List (BitVec 2)).filter (fun t => (s.ctl c t).prio == p))

/-- Threads that wait for words are served (R193). -/
def State.queueServe (s : State) (c : Nat) : State :=
  (s.byPrio c).foldl (fun s t =>
    match (s.thread c t).wait with
    | some (.movq rd q two) => s.settleRes c t (s.movqAct c t rd q two)
    | some (.recvSel rd mask rot) => s.settleRes c t (s.recvAct c t rd mask rot)
    | _ => s) s

/-- What issue needs of a block 59 instruction: each has effects that cannot be undone. -/
def info59 (word : Nat) (legal : Bool) (uses : List (BitVec 5)) (priv : Bool) : Info :=
  { word := BitVec.ofNat 32 word, legal := legal, priv := priv, uses := uses, drains := true }

/-- `MOVQ` (R192). -/
def execMovq (x : Iss) (o : FmtMovq) (s : State) : Out :=
  s.issue x (info59 (encMovq 59 2 x o) (o.rm == 0 && o.z == 0) [o.rd] false) (fun s =>
    s.movqAct x.core.toNat x.thr o.rd o.q o.w)

/-- `RECV.SEL` (R193). -/
def execRecvSel (x : Iss) (o : FmtRecvSel) (s : State) : Out :=
  s.issue x (info59 (encRecvSel 59 1 x o) (o.rm == 0 && o.z == 0 && o.qmask != 0) [o.rd] false) (fun s =>
    s.recvAct x.core.toNat x.thr o.rd o.qmask o.rot)

/-! ### Arrival (R188-R191) -/

/-- A spill record's bytes (R191). -/
def spillRecord (m : Msg) : List Byte :=
  toLE 64 (deadRecord m m.words 0 0 0 0 0 &&& BitVec.ofNat 512 (2 ^ 384 - 1)).toNat

/-- A message accepted by core `c` into queue `q` with `n` words (R190, R198). -/
def State.accepted (s : State) (c : Nat) (q : BitVec 3) (n : Nat) : State :=
  let s := s.modMu c (fun m => { m with counts := { m.counts with
    inn := m.counts.inn + 1, wordsIn := m.counts.wordsIn + BitVec.ofNat 64 n } })
  let cfg := (s.core c).mu.cfg q
  if cfg.getLsbD 7 then s.setPenn c (fld cfg 4 3) else s

/-- A message arrives at core `c` (R188, R190): the flag says that it is accepted. -/
def State.arrive (s : State) (c : Nat) (msg : Msg) (bad : Bool) : State × Bool :=
  let m := (s.core c).mu
  let q := m.matchTag (mTag msg)
  let form := fld (m.cfg q) 0 2
  let ws := msg.placed form
  let seq := m.counts.inn.toNat
  if m.forms q = [] ∧ m.words q + ws.length ≤ 32 then
    let s := if ws.isEmpty then s else s.modMu c (fun m => m.setQueue q (m.queue q ++ [⟨seq, msg, 0, ws, bad⟩]))
    ((s.accepted c q ws.length).queueServe c, true)
  else if (m.cfg q).getLsbD 2 ∧ (m.forms q).length < m.ringRecs q then
    let pa := lmAddr c (m.recOff q (m.head q + (m.forms q).length))
    let s := s.homeWrite pa (spillRecord msg)
    let s := if bad then s.addPoison (pa + 16) else s
    let s := s.modMu c (fun m => { m with spForms := rset m.spForms (qix q) (m.forms q ++ [(form, seq)]) })
    (s.accepted c q ws.length, true)
  else
    ((s.modMu c (fun m => { m with counts := { m.counts with refused := m.counts.refused + 1 } })).setPenn c 29, false)

/-- The message that a spill record holds. -/
def recordMsg (bs : List Byte) : Msg :=
  let h := BitVec.ofNat 64 (ofLE (bs.take 8))
  { header := h, time := BitVec.ofNat 64 (ofLE ((bs.drop 8).take 8))
    words := (List.range (min 8 (fld h 48 4))).map (fun i => BitVec.ofNat 32 (ofLE ((bs.drop (16 + 4 * i)).take 4))) }

/-- `SPILL_RECORD_MOVE` (R191): the oldest record moves into its queue when its words fit. -/
def execSpillRecordMove (core : BitVec 10) (queue : BitVec 3) (ecc : Ecc) (s : State) : Out :=
  let c := core.toNat
  let m := (s.core c).mu
  match m.forms queue with
  | (form, seq) :: rest =>
    let r := s.homeRead (lmAddr c (m.recOff queue (m.head queue))) 64 ecc
    if !s.coreRuns c then .next s
    else if r.2.2 then .next (r.1.queueServe c)
    else
      let msg := recordMsg r.2.1
      let ws := msg.placed form
      if 32 < m.words queue + ws.length then .next s
      else
        .next ((r.1.modMu c (fun m => { m with
          q := if ws.isEmpty then m.q else rset m.q (qix queue) (m.queue queue ++ [⟨seq, msg, 0, ws, false⟩])
          spForms := rset m.spForms (qix queue) rest
          spHead := rset m.spHead (qix queue) ((m.head queue + 1) % m.ringRecs queue) })).queueServe c)
  | [] => .next s

/-! ### `SEND` (R182-R185) -/

/-- Payload words of a `SEND` from register `rb` on (R182). -/
def Thread.payload (y : Thread) (rb : BitVec 5) (len : Nat) : List W32 :=
  (List.range len).map (fun i =>
    BitVec.ofNat 32 (fld (y.getG (rb + BitVec.ofNat 5 (i / 2))) (32 * (i % 2)) 32))

/-- The checks of R183. -/
def State.sendOk (s : State) (c : Nat) (h : W64) (rb : BitVec 5) : Bool :=
  fld h 48 16 == 0 && hLen h ≤ 8 && !(hLocal h && hDdev h != 0) && rb.toNat + (hLen h + 1) / 2 ≤ 32 &&
    (!(hLocal h || hDdev h == s.devid) || (s.present (hDcore h) && s.partOf (hDcore h) == s.partOf c))

/-- A blocked `SEND`'s message leaves for its destination (R184). -/
def State.sendMsg (s : State) (c : Nat) (t : BitVec 2) (h : W64) (ws : List W32) (time : W64) : State :=
  let here := hLocal h || hDdev h == s.devid
  let msg : Msg := ⟨deliveredHeader c s.devid t.toNat (!here) false (hTag h) ws.length, time, ws⟩
  if here then
    { s with msgs := s.msgs ++ [⟨s.nextMsg, .thread c t, hDcore h, msg⟩], nextMsg := s.nextMsg + 1 }
  else s.sendReq (.send c t) 0 (fun q => .msg q c (hDdev h) (hDcore h) msg)

/-- The phase of a thread's blocked `SEND` changed. -/
def Thread.sendPhase (y : Thread) (p : SendPhase) (ev : Bool) : Thread :=
  match y.wait with
  | some (.send h ws time _ _) => { y with wait := some (.send h ws time p ev) }
  | _ => y

/-- `SEND` (R182-R184). -/
def execSend (x : Iss) (o : FmtSend) (s : State) : Out :=
  s.issue x (info59 (encSend 59 0 x o) (o.rm == 0 && o.z == 0)
      (o.ra :: (List.range 4).map (fun i => o.rb + BitVec.ofNat 5 i)) false) (fun s =>
    let c := x.core.toNat
    let y := s.thread c x.thr
    let h := y.getG o.ra
    if !s.sendOk c h o.rb then .trap s { code := excAccess, stval := h }
    else
      let ws := y.payload o.rb (hLen h)
      .wait ((s.sendMsg c x.thr h ws s.devtime).modThread c x.thr
        (fun y => { y with wait := some (.send h ws s.devtime .flying false) })))

/-- The acceptance of a message reaches its sender, whose `SEND` retires (R184, R198). -/
def State.sendRetire (s : State) (c : Nat) (t : BitVec 2) : State :=
  (s.modMu c (fun m => { m with counts := { m.counts with out := m.counts.out + 1 } })).wake c t (fun y => y)

/-- The sender withdraws its held message and raises `SEND_WAIT` (R185). -/
def State.sendWait (s : State) (c : Nat) (t : BitVec 2) (h : W64) : State :=
  let s' := s.modThread c t (fun y => { y with wait := none })
  (s'.raise c t { code := excSendWait, stval := h }).getD s

/-- `SEND_ANSWER_ARRIVAL` (R184-R185): acceptance retires the `SEND`; on refusal an event that waited is taken, and
else the message is held. -/
def execSendAnswerArrival (core : BitVec 10) (thr : BitVec 2) (s : State) : Out :=
  let c := core.toNat
  match (s.thread c thr).wait with
  | some (.send h _ _ (.answered acc) ev) =>
    if !s.coreRuns c then .next s
    else if acc then .next (s.sendRetire c thr)
    else
      let s := s.modThread c thr (fun y => y.sendPhase .held false)
      if s.eventDue c thr then .next ((s.takeEvent c thr).getD s)
      else if ev then .next (s.sendWait c thr h)
      else .next s
  | _ => .next s

/-- The request of a thread's `SEND` is forgotten. -/
def State.dropSend (s : State) (c : Nat) (t : BitVec 2) : State :=
  { s with remReqs := s.remReqs.filter (fun q => q.org != .send c t) }

/-- `SEND_WAIT` (R185): `SWLIM` is reached. While the message is in flight the device waits for its answer; one that a port of
this device has discarded is withdrawn (R379). -/
def execSendWait (core : BitVec 10) (thr : BitVec 2) (s : State) : Out :=
  let c := core.toNat
  match (s.thread c thr).wait with
  | some (.send h _ _ phase _) =>
    if fld (s.thread c thr).swlim 0 32 = 0 ∨ !s.coreRuns c then .next s
    else
      match phase with
      | .held => .next (s.sendWait c thr h)
      | .lost => .next ((s.dropSend c thr).sendWait c thr h)
      | p => .next (s.modThread c thr (fun y => y.sendPhase p true))
  | _ => .next s

/-! ### Pennants (R203-R204) -/

/-- `PSET` (R203): a user thread names only pennants 0-7. Pennants 19 and 23 read 0 (R133, R153). -/
def execPset (x : Iss) (o : FmtPset) (s : State) : Out :=
  s.issue x (info59 (encPset 59 3 x o) (o.rm == 0 && o.z == 0) [o.ra] false) (fun s =>
    let c := x.core.toNat
    let y := s.thread c x.thr
    let v : W32 := (y.getG o.ra).setWidth 32
    if !y.sup && v >>> 8 != 0 then .trap s { code := excPriv, stval := BitVec.ofNat 64 (encPset 59 3 x o) }
    else .done (s.modCore c (fun k => { k with penn := k.penn ||| (v &&& pennBits) })))

/-- `PCLR` (R203). -/
def execPclr (x : Iss) (o : FmtPset) (s : State) : Out :=
  s.issue x (info59 (encPset 59 4 x o) (o.rm == 0 && o.z == 0) [o.ra] false) (fun s =>
    let c := x.core.toNat
    let v : W32 := ((s.thread c x.thr).getG o.ra).setWidth 32
    .done (s.modCore c (fun k => { k with penn := k.penn &&& ~~~v })))

/-- The pennants of a thread's `PMASK` that are set. -/
def State.maskedPenn (s : State) (c : Nat) (t : BitVec 2) : W32 :=
  (s.core c).penn &&& (s.thread c t).pmask.setWidth 32

/-- `PWAIT` wakes: it returns the pennants of its mask, and clears them with `CLR` (R204). -/
def State.pwaitEnd (s : State) (c : Nat) (t : BitVec 2) (rd : BitVec 5) (clr : Bool) : State :=
  let v := s.maskedPenn c t
  let s := if clr then s.modCore c (fun k => { k with penn := k.penn &&& ~~~v }) else s
  s.modThread c t (fun y => y.setG rd (v.setWidth 64))

/-- `PWAIT` (R204). -/
def execPwait (x : Iss) (o : FmtPwait) (s : State) : Out :=
  s.issue x (info59 (encPwait 59 5 x o) (o.rm == 0 && o.z == 0) [o.rd, o.ra] false) (fun s =>
    let c := x.core.toNat
    let y := s.thread c x.thr
    if y.pmask.setWidth 32 = (0 : W32) then .done (s.modThread c x.thr (fun y => y.setG o.rd 0))
    else if s.maskedPenn c x.thr = 0 then
      .wait (s.modThread c x.thr (fun y => { y with wait := some (.pwait o.rd (y.getG o.ra) o.clr) }))
    else .done (s.pwaitEnd c x.thr o.rd o.clr))

/-- Another thread of the core is woken before thread `t` (R204): of those that a pennant of its mask wakes too, every one
that clears none, and, where `t` clears them, those that do and issue before it (R78). -/
def State.wokenFirst (s : State) (c : Nat) (t : BitVec 2) : Bool :=
  (s.byPrio c).takeWhile (· != t) |>.any (fun u =>
    match (s.thread c u).wait with
    | some (.pwait _ _ true) => (s.maskedPenn c u &&& s.maskedPenn c t) != 0
    | _ => false)

/-- Some thread of the core waits for a pennant that thread `t` will clear, and clears none itself. -/
def State.plainWoken (s : State) (c : Nat) (t : BitVec 2) : Bool :=
  ([0, 1, 2, 3] : List (BitVec 2)).any (fun u =>
    match (s.thread c u).wait with
    | some (.pwait _ _ false) => u != t && (s.maskedPenn c u &&& s.maskedPenn c t) != 0
    | _ => false)

/-- `PWAIT_WAKE` (R204): a pennant of the mask is set, or the limit has passed, and no thread goes first. -/
def execPwaitWake (core : BitVec 10) (thr : BitVec 2) (limit : Bool) (s : State) : Out :=
  let c := core.toNat
  match (s.thread c thr).wait with
  | some (.pwait rd lim clr) =>
    if !s.coreRuns c || (clr && (s.wokenFirst c thr || s.plainWoken c thr)) then .next s
    else if s.maskedPenn c thr ≠ 0 ∨ (limit ∧ lim ≠ 0) then .next ((s.pwaitEnd c thr rd clr).wake c thr (fun y => y))
    else .next s
  | _ => .next s

/-! ### Barriers (R206-R208) -/

/-- A `BARR` instruction: `act` is its effect on barrier `b` of the partition `n` of its core. -/
def State.barr (s : State) (x : Iss) (o : FmtBarr) (op : Nat) (act : State → Nat → Nat → Res) : Out :=
  s.issue x (info59 (encBarr 59 6 op x o) (o.rm == 0 && o.z == 0 && o.id.toNat ≤ 79) [o.rd] false) (fun s =>
    act s ((s.partOf x.core.toNat).getD 0) o.id.toNat)

/-- A status is returned; a pending bit is cleared when it is an outcome (R208). -/
def State.barStatus (s : State) (x : Iss) (rd : BitVec 5) (n b v : Nat) : Res :=
  let c := x.core.toNat
  if v ≤ barBroken then
    .done (((s.seenFinal n b c).modThread c x.thr (fun y => (y.clearBar b).setG rd (BitVec.ofNat 64 v))).traceBar c x.thr n b v)
  else .done (s.modThread c x.thr (fun y => y.setG rd (BitVec.ofNat 64 v)))

/-- The thread arrives: its pending and parity bits are set, and the arrival leaves for the root (R208). -/
def State.barSend (s : State) (c : Nat) (t : BitVec 2) (n b : Nat) (arrive : Bool) : State :=
  let s := (s.modThread c t (fun y => y.setBar b (s.barGen n b % 2 == 1))).modPart n (fun p =>
    { p with bars := p.bars ++ [⟨b, c, t, arrive, false⟩] })
  if s.isFinal n b then
    let s := { s with free := s.free + 1 }
    (s.traceCore c t.toNat 0x02 (Config.cycles s.free).toNat).seenFinal n b c
  else s

/-- `BARR WAIT` (R207). -/
def execBarrWait (x : Iss) (o : FmtBarr) (s : State) : Out :=
  s.barr x o 0 (fun s n b =>
    let c := x.core.toNat
    let y := s.thread c x.thr
    if s.barState n b = 0 then s.barStatus x o.rd n b barNotArmed
    else
      match s.barOutcome n b y with
      | some v => s.barStatus x o.rd n b v
      | none =>
        let s := if y.barPend.getLsbD b then s else s.barSend c x.thr n b false
        .wait (s.modThread c x.thr (fun y => { y with wait := some (.barr o.rd o.id) })))

/-- `BARR ARRIVE` (R207). -/
def execBarrArrive (x : Iss) (o : FmtBarr) (s : State) : Out :=
  s.barr x o 1 (fun s n b =>
    let c := x.core.toNat
    let y := s.thread c x.thr
    if s.barState n b = 0 then s.barStatus x o.rd n b barNotArmed
    else
      match s.barOutcome n b y with
      | some v => s.barStatus x o.rd n b v
      | none => (if y.barPend.getLsbD b then s else s.barSend c x.thr n b true).barStatus x o.rd n b barPending)

/-- `BARR TEST` (R207). -/
def execBarrTest (x : Iss) (o : FmtBarr) (s : State) : Out :=
  s.barr x o 2 (fun s n b =>
    let y := s.thread x.core.toNat x.thr
    if s.barState n b = 0 then s.barStatus x o.rd n b barNotArmed
    else
      match s.barOutcome n b y with
      | some v => s.barStatus x o.rd n b v
      | none => s.barStatus x o.rd n b (if y.barPend.getLsbD b then barPending else barIdle))

/-- `BARM` (R206). -/
def execBarm (x : Iss) (o : FmtBarm) (s : State) : Out :=
  s.issue x (info59 (encBarm 59 7 x o) (o.rm == 0 && o.z == 0 && o.id.toNat ≤ 79) [o.ra] true) (fun s =>
    let c := x.core.toNat
    let n := (s.partOf c).getD 0
    let b := o.id.toNat
    let v := (s.thread c x.thr).getG o.ra
    if fld v 13 3 ≠ 0 ∨ fld v 40 24 ≠ 0 ∨ 4096 < fld v 0 13 ∨ s.barState n b = 1 then
      .trap s { code := excAccess, stval := v }
    else
      let w := BitVec.ofNat 64 (fld v 0 13 + (if fld v 0 13 = 0 then 0 else 1) * 2 ^ 26 + fld v 16 24 * 2 ^ 32 +
        s.barGen n b * 2 ^ 56)
      .done ((s.setReg (barOff n b) w).barClear n b))

/-- `BARRIER_ARRIVAL` (R208). -/
def execBarrierArrival (part : BitVec 3) (bar : BitVec 7) (core : BitVec 10) (thr : BitVec 2) (s : State) : Out :=
  if s.isFinal part.toNat bar.toNat ∧ !s.planDone part.toNat core.toNat then .next s
  else .next (s.barArrive part.toNat bar.toNat core.toNat thr)

/-- `BARRIER_TIMEOUT` (R210): `TMO_US` has passed since the first arrival. -/
def execBarrierTimeout (part : BitVec 3) (bar : BitVec 7) (s : State) : Out :=
  let n := part.toNat
  let b := bar.toNat
  if s.barState n b = 1 ∧ s.barTmo n b ≠ 0 ∧ s.barArrived n b ≠ 0 ∧
      (AMap.get 0 (s.part n).barFirst b).toNat + 1000 * s.barTmo n b ≤ s.elapsed.toNat then .next (s.barFail n b 2)
  else .next s

/-! ### `HSIG` (R200) -/

/-- Signals of partition `n` that the control complex holds: those whose completion is not formed, and those whose is not
written. -/
def State.hsigHeld (s : State) (n : Nat) : Nat :=
  (s.part n).hsigs.length + s.compl.countP (fun d => d.hsig && d.ring / 64 == n)

/-- The control complex takes a signal, or the thread waits while it holds 64; `time` is that of its issue (R322). -/
def State.hsigAct (s : State) (c : Nat) (t : BitVec 2) (v : W64) (i : BitVec 2) (time : W64) : Res :=
  let n := (s.partOf c).getD 0
  if 64 ≤ s.hsigHeld n then .wait (s.modThread c t (fun y => { y with wait := some (.hsig v i time) }))
  else .done (s.modPart n (fun p => { p with hsigs := p.hsigs ++ [⟨c, t, i, v, time⟩] }))

/-- `HSIG` (R200). -/
def execHsig (x : Iss) (o : FmtHsig) (s : State) : Out :=
  s.issue x (info59 (encHsig 59 8 x o) (o.rm == 0 && o.z == 0) [o.ra] false) (fun s =>
    let c := x.core.toNat
    if s.rfld (prt ((s.partOf c).getD 0) 0x130) 6 1 = 0 then .trap s { code := excAccess, stval := 0 }
    else s.hsigAct c x.thr ((s.thread c x.thr).getG o.ra) o.n s.devtime)

end Sys2Proof.Machine
end

