-- ==== Sys2Proof/Machine/Rings.lean ====
section
/-!
DEFINITION. Rings and completions (R299-R311, R321-R324, R51): how a completion is formed, and how it is written.
-/
namespace Sys2Proof.Machine

/-! ### Statuses and causes (R324, R323) -/

def stOk : Nat := 0x00
def stAccepted : Nat := 0x01
def stDeferred : Nat := 0x02
def stNoBerth : Nat := 0x10
def stInfeasible : Nat := 0x11
def stQuota : Nat := 0x12
def stHeld : Nat := 0x13
def stClosed : Nat := 0x14
def stOpcode : Nat := 0x20
def stLength : Nat := 0x21
def stBounds : Nat := 0x22
def stState : Nat := 0x23
def stPerm : Nat := 0x24
def stConfig : Nat := 0x25
def stBroken : Nat := 0x30
def stAborted : Nat := 0x31
def stInternal : Nat := 0x3F

def caReset : Nat := 0x10
def caCancel : Nat := 0x11
def caRestore : Nat := 0x12
def caHost : Nat := 0x13
def caRecord : Nat := 0x14
def caMoor : Nat := 0x15
def caDevice : Nat := 0x16

/-- A 64-bit field of ones. -/
def ones64 : W64 := 0xFFFFFFFFFFFFFFFF

/-! ### Packets -/

/-- `n` bytes of a packet from byte `lo`, as a number. -/
def Packet.num (p : Packet) (lo n : Nat) : Nat := ofLE ((p.bytes.drop lo).take n)
def Packet.tag (p : Packet) : Nat := p.num 4 4
def Packet.param (p : Packet) : W64 := BitVec.ofNat 64 (p.num 8 8)
def Packet.cls (p : Packet) : Nat := p.num 3 1
/-- The partition of the packet's ring pair (R299). -/
def Packet.part (p : Packet) : Nat := p.ring / 64

/-- A completion of a packet with no berth: its first and only one. -/
def Packet.reply (p : Packet) (status : Nat) (accepted : W64) (detail : W64 := 0) (cause : Nat := 0) : Compl where
  ring := p.ring
  pkt := p.id
  hsig := false
  op := p.op
  tag := p.tag
  final := true
  status := status
  cause := cause
  accepted := accepted
  promised := 0
  done := true
  berth := 0xFFFF
  kind := 0xFF
  start := 0
  detail := detail
  extra := []
  item := false
  judge := none
  after := []
  share := 0
  moved := 0
  waited := false

/-- A completion of a packet that has waited. -/
def Job.reply (j : Job) (status : Nat) (detail : W64 := 0) (cause : Nat := 0) : Compl :=
  { j.pkt.reply status j.accepted detail cause with waited := true }

/-- A completion joins those to be written (R310). -/
def State.post (s : State) (c : Compl) : State := { s with compl := s.compl ++ [c] }

/-- Completion entries of partition `n` in use (R298, R305). -/
def State.entriesUsed (s : State) (n : Nat) : Nat :=
  ((s.owed.filter (fun o => o.ring / 64 == n)).map (·.entries)).foldl (· + ·) 0

/-- What the packets of partition `n` owe changes, and its entries in use with it. -/
def State.setOwed (s : State) (n : Nat) (l : List Owed) : State :=
  let t : State := { s with owed := l }
  { t with tally := { s.tally with pend := AMap.put s.tally.pend n (AMap.get 0 s.tally.pend n + t.entriesUsed n - s.entriesUsed n) } }

/-! ### Ring registers (R300) -/

/-- Offset of a register of ring pair `g`. -/
def rg (g o : Nat) : Nat := 0x18000 + g * 0x40 + o

def State.sqEn (s : State) (g : Nat) : Bool := s.rfld (rg g 8) 6 1 == 1
def State.cqEn (s : State) (g : Nat) : Bool := s.rfld (rg g 0x20) 6 1 == 1
def State.sqTail (s : State) (g : Nat) : Nat := s.rfld (rg g 0x10) 0 32
def State.sqHead (s : State) (g : Nat) : Nat := s.rfld (rg g 0x10) 32 32
def State.cqProd (s : State) (g : Nat) : Nat := s.rfld (rg g 0x28) 0 32
def State.cqCons (s : State) (g : Nat) : Nat := s.rfld (rg g 0x28) 32 32
def State.sqSize (s : State) (g : Nat) : Nat := 2 ^ s.rfld (rg g 8) 0 5
def State.cqSize (s : State) (g : Nat) : Nat := 2 ^ s.rfld (rg g 0x20) 0 5

/-- A difference of counts, modulo 2^32 (R299). -/
def cdiff (a b : Nat) : Nat := (a + 2 ^ 32 - b % 2 ^ 32) % 2 ^ 32

/-- Free slots of the completion ring of pair `g`. -/
def State.cqFree (s : State) (g : Nat) : Nat := s.cqSize g - cdiff (s.cqProd g) (s.cqCons g)

/-- The function that serves partition `n`: its VF, or the PF, function 0 (R293). -/
def State.fnOf (s : State) (n : Nat) : Nat := if s.rfld 0x10008 (8 + n) 1 = 1 then n + 1 else 0

/-- The function that serves a ring can read and write host memory (R292, R313, R430). -/
def State.hostUp (s : State) (g : Nat) : Bool :=
  s.link.bme.getLsbD (s.fnOf (g / 64)) && !s.link.d3hot.getLsbD (s.fnOf (g / 64)) && s.pins.perst

/-! ### The bytes of a completion (R321, R309) -/

/-- Slot 0 of a completion, without `PHASE`. -/
def Compl.slot0 (c : Compl) (status cause : Nat) (now : W64) : List Byte :=
  toLE 1 status ++ toLE 1 c.op ++ toLE 1 (1 + c.extra.length) ++ toLE 1 (c.final.toNat + 2 * c.hsig.toNat) ++ toLE 4 c.tag ++
    toLE 8 c.accepted.toNat ++ toLE 8 c.promised.toNat ++ toLE 8 (if c.done then now.toNat else 0) ++ toLE 2 c.berth ++
    toLE 1 c.kind ++ toLE 1 cause ++ toLE 4 0 ++ toLE 8 c.start.toNat ++ toLE 8 c.detail.toNat ++ toLE 8 0

/-- `PHASE` of count `c` of a ring of 2^`log` slots (R309). -/
def phase (c log : Nat) : Nat := 1 - c / 2 ^ log % 2

/-- A slot with its `PHASE`. -/
def withPhase (slot : List Byte) (c log : Nat) : List Byte := slot.take 63 ++ toLE 1 (phase c log)

/-- Slots written from count `prod` of the completion ring of pair `g`, one 64-byte write each. -/
def State.putSlots (s : State) (g prod : Nat) : List (List Byte) → State
  | [] => s
  | b :: bs =>
    let log := s.rfld (rg g 0x20) 0 5
    let addr := (s.reg (rg g 0x18)).toNat / 4096 * 4096 + 64 * (prod % 2 ^ log)
    ({ s with hostOut := s.hostOut ++ [HostOut.write (g / 64) addr (withPhase b prod log)] }).putSlots g ((prod + 1) % 2 ^ 32) bs

/-! ### Promises (R51) -/

/-- The narrowest mode at which B of partition `n`'s program holds with a port, 0 where it does not use it (R359). -/
def State.portUse (s : State) (n p : Nat) : Nat :=
  match (s.part n).prog with
  | some g => (Config.portMode g.serial p).toNat
  | none => 0

/-- Lanes of a set. -/
def laneCount (l : BitVec 4) : Nat := ((List.range 4).filter (fun i => l.getLsbD i)).length

/-- Port `p` is a fault for partition `n` (R359). -/
def State.portFault (s : State) (n p : Nat) : Bool :=
  let use := s.portUse n p
  use != 0 && (!(s.pstat p == pUp || s.pstat p == pRetrain) || laneCount (s.port p).lanes < 2 ^ (use - 1))

/-- The mode of a set of lanes. -/
def laneMode (l : BitVec 4) : Nat :=
  if l = 0b1111#4 then 3 else if l = 0b0011#4 ∨ l = 0b1100#4 then 2 else if l = 0 then 0 else 1

/-! ### Port states and what they mean for promises (R348, R359, R415) -/

/-- The port to the time parent (R377): the first `UP` port of the direction toward the time source. -/
def State.parentPort (s : State) : Option Nat :=
  if s.isSource then none
  else match s.hopDir (s.rfld 0x50028 0 17) with
    | some d => (s.dirUp d)[0]?
    | none => none

/-- `FAB_TSYNC.PARENT` follows the ports. -/
def State.reparent (s : State) : State := s.setRfld 0x50020 0 4 (s.parentPort.getD 0xF)

/-- The port enters a state; condition 1 of R50 fails for the partitions whose program uses it where it is, or was, a
fault; the change is traced. `cause` is the kind of failure, 0 for none; its code is `Config.portCause`. -/
def State.portState (s : State) (p st cause : Nat) : State :=
  let old := s.pstat p
  let bad0 := (List.range 8).filter (fun n => s.portFault n p)
  let s := (s.setRfld (fabp p 0) 0 3 st).setRfld (fabp p 0) 3 2 (if st = pUp then laneMode (s.port p).lanes else 0)
  let bad1 := (List.range 8).filter (fun n => s.portFault n p)
  let s := (List.range 8).foldl (fun (s : State) n => if bad0.contains n ∨ bad1.contains n then s.breakCond n 1 else s) s
  let s := if old = st then s else
    s.traceUnit (16 + p) (List.range 8) 0x14
      (p + old * 2 ^ 8 + st * 2 ^ 16 + s.rfld (fabp p 0) 3 2 * 2 ^ 24 + (Config.portCause cause).toNat * 2 ^ 32)
  s.reparent

/-- The port transmits: it trains, or has trained. -/
def State.portLit (s : State) (p : Nat) : Bool := [pTraining, pUp, pRetrain, pMiswired].contains (s.pstat p)

/-- The cause of a late final completion: the first of R51 that has arisen since its admission, else that it waited
to be written. -/
def State.lateCause (s : State) (n : Nat) (base : List Nat) : Nat :=
  let now := (s.part n).cause.toList
  match (List.range 7).find? (fun i => 1 ≤ i && (base.getD i 0 < now.getD i 0 ||
      (i == 1 && (List.range 16).any (fun p => s.portFault n p)))) with
  | some i => i
  | none => 7

/-- The status and cause that a completion is written with. -/
def State.verdict (s : State) (c : Compl) : Nat × Nat :=
  match c.judge with
  | some (n, base) => if c.promised < s.devtime then (stBroken, s.lateCause n base) else (c.status, c.cause)
  | none => (c.status, c.cause)

/-! ### MSI-X coalescing (R311) -/

/-- The message of ring pair `g` is sent, and its count starts again. -/
def State.ringMsg (s : State) (g : Nat) : State :=
  let s := s.msix (s.fnOf (g / 64)) (s.rfld (rg g 0x20) 8 11)
  { s with link := { s.link with coal := AMap.put s.link.coal g (0, 0) } }

/-- One completion more that pair `g` has written. -/
def State.coalesce (s : State) (g : Nat) : State :=
  if s.rfld (rg g 0x20) 7 1 = 0 then s
  else
    let (n, since) := AMap.get (0, 0) s.link.coal g
    let n' := n + 1
    let s := { s with link := { s.link with coal := AMap.put s.link.coal g (n', if n = 0 then s.elapsed else since) } }
    if max 1 (s.rfld (rg g 0x20) 20 8) ≤ n' then s.ringMsg g else s

/-! ### Writing -/

/-- What a written completion settles: the entries of its packet, its count, and its trace record. -/
def State.settled (s : State) (c : Compl) (status cause : Nat) : State :=
  let n := c.ring / 64
  let s := s.setOwed n (if c.final then s.owed.filter (fun o => o.id != c.pkt)
    else s.owed.map (fun o => if o.id = c.pkt then { o with first := true, entries := o.entries - 1 } else o))
  let s := if c.item ∧ c.final then { s with tally := { s.tally with out := subAt s.tally.out n 1 } } else s
  let s := if status = stBroken then
      let o := 0x20100 + n * 0x40 + 7 * 8
      s.setReg o (s.reg o + 1)
    else s
  if c.item then
    s.traceUnit 0 [n] 0x11 (n + status * 2 ^ 8 + cause * 2 ^ 16 + (c.berth % 65536) * 2 ^ 24 + c.tag * 2 ^ 40)
  else s

/-- The first thread of partition `n`, in core and thread order, that waits to hand over a signal, and its signal; a core of a
PARKED half waits on (R26). -/
def State.hsigNext (s : State) (n : Nat) : Option (Nat × BitVec 2 × W64 × BitVec 2 × W64) :=
  let waits := (s.cores.map (·.1)).flatMap (fun c =>
    if s.partOf c = some n && s.halfRuns (coreHalf c) then ([0, 1, 2, 3] : List (BitVec 2)).map (fun t => (c, t)) else [])
  waits.findSome? (fun (c, t) =>
    match (s.thread c t).wait with
    | some (.hsig v i time) => some (c, t, v, i, time)
    | _ => none)

/-- The control complex takes signals from the threads of partition `n` that wait to hand one over, as long as it has room
(R200), `fuel` at most. -/
def State.hsigServe (s : State) (n : Nat) : Nat → State
  | 0 => s
  | fuel + 1 =>
    if 64 ≤ s.hsigHeld n then s
    else
      match s.hsigNext n with
      | some (c, t, v, i, time) => (s.settleRes c t (s.hsigAct c t v i time)).hsigServe n fuel
      | none => s

/-- An error of the PCIe link: a failed read, or an error that the link reports for a write (R309, R413 index 14). -/
def State.pcieError (s : State) : State :=
  let s := (s.countErr 14 true).errLog ⟨14, 1, none, 0, none, 0, 0, 0⟩
  { s with link := { s.link with aer := s.link.aer ||| Config.aerBits } }

/-- The oldest completion of ring pair `g` is written, after the pad that it needs (R308-R311). -/
def State.writeCompl (s : State) (g : Nat) : State :=
  match s.compl.find? (fun c => c.ring == g) with
  | none => s
  | some c =>
    let size := s.cqSize g
    let prod := s.cqProd g
    let n := 1 + c.extra.length
    let tail := size - prod % size
    let pad := if n ≤ tail then 0 else tail
    if !s.cqEn g || !s.hostUp g || s.cqFree g < pad + n || s.compl.any (fun d => c.after.contains d.pkt) then s
    else
      let (status, cause) := s.verdict c
      let padSlot : List Byte := toLE 2 0 ++ toLE 1 pad ++ toLE 61 0
      let slots := List.replicate pad padSlot ++ (c.slot0 status cause s.devtime) :: c.extra.map (fun b => b ++ toLE (64 - b.length) 0)
      let s := s.putSlots g prod slots
      let s := s.setRfld (rg g 0x28) 0 32 (prod + pad + n)
      let s := { s with compl := s.compl.erase c }
      let s := (s.settled c status cause).coalesce g
      if c.hsig then s.hsigServe (c.ring / 64) 64 else s

/-- `COMPLETION_WRITE` (R309). The slots count as written though the link reports an error for the write. -/
def execCompletionWrite (ring : ComplWrite) (s : State) : Out :=
  let t := s.writeCompl ring.ring.toNat
  if s.compl.length ≤ t.compl.length then .next t
  else
    match ring.link with
    | .good => .next t
    | .corrected => .next (t.countErr 14 false)
    | .uncorrectable => .next t.pcieError

/-- `COALESCING_TIMER` (R311). -/
def execCoalescingTimer (ring : BitVec 9) (s : State) : Out :=
  let g := ring.toNat
  let (n, since) := AMap.get (0, 0) s.link.coal g
  let us := s.rfld (rg g 0x20) 28 12
  if us ≠ 0 ∧ n ≠ 0 ∧ s.rfld (rg g 0x20) 7 1 = 1 ∧ since.toNat + 1000 * us ≤ s.elapsed.toNat then .next (s.ringMsg g)
  else .next s

/-! ### Host signals (R200) -/

/-- `HSIG_COMPLETION_POST` (R200, R321): the oldest signal that the control complex holds goes to the ring that
`PRT_HSIG` names, with the value in `DETAIL` (DEDUCED, log 15). -/
def execHsigCompletionPost (part : BitVec 3) (s : State) : Out :=
  let n := part.toNat
  let g := 64 * n + s.rfld (prt n 0x130) 0 6
  match (s.part n).hsigs with
  | h :: rest =>
    if s.cqEn g ∧ 1 ≤ s.cqFree g then
      let c : Compl := { (⟨0, g, 0x40, [], 0, 0⟩ : Packet).reply stOk h.time h.value with
        hsig := true, berth := h.core, kind := h.thr.toNat + 4 * h.n.toNat }
      .next ((s.modPart n (fun p => { p with hsigs := rest })).post c)
    else .next s
  | [] => .next s

end Sys2Proof.Machine
end

