-- ==== Sys2Proof/Machine/Berths.lean ====
section
/-!
DEFINITION. Berths, classes, items, and the Sluice's admission test (R38-R54, R279-R289).
-/
namespace Sys2Proof.Machine

/-! ### The device's own accesses to partition virtual memory (R273, R336) -/

/-- A partition virtual address (R269). -/
def isVirt (va : Nat) : Bool := 0x80000 ≤ va && va < 2 ^ 48 && !inLm va

/-- Where a byte of partition `n` lies, for the device in supervisor mode; only tier addresses of this device. -/
def State.devAddr (s : State) (n va : Nat) (need : Need) : Option Nat :=
  if !isVirt va || !(s.reg (prt n 0x88)).getLsbD 0 then none
  else
    match s.walk false n va with
    | .ok (l, g) => if leafAllows l need false && !l.getLsbD 5 then some (fld l 16 27 * 65536 + va % 2 ^ g) else none
    | .error _ => none

/-- A range cut at 64-byte lines; `fuel` lines at most. -/
def lineSpans : Nat → Nat → Nat → List (Nat × Nat)
  | 0, _, _ => []
  | fuel + 1, va, len =>
    if len = 0 then []
    else
      let k := min len (64 - va % 64)
      (va, k) :: lineSpans fuel (va + k) (len - k)

/-- The lines of a range. -/
def spans (va len : Nat) : List (Nat × Nat) := lineSpans (len / 64 + 2) va len

/-- The first address of a range that does not translate for the device. -/
def State.devBad (s : State) (n va len : Nat) (need : Need) (tier1 : Bool) : Option Nat :=
  (spans va len).findSome? (fun (a, _) =>
    match s.devAddr n a need with
    | some pa => if tier1 && !inTier1 pa then some a else none
    | none => some a)

/-- The device reads bytes of a partition; none where translation, the home or the data fails. -/
def State.devRead (s : State) (n va len : Nat) : Option (List Byte) :=
  let parts := (spans va len).map (fun (a, k) =>
    match s.devAddr n a .read with
    | some pa => if s.homeUp pa && !s.poisoned pa k then some (Memory.readBytes s.mem pa k) else none
    | none => none)
  if parts.all (·.isSome) then some (parts.flatMap (·.getD [])) else none

/-- The device writes bytes of a partition, line by line; the flag says that every line was written. -/
def State.devWrite (s : State) (n va : Nat) (bs : List Byte) : State × Bool :=
  (spans va bs.length).foldl (fun (s, ok) (a, k) =>
    if !ok then (s, false)
    else
      match s.devAddr n a .write with
      | some pa => if s.homeUp pa then (s.homeWrite pa ((bs.drop (a - va)).take k), true) else (s, false)
      | none => (s, false)) (s, true)

/-! ### Partitions (R448) -/

/-- The states of a partition, as `PSTATE` gives them (R429). -/
def psEmpty : Nat := 0
def psHeld : Nat := 1
def psRunning : Nat := 2
def psDraining : Nat := 3

def State.pstate (s : State) (n : Nat) : Nat := s.rfld 0x10 (16 + 2 * n) 2
def State.setPstate (s : State) (n v : Nat) : State := s.setRfld 0x10 (16 + 2 * n) 2 v

/-- The device state of R428. -/
def State.dstate (s : State) : Nat := s.rfld 0x10 0 3
def dsOff : Nat := 0
def dsPor : Nat := 1
def dsSelftest : Nat := 2
def dsTrain : Nat := 3
def dsBoot : Nat := 4
def dsHold : Nat := 5
def dsRun : Nat := 6
def dsFault : Nat := 7

/-- A conservation hold; a quarantine hold (R411, R425). -/
def State.consHold (s : State) (n : Nat) : Bool := s.rfld (0x80400 + 32 * n) 8 1 == 1
def State.quarHold (s : State) (n : Nat) : Bool := s.rfld (0x80400 + 32 * n) 9 1 == 1
def State.overrun (s : State) (n : Nat) : Bool := s.rfld (prt n 0x70) 56 1 == 1
/-- The watchdog holds the partition: a write of 1 to `WDOG_FIRED` clears that bit alone (R52, R339; DEDUCED, log 96). -/
def State.wdogFired (s : State) (n : Nat) : Bool := s.rfld (prt n 0x70) 57 1 == 1 || (s.part n).wdogHold

/-- P in ns, T0 and B (R29, R52). -/
def State.period (s : State) (n : Nat) : Nat := 1000 * s.rfld (prt n 0x10) 0 18
def State.t0 (s : State) (n : Nat) : Nat := (s.reg (prt n 0x20)).toNat
def State.declB (s : State) (n : Nat) : Nat := s.rfld (prt n 0x18) 0 32

/-- The partition holds sections of a half; its program's declared point there; the point in force. -/
def State.holdsHalf (s : State) (n h : Nat) : Bool := s.sects n / 16 ^ h % 16 != 0
def Program.declOf (g : Program) (h : Nat) : Nat := g.decl / 4 ^ h % 4
def State.live (s : State) (h : Nat) : Nat := s.rfld (0x90000 + 8 * h) 0 2

/-- Some half of the partition is below its declared point (R45). -/
def State.below (s : State) (n : Nat) : Bool :=
  match (s.part n).prog with
  | some g => [0, 1].any (fun h => s.holdsHalf n h && s.live h < g.declOf h)
  | none => false

/-- Every half meets the program's declared point: exactly when `LOCKED`, at least when `ELASTIC` (R259). -/
def State.meetsDecl (s : State) (n : Nat) : Bool :=
  match (s.part n).prog with
  | some g => [0, 1].all (fun h => !s.holdsHalf n h || (if g.seam = 1 then s.live h == g.declOf h else g.declOf h ≤ s.live h))
  | none => false

/-! ### Class registers (R41-R42) -/

def State.clsb (s : State) (n c lo w : Nat) : Nat := s.rfld (prt n (0x40 + 8 * (c / 2))) (32 * (c % 2) + lo) w
def State.rsvBerths (s : State) (n c : Nat) : Nat := if c = 3 then 0 else s.clsb n c 0 13
def State.maxBerths (s : State) (n c : Nat) : Nat := s.clsb n c 16 13
def State.clsOpen (s : State) (n c : Nat) : Bool := s.clsb n c 31 1 == 1
def State.rsvUnits (s : State) (n c : Nat) : Nat := if c = 3 then 0 else s.rfld (prt n (0x50 + 8 * c)) 0 20
def State.maxUnits (s : State) (n c : Nat) : Nat := s.rfld (prt n (0x50 + 8 * c)) 32 20
def State.berthBase (s : State) (n : Nat) : Nat := s.rfld (prt n 0x30) 0 12
def State.berthCount (s : State) (n : Nat) : Nat := s.rfld (prt n 0x30) 16 13

def hardClasses : List Nat := [0, 1, 2]

/-- `UNITS_MAX` of the last band. -/
def State.lastUnits (s : State) (n : Nat) : Nat :=
  match (s.part n).prog with
  | some g => ((g.bands.getLast?).map (·.units)).getD 0
  | none => 0

def State.sharedBerths (s : State) (n : Nat) : Nat := s.berthCount n - (hardClasses.map (s.rsvBerths n)).foldl (· + ·) 0
def State.sharedUnits (s : State) (n : Nat) : Nat := s.lastUnits n - (hardClasses.map (s.rsvUnits n)).foldl (· + ·) 0

/-! ### Berths (R38-R39) -/

def freeBerth : Berth := ⟨.free, 0, none⟩
def BerthState.num : BerthState → Nat
  | .free => 0 | .opened => 1 | .admitted => 2 | .running => 3 | .closing => 4

def State.berth (s : State) (n b : Nat) : Berth := AMap.get freeBerth (s.part n).berths b

/-- The berth counts as held: not `FREE`, or with a pending opening (R334). -/
def Berth.held (b : Berth) : Bool := b.st != .free || b.opening.isSome

/-- Berths of partition `n` that class `c` holds. -/
def State.heldBy (s : State) (n c : Nat) : Nat := ((s.part n).berths.filter (fun b => b.2.held && b.2.cls == c)).length

/-- Shared berths used (R42). -/
def State.sharedUsed (s : State) (n : Nat) : Nat :=
  (hardClasses.map (fun c => s.heldBy n c - s.rsvBerths n c)).foldl (· + ·) 0 + s.heldBy n 3

/-- The berths of the partition's range; the one that is taken of those that are `FREE` with no pending opening: the
lowest-numbered, the spec names none (R45; DESIGN CHOICE, log 105). -/
def State.berthRange (s : State) (n : Nat) : List Nat := (List.range (s.berthCount n)).map (s.berthBase n + ·)
def State.freeBerth? (s : State) (n : Nat) : Option Nat := (s.berthRange n).find? (fun b => !(s.berth n b).held)
def State.inBerths (s : State) (n b : Nat) : Bool := s.berthBase n ≤ b && b < s.berthBase n + s.berthCount n

/-- Pages per berth; the virtual addresses of a berth's block and frame (R279). -/
def State.bpages (s : State) (n : Nat) : Nat := s.rfld (prt n 0xA8) 48 10
def State.blockAddr (s : State) (n b : Nat) : Nat :=
  s.rfld (prt n 0xA0) 0 48 + (b - s.berthBase n) * 64 * (1 + s.bpages n / 4)
def State.frameAddr (s : State) (n b : Nat) : Nat :=
  s.rfld (prt n 0xA8) 0 48 + (b - s.berthBase n) * s.bpages n * 65536

/-- A berth of partition `n` takes a value, and the berths that its class holds are counted. -/
def State.putBerth (s : State) (n b : Nat) (x : Berth) : State :=
  let old := s.berth n b
  let held := if old.held then subAt s.tally.held (4 * n + old.cls) 1 else s.tally.held
  let held := if x.held then addAt held (4 * n + x.cls) 1 else held
  { s with tally := { s.tally with held := held } }.modPart n (fun p => { p with berths := AMap.put p.berths b x })

/-- A berth changes state: `STATE`, `CLASS` and `CHANGED` of its block are written (R280). -/
def State.setBerth (s : State) (n b : Nat) (x : Berth) : State :=
  let s := s.putBerth n b x
  let a := s.blockAddr n b
  let s := (s.devWrite n a (toLE 1 (x.st.num + 8 * x.cls))).1
  (s.devWrite n (a + 16) (toLE 8 s.devtime.toNat)).1

/-- A berth's state changed, its class kept. -/
def State.moveBerth (s : State) (n b : Nat) (st : BerthState) : State :=
  s.setBerth n b { (s.berth n b) with st := st, opening := none }

/-! ### Moorings (R281-R289) -/

def State.idxBase (s : State) (n : Nat) : Nat := s.rfld (prt n 0xB0) 0 16
def State.idxCount (s : State) (n : Nat) : Nat := s.rfld (prt n 0xB0) 16 17
def State.t2slots (s : State) (n : Nat) : Nat := s.rfld (prt n 0xB0) 33 7
def State.inIdx (s : State) (n i : Nat) : Bool := s.idxBase n ≤ i && i < s.idxBase n + s.idxCount n

/-- The states of an index (R283). -/
def ixEmpty : Nat := 0
def ixWriting : Nat := 1
def ixMoored : Nat := 2
def ixRestoring : Nat := 3

def State.idxState (s : State) (i : Nat) : Nat := s.rfld (0x48000 + 8 * (i / 32)) (2 * (i % 32)) 2
def State.setIdx (s : State) (i v : Nat) : State := s.setRfld (0x48000 + 8 * (i / 32)) (2 * (i % 32)) 2 v

/-- A count of records, one higher: `PRT_MRECW`, `PRT_MRECR`, `PRT_MRECD` (R281). -/
def State.countRec (s : State) (n off : Nat) : State := s.setReg (prt n off) (s.reg (prt n off) + 1)

/-- A record whose index is `WRITING` is lost: the index becomes `EMPTY`, and `PRT_MRECD` counts one (R290, R291). The relation of
R281 holds at every instant, so that `PRT_MRECW` counts it in the same instant (DEDUCED, log 117). -/
def State.recLost (s : State) (n i : Nat) : State := ((s.setIdx i ixEmpty).countRec n 0xC0).countRec n 0xD0

/-- Device physical address of an index's record slot. -/
def State.slotAddr (s : State) (n i : Nat) : Nat :=
  s.rfld (prt n 0xB8) 0 43 + (i - s.idxBase n) * (4096 + s.bpages n * 65536)

/-- `t_rest` of a record of `u` units with `q` slots (R289). -/
def restNs (u q : Nat) : Nat := 1500 + (64 * ((u + 23) / 24) + q - 1) / q * 60

/-! ### Items (R45-R47) -/

/-- What is committed to an item. -/
def Item.commitment (i : Item) : Commitment :=
  ⟨i.pkt.id, i.cls, i.weight, i.k0, if i.cancelled then 0 else i.steps - i.done - if i.running then 1 else 0, i.started⟩

/-- A commitment weighs on step `j`, where `cur` is the last boundary reached (R46). -/
def Commitment.weighs (i : Commitment) (cur j last : Nat) : Bool :=
  let first := if i.started then cur + 1 else max i.k0 (cur + 1)
  i.left != 0 && (first ≤ j || j == last) && (j ≤ first + i.left - 1)

/-- Item `i` still weighs on step `j`. -/
def Item.weighs (i : Item) (cur j last : Nat) : Bool := i.commitment.weighs cur j last

/-- Committed weight of class `c` in step `j` of the window that ends at `last` (R46). -/
def State.committed (s : State) (n c cur j : Nat) : Nat :=
  (((s.part n).items.filter (fun i => i.cls == c && i.weighs cur j (cur + 256))).map (·.weight)).foldl (· + ·) 0

/-- Shared units used in step `j` with `extra` more weight of class `c` (R45). -/
def State.sharedAt (s : State) (n cur j c extra : Nat) : Nat :=
  (hardClasses.map (fun d => s.committed n d cur j + (if d = c then extra else 0) - s.rsvUnits n d)).foldl (· + ·) 0

/-- `fits` of R45 fails on `MAX_UNITS` in some step. -/
def State.overMax (s : State) (n c w cur k0 last : Nat) : Bool :=
  (List.range (last + 1 - k0)).any (fun i => s.maxUnits n c < s.committed n c cur (k0 + i) + w)

/-- `fits` of R45. -/
def State.fits (s : State) (n c w cur k0 last : Nat) : Bool :=
  !s.overMax n c w cur k0 last &&
    (List.range (last + 1 - k0)).all (fun i => s.sharedAt n cur (k0 + i) c w ≤ s.sharedUnits n)

/-! ### `SUBMIT` fields (R325) -/

def Packet.late (p : Packet) : Bool := (p.num 1 1).testBit 0
def Packet.moored (p : Packet) : Bool := (p.num 1 1).testBit 1
def Packet.sBerth (p : Packet) : Nat := p.num 16 2
def Packet.sSteps (p : Packet) : Nat := p.num 20 4
def Packet.sWeight (p : Packet) : Nat := p.num 24 1
def Packet.sIdx (p : Packet) : Nat := p.num 28 2
def berthAny : Nat := 0xFFFF

/-- The berth that a packet names, or 0xFFFF (R321, R325, R328, R334, R335). -/
def Packet.named (p : Packet) : Nat :=
  if p.op = 0x20 ∨ p.op = 0x21 ∨ p.op = 0x23 ∨ p.op = 0x24 then p.num 16 2 else if p.op = 0x22 then p.num 20 2 else 0xFFFF

/-- A completion that concerns a berth of partition `n` carries it and the class that holds it (R321). -/
def State.about (s : State) (n b : Nat) (c : Compl) : Compl :=
  { c with berth := b, kind := if (s.berth n b).held then (s.berth n b).cls else 0xFF }

/-- The reply to a packet, with the berth that it names where the partition has it. -/
def State.replyTo (s : State) (p : Packet) (status : Nat) (accepted : W64) (detail : W64 := 0) (cause : Nat := 0) : Compl :=
  if s.inBerths p.part p.named then s.about p.part p.named (p.reply status accepted detail cause)
  else p.reply status accepted detail cause

/-! ### Final completions (R48, R327) -/

/-- The share that the item's restore time was computed with. -/
def Item.share (i : Item) : Nat := match i.rest with | some r => r.share | none => 0

/-- `RESULT` of an item's record, zero where the item has not started or the record cannot be read. -/
def State.result (s : State) (n : Nat) (i : Item) : List Byte :=
  match i.berth with
  | some b =>
    if i.started then
      (s.devRead n (s.rfld (prt n 0xE0) 0 48 + (b - s.berthBase n) * 128 + 96) 32).getD (toLE 32 0)
    else toLE 32 0
  | none => toLE 32 0

/-- An item's final completion is formed. -/
def State.finalItem (s : State) (i : Item) (status cause : Nat) (twoSlots : Bool) : State :=
  let n := i.pkt.part
  s.post { i.pkt.reply status i.accepted 0 cause with
    promised := i.promise
    berth := i.berth.getD 0xFFFF
    kind := if i.berth.isSome then i.cls else 0xFF
    start := if i.cls = 3 then ones64 else BitVec.ofNat 64 i.k0
    extra := if twoSlots then [s.result n i] else []
    item := true
    judge := if status = stOk ∧ i.cls ≠ 3 then some (n, i.causes) else none
    share := i.share }

/-- The items of partition `n` change, and what is committed to them. -/
def State.setItems (s : State) (n : Nat) (l : List Item) : State :=
  { s with tally := { s.tally with weights := AMap.put s.tally.weights n (l.map Item.commitment) } }.modPart n (fun p =>
    { p with items := l })

/-- The item leaves its partition. -/
def State.dropItem (s : State) (i : Item) : State :=
  s.setItems i.pkt.part ((s.part i.pkt.part).items.filter (fun j => j.pkt.id != i.pkt.id))

/-- An item changed. -/
def State.setItem (s : State) (i : Item) : State :=
  s.setItems i.pkt.part ((s.part i.pkt.part).items.map (fun j => if j.pkt.id = i.pkt.id then i else j))

/-- The berth that an item that never started gives back (R327, R328). -/
def State.giveBack (s : State) (i : Item) : State :=
  match i.berth with
  | some b => s.moveBerth i.pkt.part b (if i.named then .opened else .free)
  | none => s

/-- A restore under way stops: its index returns to `MOORED` (R291). -/
def State.stopRestore (s : State) (i : Item) : State :=
  match i.rest with
  | some r => if r.ended then s else s.setIdx r.idx ixMoored
  | none => s

/-! ### The decision (R45) -/

/-- The counter of R48 that an admission reply counts in. -/
def outcomeIx (status : Nat) : Option Nat :=
  [(stAccepted, 0), (stDeferred, 1), (stNoBerth, 2), (stInfeasible, 3), (stQuota, 4), (stHeld, 5), (stClosed, 6)].findSome?
    (fun p => if p.1 = status then some p.2 else none)

/-- An admission reply is formed, counted and traced (R48, R395). -/
def State.admitReply (s : State) (p : Packet) (c : Compl) : State :=
  let n := p.part
  let s := match outcomeIx c.status with
    | some k => s.setReg (0x20100 + n * 0x40 + 8 * k) (s.reg (0x20100 + n * 0x40 + 8 * k) + 1)
    | none => s
  (s.post c).traceUnit 0 [n] 0x10 (n + c.status * 2 ^ 8 + p.cls * 2 ^ 16 + (c.berth % 65536) * 2 ^ 24 + p.tag * 2 ^ 40 +
    (c.start.toNat % 2 ^ 48) * 2 ^ 72)

/-- A refusal takes effect in its reply and its counter alone (R47); the reply is an admission reply, whose `DONE` is 0
(R48; DEDUCED for `E_STATE`, log 89). -/
def State.refuse (s : State) (p : Packet) (status : Nat) (detail : W64 := 0) : State :=
  s.admitReply p { s.replyTo p status s.devtime detail with done := false }

/-- The item is admitted: its berth and its restore are taken (R45, R287, R289). -/
def State.takeItem (s : State) (p : Packet) (status : Nat) (berth : Option Nat) (k0 : Nat) (promise : W64)
    (rest : Option Restore) : State :=
  let n := p.part
  let i : Item :=
    { pkt := p, cls := p.cls, berth := berth, named := p.sBerth != berthAny, steps := p.sSteps, weight := p.sWeight
      deadline := p.param, accepted := s.devtime, promise := promise, k0 := k0, done := 0, running := false
      started := false, cancelled := false, broken := false, rest := rest, causes := (s.part n).cause.toList }
  let s := s.setItems n ((s.part n).items ++ [i])
  let s : State := { s with tally := { s.tally with out := addAt s.tally.out n 1 } }
  let s := match berth with
    | some b => s.setBerth n b ⟨.admitted, p.cls, none⟩
    | none => s
  let s := match rest with
    | some r => (s.setIdx r.idx ixRestoring).setReg (prt n 0xD8) r.endAt
    | none => s
  s.admitReply p { p.reply status i.accepted with
    final := false, promised := promise, done := false, berth := berth.getD 0xFFFF
    kind := if berth.isSome then p.cls else 0xFF
    start := if p.cls = 3 then ones64 else BitVec.ofNat 64 k0 }

/-- The restore that a decision now would commit. -/
def State.planRestore (s : State) (p : Packet) : Option Restore :=
  if p.moored then
    let start := max s.devtime.toNat (s.reg (prt p.part 0xD8)).toNat
    let ns := restNs (AMap.get 1 s.moorUnits p.sIdx) (s.t2slots p.part)
    some ⟨p.sIdx, BitVec.ofNat 64 start, BitVec.ofNat 64 (start + ns), false, false, s.t2slots p.part⟩
  else none

/-- Berth naming under R39: the state code found where it is invalid. -/
def State.namingBad (s : State) (p : Packet) : Option Nat :=
  let b := s.berth p.part p.sBerth
  if p.sBerth = berthAny then
    if p.moored ∧ s.idxState p.sIdx ≠ ixMoored then some (s.idxState p.sIdx) else none
  else if p.moored ∨ b.st ≠ .opened ∨ b.cls ≠ p.cls then some (if b.opening.isSome then 1 else b.st.num)
  else none

/-- The candidates of R45 from `k0` on, `fuel` of them: the start step and its promise. -/
def State.search (s : State) (p : Packet) (cur : Nat) : Nat → Nat → Option (Nat × Nat)
  | 0, _ => none
  | fuel + 1, k0 =>
    let n := p.part
    let promise := s.t0 n + (k0 + p.sSteps - 1) * s.period n + s.declB n + 2000
    if p.param.toNat < promise ∧ !p.late then none
    else if s.fits n p.cls p.sWeight cur k0 (min (k0 + p.sSteps - 1) (cur + 256)) then some (k0, promise)
    else s.search p cur fuel (k0 + 1)

/-- Items in the partition's `BULK` queue (R53): those that have not started, the spec does not say whether a started one
still counts (DESIGN CHOICE, log 106). -/
def State.bulkCount (s : State) (n : Nat) : Nat := ((s.part n).items.filter (fun i => i.cls == 3 && !i.started)).length

/-- A `BULK` `SUBMIT` (R53). -/
def State.bulkSubmit (s : State) (p : Packet) : State :=
  let n := p.part
  if 1024 ≤ s.bulkCount n then s.refuse p stQuota
  else if p.sBerth ≠ berthAny then s.takeItem p stDeferred (some p.sBerth) 0 ones64 none
  else if !p.moored then s.takeItem p stDeferred none 0 ones64 none
  else if s.maxBerths n 3 < s.heldBy n 3 + 1 then s.refuse p stQuota
  else if s.sharedBerths n < s.sharedUsed n + 1 then s.refuse p stNoBerth
  else
    match s.freeBerth? n with
    | none => s.refuse p stNoBerth
    | some b =>
      if s.t2slots n = 0 then s.refuse p stInfeasible else s.takeItem p stDeferred (some b) 0 ones64 (s.planRestore p)

/-- `decide` of R45, at the present time. -/
def State.decideSubmit (s : State) (p : Packet) : State :=
  let n := p.part
  let c := p.cls
  let any := p.sBerth = berthAny
  if s.pstate n ≠ psRunning ∨ s.overrun n then s.refuse p stHeld
  else if !s.clsOpen n c then s.refuse p stClosed
  else if p.sSteps = 0 then s.admitReply p { p.reply stOk s.devtime with promised := s.devtime }
  else
    match s.namingBad p with
    | some code => s.refuse p stState (BitVec.ofNat 64 code)
    | none =>
      if c = 3 then s.bulkSubmit p
      else if any ∧ s.maxBerths n c < s.heldBy n c + 1 then s.refuse p stQuota
      else if any ∧ s.rsvBerths n c ≤ s.heldBy n c ∧ s.sharedBerths n < s.sharedUsed n + 1 then s.refuse p stNoBerth
      else if any ∧ s.freeBerth? n = none then s.refuse p stNoBerth
      else if s.below n then s.refuse p stInfeasible
      else if p.moored ∧ s.t2slots n = 0 then s.refuse p stInfeasible
      else
        let rest := s.planRestore p
        let ready := (match rest with | some r => r.endAt.toNat | none => s.devtime.toNat) + s.rfld 0x20000 0 16
        let k := (ready - s.t0 n + s.period n - 1) / s.period n
        let cur := (s.devtime.toNat - s.t0 n) / s.period n
        if cur + 256 < k then s.refuse p stInfeasible
        else
          match s.search p cur (cur + 256 + 1 - k) k with
          | some (k0, promise) =>
            let b := if any then s.freeBerth? n else some p.sBerth
            s.takeItem p (if promise ≤ p.param.toNat then stAccepted else stDeferred) b k0 (BitVec.ofNat 64 promise) rest
          | none =>
            let ran := s.t0 n + (k + p.sSteps - 1) * s.period n + s.declB n + 2000 ≤ p.param.toNat ∨ p.late
            if ran ∧ s.overMax n c p.sWeight cur k (min (k + p.sSteps - 1) (cur + 256)) then s.refuse p stQuota
            else s.refuse p stInfeasible

/-- The Sluice may decide now: its decision times strictly increase (R43), and `FAULT` ends decisions (R417). -/
def State.mayDecide (s : State) : Bool :=
  s.dstate != dsFault && (match s.decided with | some t => t < s.devtime | none => true)

/-- The `SUBMIT` that R40 orders first: by class, deadline, arrival. -/
def submitBefore (a b : Packet) : Bool :=
  a.cls < b.cls || (a.cls == b.cls && (a.param < b.param || (a.param == b.param && a.arrival < b.arrival)))

def nextSubmit : List Packet → Option Packet
  | [] => none
  | p :: ps =>
    match nextSubmit ps with
    | none => if p.op = 0x21 then some p else none
    | some q => if p.op = 0x21 ∧ !submitBefore q p then some p else some q

/-- The next `SUBMIT` of the Sluice's queue is decided (R45). -/
def State.submitNext (s : State) : State :=
  match nextSubmit s.sluice with
  | some p =>
    if s.mayDecide then
      { s with sluice := s.sluice.filter (fun q => q.id != p.id), decided := some s.devtime }.decideSubmit p
    else s
  | none => s

/-! ### Items whose last step has ended (R30, R328, R341) -/

/-- The item's last step has ended at its final barrier: its final completion counts as formed. -/
def State.itemEnds (s : State) (i : Item) : Bool :=
  let p := s.part i.pkt.part
  p.finalDone && (match p.step with | some r => !r.broken | none => false) && i.running && i.steps ≤ i.done + 1

/-- An item ends with the step that has ended: `DONE` of its record counts that step (R326 and its worked example), its
final completion is formed, and its berth is `OPEN` (R39, R49, R328). -/
def State.endItem (s : State) (i : Item) : State :=
  let j := { i with done := i.done + 1, running := false }
  let s := match i.berth with
    | some b => (s.devWrite i.pkt.part (s.rfld (prt i.pkt.part 0xE0) 0 48 + (b - s.berthBase i.pkt.part) * 128 + 20) (toLE 4 j.done)).1
    | none => s
  let s := (s.finalItem j (if i.cancelled then stAborted else stOk) (if i.cancelled then caCancel else 0) true).dropItem j
  match j.berth with | some b => s.moveBerth i.pkt.part b .opened | none => s

/-! ### `CANCEL` (R328) -/

/-- The target of a `CANCEL`. -/
def State.cancelTarget (s : State) (n tag b : Nat) : Option Item :=
  if b = berthAny then
    (s.part n).items.find? (fun i => i.pkt.tag == tag && i.cls == 3 && i.pkt.sBerth == berthAny && !i.pkt.moored)
  else (s.part n).items.find? (fun i => i.pkt.tag == tag && i.berth == some b)

/-- What a `CANCEL` does to its target. -/
def State.cancelItem (s : State) (i : Item) : State :=
  if i.broken then
    let s := (s.finalItem i stAborted caCancel true).dropItem i
    match i.berth with | some b => s.moveBerth i.pkt.part b .opened | none => s
  else if i.running then s.setItem { i with cancelled := true }
  else if i.started then
    let s := (s.finalItem i stAborted caCancel true).dropItem i
    match i.berth with | some b => s.moveBerth i.pkt.part b .opened | none => s
  else (((s.stopRestore i).giveBack i).finalItem i stAborted caCancel true).dropItem i

/-- The next `CANCEL` of the Sluice's queue: no `SUBMIT` read before it from its ring pair waits. -/
def nextCancel : List Packet → List Packet → Option Packet
  | _, [] => none
  | before, p :: ps =>
    if p.op = 0x22 ∧ before.all (fun q => q.ring != p.ring || q.op != 0x21) then some p else nextCancel (p :: before) ps

/-- The next `CANCEL` of ring pair `g` is decided (R328). -/
def State.cancelNext (s : State) (g : Nat) : State :=
  match nextCancel (s.sluice.filter (fun q => q.ring != g)) (s.sluice.filter (fun q => q.ring == g)) with
  | some p =>
    if s.mayDecide then
      let s := { s with sluice := s.sluice.filter (fun q => q.id != p.id), decided := some s.devtime }
      if s.dstate ≠ dsRun then s.post (s.replyTo p stState s.devtime 0xFF)
      else
        match s.cancelTarget p.part (p.num 16 4) (p.num 20 2) with
        | some i =>
          if i.cancelled ∨ s.itemEnds i then s.post (s.replyTo p stState s.devtime 0xFF)
          else (s.cancelItem i).post { (s.cancelItem i).replyTo p stOk s.devtime with after := if i.running then [] else [i.pkt.id] }
        | none => s.post (s.replyTo p stState s.devtime 0xFF)
    else s
  | none => s

end Sys2Proof.Machine
end

