-- ==== Sys2Proof/Machine/Staging.lean ====
section
/-!
DEFINITION. Staged (ST) fields (R6, R443): how a write is staged, and how a partition's staged fields take effect at
its boundary (R35 step 2, R38, R42, R196, R272, R282, R326).
-/
namespace Sys2Proof.Machine

/-! ### Staged values -/

def State.stV (s : State) (off : Nat) : W64 := AMap.get 0 s.stgV off
def State.stM (s : State) (off : Nat) : W64 := AMap.get 0 s.stgM off

/-- The value of a register word once its staged bits are in force: what its mirror reads (R443). -/
def State.eff (s : State) (off : Nat) : W64 := (s.reg off &&& ~~~s.stM off) ||| (s.stV off &&& s.stM off)

/-- Bits of a word staged (R6): a later write of a bit replaces the earlier one. -/
def State.stageBits (s : State) (off : Nat) (mask v : W64) : State :=
  { s with
    stgV := AMap.put s.stgV off ((s.stV off &&& ~~~mask) ||| (v &&& mask))
    stgM := AMap.put s.stgM off (s.stM off ||| mask) }

/-- Nothing staged in a word. -/
def State.unstage (s : State) (off : Nat) : State :=
  { s with stgV := AMap.put s.stgV off 0, stgM := AMap.put s.stgM off 0 }

/-- The staged bits of a word take effect; they are discarded. -/
def State.applyWord (s : State) (off : Nat) : State := (s.setReg off (s.eff off)).unstage off
def State.applyWords (s : State) (offs : List Nat) : State := offs.foldl State.applyWord s
def State.dropWords (s : State) (offs : List Nat) : State := offs.foldl State.unstage s
def State.anyStaged (s : State) (offs : List Nat) : Bool := offs.any (fun o => s.stM o != 0)

/-- A field of a word as staged. -/
def State.efld (s : State) (off lo w : Nat) : Nat := fld (s.eff off) lo w

/-! ### The set of R42 -/

def sluiceWords (n : Nat) : List Nat := [0x30, 0x40, 0x48, 0x50, 0x58, 0x60, 0x68].map (prt n)

/-- Two ranges given by base and length meet. -/
def rangesMeet (a la b lb : Nat) : Bool := la != 0 && lb != 0 && a < b + lb && b < a + la

/-- The staged set of R42 may take effect. A range that reaches past berth 4,095 fails it, a check that R42 does not list
(DESIGN CHOICE, log 107). -/
def State.sluiceOk (s : State) (n : Nat) : Bool :=
  let base := s.efld (prt n 0x30) 0 12
  let count := s.efld (prt n 0x30) 16 13
  let rb (c : Nat) := if c = 3 then 0 else s.efld (prt n (0x40 + 8 * (c / 2))) (32 * (c % 2)) 13
  let mb (c : Nat) := s.efld (prt n (0x40 + 8 * (c / 2))) (32 * (c % 2) + 16) 13
  let ru (c : Nat) := if c = 3 then 0 else s.efld (prt n (0x50 + 8 * c)) 0 20
  let mu (c : Nat) := s.efld (prt n (0x50 + 8 * c)) 32 20
  let occ := match (s.part n).prog with | some g => ((g.bands.getLast?).map (·.occ)).getD 0 | none => 0
  let busy := (s.part n).berths.filter (fun b => b.2.held)
  (hardClasses.map rb).foldl (· + ·) 0 ≤ count &&
    (hardClasses.map ru).foldl (· + ·) 0 ≤ s.lastUnits n &&
    (List.range 4).all (fun c => rb c ≤ mb c && ru c ≤ mu c) &&
    count ≤ occ && base + count ≤ 4096 &&
    (List.range 8).all (fun m => m == n || !rangesMeet base count (s.berthBase m) (s.berthCount m)) &&
    busy.length ≤ count && busy.all (fun b => base ≤ b.1 && b.1 < base + count)

/-! ### The set of R282 -/

def moorWords (n : Nat) : List Nat := [0xA0, 0xA8, 0xB0, 0xB8].map (prt n)

/-- The staged set of R282 may take effect. -/
def State.moorOk (s : State) (n : Nat) : Bool :=
  let ib := s.efld (prt n 0xB0) 0 16
  let ic := s.efld (prt n 0xB0) 16 17
  let q := s.efld (prt n 0xB0) 33 7
  let bp := s.efld (prt n 0xA8) 48 10
  let base := s.efld (prt n 0xB8) 0 43
  let others := ((List.range 8).filter (· != n)).map s.t2slots
  let same := s.eff (prt n 0xA0) == s.reg (prt n 0xA0) && s.eff (prt n 0xA8) == s.reg (prt n 0xA8) &&
    s.eff (prt n 0xB8) == s.reg (prt n 0xB8) && ib == s.idxBase n && ic == s.idxCount n
  let idle := (s.part n).berths.all (fun b => !b.2.held) &&
    (List.range (s.idxCount n)).all (fun i => s.idxState (s.idxBase n + i) == ixEmpty)
  ib + ic ≤ 65536 &&
    (List.range 8).all (fun m => m == n || !rangesMeet ib ic (s.idxBase m) (s.idxCount m)) &&
    (ic == 0 || (inTier2 base && base + ic * (4096 + bp * 65536) ≤ tier2Base + 0x12000000000)) &&
    base % 4096 == 0 && bp % 4 == 0 && bp ≤ 512 && !(bp == 0 && ic != 0) &&
    s.efld (prt n 0xA0) 0 48 % 64 == 0 && s.efld (prt n 0xA8) 0 48 % 65536 == 0 &&
    others.foldl (· + ·) 0 + q ≤ s.rfld 0x40000 0 7 && (same || idle)

/-- The share of tier 2 has become `q` slots: condition 4 of R50 fails for the items, and the final completions not yet
written, whose restore time was computed with more. -/
def State.shareCut (s : State) (n q : Nat) : State :=
  let cut (share : Nat) (l : List Nat) : List Nat := if q < share then l.set 4 0 else l
  let s := s.modPart n (fun p => { p with items := p.items.map (fun i => { i with causes := cut i.share i.causes }) })
  { s with compl := s.compl.map (fun c => match c.judge with
    | some (m, base) => if m = n then { c with judge := some (m, cut c.share base) } else c
    | none => c) }

/-- The set of R282 takes effect; an `IDX_COUNT` that comes to a partition with none brings the records of its range
into the counts (R281). -/
def State.applyMoor (s : State) (n : Nat) : State :=
  let first : Bool := s.idxCount n == 0 && fld (s.stM (prt n 0xB0)) 16 17 != 0
  let s := s.applyWords (moorWords n)
  let s := s.shareCut n (s.t2slots n)
  if first then
    let k := ((List.range (s.idxCount n)).filter (fun i => s.idxState (s.idxBase n + i) == ixMoored)).length
    ((s.setReg (prt n 0xC0) (BitVec.ofNat 64 k)).setReg (prt n 0xC8) 0).setReg (prt n 0xD0) 0
  else s

/-! ### Everything that is staged for a partition -/

/-- Export entries and fabric barriers of partition `n` (R367, R374). -/
def fabricWords (n : Nat) : List Nat :=
  (List.range 32).map (fun i => 0x54000 + n * 0x100 + 8 * i) ++ (List.range 32).map (fun i => 0x56000 + n * 0x100 + 8 * i)

/-- Every staged word of partition `n` but `NISPLIT`. -/
def stagedWords (n : Nat) : List Nat :=
  sluiceWords n ++ moorWords n ++ [prt n 0x80, prt n 0x88, prt n 0xE0, prt n 0x100, prt n 0x108, prt n 0x130, 0x70028 + n * 0x100] ++
    fabricWords n

/-- The staged fields of partition `n` take effect, each set that its rule accepts (R35 step 2). A set or a field that
fails is discarded. -/
def State.applyStaged (s : State) (n : Nat) : State :=
  let s := if s.anyStaged (sluiceWords n) then
      if s.sluiceOk n then s.applyWords (sluiceWords n) else (s.dropWords (sluiceWords n)).setRfld (prt n 0x30) 31 1 1
    else s
  let s := if s.anyStaged (moorWords n) then
      if s.moorOk n then s.applyMoor n else (s.dropWords (moorWords n)).setRfld (prt n 0xB0) 63 1 1
    else s
  let tt := s.efld (prt n 0x80) 0 43
  let s := if tt % 0x200000 = 0 ∧ inTiers tt 0x200000 then s.applyWord (prt n 0x80) else s.unstage (prt n 0x80)
  let item := s.efld (prt n 0xE0) 0 48
  let s := if item % 128 = 0 ∧ (item = s.rfld (prt n 0xE0) 0 48 ∨ (s.part n).berths.all (fun b => !b.2.held)) then
      s.applyWord (prt n 0xE0)
    else s.unstage (prt n 0xE0)
  let log := s.efld (prt n 0x108) 0 5
  let dl := [prt n 0x100, prt n 0x108]
  let s := if 6 ≤ log ∧ log ≤ 16 ∧ s.efld (prt n 0x100) 0 43 % (64 * 2 ^ log) = 0 then s.applyWords dl else s.dropWords dl
  let snap := 0x70028 + n * 0x100
  let sb := s.efld snap 0 43
  let s := if sb % 4096 = 0 ∧ inTier1 sb then s.applyWord snap else s.unstage snap
  let s := s.applyWords (prt n 0x88 :: prt n 0x130 :: fabricWords n)
  (s.cores.map (·.1)).foldl (fun s c =>
    if s.partOf c = some n then
      s.modCore c (fun k => match k.nisplitStaged with
        | some v => { k with nisplit := v, nisplitStaged := none }
        | none => k)
    else s) s

/-- The staged values of partition `n` are discarded (R6). -/
def State.dropStaged (s : State) (n : Nat) : State :=
  let s := s.dropWords (stagedWords n)
  (s.cores.map (·.1)).foldl (fun s c =>
    if s.partOf c = some n then s.modCore c (fun k => { k with nisplitStaged := none }) else s) s

end Sys2Proof.Machine
end

