-- ==== Sys2Proof/Machine/Service.lean ====
section
/-!
DEFINITION. Taking cores, partitions and the device out of service: quarantine (R195, R423-R426), what a partition
reset does (R214, R340-R341), entry to `FAULT` (R416-R417), and starting a program's cores (R79).
-/
namespace Sys2Proof.Machine

/-! ### Cores -/

/-- A thread stopped at once, whatever it is doing (R340). -/
def Thread.cut (x : Thread) : Thread := { x with wait := none, loads := [], wdog := false }

/-- An access whose thread is stopped at once goes on without it where it writes memory (R238). -/
def Acc.cut (a : Acc) : Option Acc := if a.writes && !a.alone then some { a with orphan := true } else none

/-- Every thread of a core stopped at once; writes that have issued are still performed. What the engines have not executed is
lost, and `TIU` is as before it, so that what is not in use holds zeros (R110). -/
def Core.cut (k : Core) : Core :=
  { k with
    thr := k.thr.map Thread.cut
    ctl := k.ctl.map (fun t => { t with run := false, stopped := true, stopReq := false })
    mx := { k.mx with queue := [], gath := none, tiu := match k.mx.queue with | q :: _ => q.tiu | [] => k.mx.tiu }
    vx := { k.vx with queue := [], done := [], gath := none }
    mem := { k.mem with accs := k.mem.accs.filterMap Acc.cut } }

/-- The cores of partition `n`, absent ones included. -/
def State.sectCores (s : State) (n : Nat) : List Nat := (List.range 1024).filter (fun c => (s.sects n).testBit (coreSect c))

/-- The requests that the core's threads wait for are forgotten. -/
def RemOrigin.ofCore (o : RemOrigin) (c : Nat) : Bool :=
  match o with
  | .acc d _ => d == c
  | .line d _ _ => d == c
  | .eline d _ _ _ => d == c
  | .poll d _ => d == c
  | .send d _ => d == c
  | _ => false

/-- The threads of core `c` are stopped at once. -/
def State.cutCore (s : State) (c : Nat) : State :=
  let kept := ((s.core c).mem.accs.filterMap Acc.cut).map Acc.id
  { (s.modCore c Core.cut) with remReqs := s.remReqs.filter (fun q => match q.org with
      | .acc d id => d != c || kept.contains id
      | o => !o.ofCore c) }

/-- A channel becomes `IDLE` at once: its held elements are dropped, its entry to `IDLE` is traced, and no pennant is set
(R179, R395). What other devices have not answered yet concerns it no longer (log 134). -/
def State.idleChannel (s : State) (c : Nat) (ch : BitVec 3) : State :=
  let h := s.chan c ch
  let s := ((s.modCore c (fun k => k.dropElems h.held)).leaveList c ch false).setChan c ch Channel.reset
  if h.state = .idle then s else s.traceChan c ch h.cur

/-- Every channel of core `c`. -/
def State.idleChannels (s : State) (c : Nat) : State :=
  ((List.range 8).map (BitVec.ofNat 3)).foldl (fun s ch => s.idleChannel c ch) s

/-- A message that a core holds: its number in order of acceptance, its queue, the message, words popped and left, and
whether it is in the ring. -/
structure Held where
  seq : Nat
  queue : Nat
  msg : Msg
  popped : Nat
  left : Nat
  ring : Bool

/-- The messages of a queue of core `c`, oldest first. -/
def State.queueMsgs (s : State) (c : Nat) (q : BitVec 3) : List Held :=
  let m := (s.core c).mu
  ((m.queue q).map (fun e => ⟨e.seq, q.toNat, e.msg, e.popped, e.left.length, false⟩)) ++
    (m.forms q).zipIdx.map (fun f =>
      let msg := recordMsg (Memory.readBytes s.mem (lmAddr c (m.recOff q (m.head q + f.2))) 64)
      ⟨f.1.2, q.toNat, msg, 0, (msg.placed f.1.1).length, true⟩)

/-- The messages of every queue of core `c`. -/
def State.coreMsgs (s : State) (c : Nat) : List Held := (List.range 8).flatMap (fun q => s.queueMsgs c (BitVec.ofNat 3 q))

/-- A message put among those that are in order of acceptance. -/
def Held.insert (x : Held) : List Held → List Held
  | [] => [x]
  | y :: ys => if x.seq < y.seq then x :: y :: ys else y :: Held.insert x ys

/-- Words in the queues and spill rings of core `c` (R198). -/
def State.heldWords (s : State) (c : Nat) : Nat := ((s.coreMsgs c).map Held.left).foldl (· + ·) 0

/-- The queues of core `c` emptied, their words counted as gone (R198). -/
def State.emptyQueues (s : State) (c : Nat) : State :=
  let w := s.heldWords c
  s.modMu c (fun m => { m with
    q := Vector.replicate 8 [], spForms := Vector.replicate 8 [], spHead := Vector.replicate 8 0
    counts := { m.counts with wordsGone := m.counts.wordsGone + BitVec.ofNat 64 w } })

/-- The words and records that core `c` holds go to the dead-letter ring of partition `n` in order of acceptance
(R195). -/
def State.deadQueues (s : State) (n c : Nat) : State :=
  let msgs := (s.coreMsgs c).foldl (fun l x => x.insert l) []
  let s := msgs.foldl (fun s e =>
    s.deadLetter n (deadRecord e.msg (e.msg.rest (e.msg.words.length - min e.left e.msg.words.length))
      c e.queue e.popped (if e.ring then 2 else 1) s.devtime)) s
  s.emptyQueues c

/-- Messages that their senders hold for core `c` are dead-lettered, and each `SEND` retires; so are host `SIGNAL`s that
the control complex holds (R195, R329). -/
def State.deadHeld (s : State) (n c : Nat) : State :=
  let s := (s.cores.map (·.1)).foldl (fun s d =>
    ([0, 1, 2, 3] : List (BitVec 2)).foldl (fun s t =>
      match (s.thread d t).wait with
      | some (.send h ws time .held _) =>
        if (hLocal h || hDdev h == s.devid) && hDcore h == c && s.deadRoom n then
          let m : Msg := ⟨deliveredHeader d s.devid t.toNat false false (hTag h) ws.length, time, ws⟩
          (s.deadLetter n (deadRecord m ws c (((s.core c).mu.matchTag (hTag h)).toNat) 0 0 s.devtime)).sendRetire d t
        else s
      | _ => s) s) s
  let mine := (s.part n).signals.filter (fun g => g.core == c && !g.flying)
  mine.foldl (fun s g =>
    if s.deadRoom n then
      let s := s.deadLetter n (deadRecord g.msg g.msg.words c (((s.core c).mu.matchTag (mTag g.msg)).toNat) 0 3 s.devtime)
      (s.modPart n (fun p => { p with signals := p.signals.filter (fun x => x.pkt.id != g.pkt.id) })).post
        (g.pkt.reply stOk g.pkt.read 1)
    else s) s

/-- How an arrival ends: accepted, dead-lettered, refused. -/
inductive Arrival where
  | accepted
  | dead
  | refused
deriving DecidableEq, Repr

/-- The outcome on its way to the sender: a thread's `SEND`, a host `SIGNAL`, another device. -/
def State.senderTold (s : State) (src : MsgSrc) (a : Arrival) : State :=
  match src with
  | .thread c t => s.modThread c t (fun y => match y.wait with
      | some (.send _ _ _ .flying ev) => y.sendPhase (.answered (a != .refused)) ev
      | _ => y)
  | .host n i =>
    match (s.part n).signals.find? (fun g => g.pkt.id == i) with
    | none => s
    | some g =>
      if a = .refused then
        s.modPart n (fun p => { p with signals := p.signals.map (fun x => if x.pkt.id = i then { x with flying := false } else x) })
      else
        let s := s.modPart n (fun p => { p with signals := p.signals.filter (fun x => x.pkt.id != i) })
        let s := if a = .accepted then s.setPenn g.core (24 + g.n) else s
        s.post (g.pkt.reply stOk g.pkt.read (if a = .dead then 1 else 0))
  | .fabric r => s.fabSend (.answer r (a != .refused))

/-- A message on its way to core `c`, which is quarantined, is dead-lettered (R195, R424: at the one instant of the
quarantine; DEDUCED, log 90). -/
def State.deadFlight (n c : Nat) (s : State) (m : Flight) : State :=
  if s.deadRoom n then
    let s := s.deadLetter n (deadRecord m.msg m.msg.words c (((s.core c).mu.matchTag (mTag m.msg)).toNat) 0 0 s.devtime)
    { s with msgs := s.msgs.filter (fun x => x.id != m.id) }.senderTold m.src .dead
  else s

/-- Every message on its way to core `c` of partition `n`. -/
def State.deadFlights (s : State) (n c : Nat) : State := (s.msgs.filter (fun m => m.dst == c)).foldl (State.deadFlight n c) s

/-- Thread 0 of core `c` starts at the program's entry in supervisor mode; threads 1-3 stay stopped in user mode; no
thread is halted (R79). -/
def State.startCore (s : State) (c : Nat) (entry : W64) : State :=
  if !s.present c then s
  else
    let s := s.cutCore c
    s.modCore c (fun k =>
      let k : Core := { k with
        ctl := k.ctl.map (fun t => { t with halted := false, hcause := 0, run := false, stopped := true })
        thr := k.thr.map (fun x => { x with stat := setBit x.stat 0 false }) }
      let x := rget k.thr 0
      let k := k.setThr 0 (Thread.start { x with stat := setBit x.stat 0 true, pc := entry })
      let t := rget k.ctl 0
      { k with ctl := rset k.ctl 0 { t with run := true, stopped := false } })

/-! ### Barriers (R213) -/

/-- Every barrier of partition `n` that a test names becomes `BROKEN`. -/
def State.breakBars (s : State) (n : Nat) (f : Nat → Bool) : State :=
  ((List.range 80).filter f).foldl (fun s b => s.barFail n b 3) s

/-! ### Quarantine (R422-R426) -/

/-- The spare position of half-row `h` asked for (R14, R431). -/
def State.askPos (s : State) (h v : Nat) : State := { s with boot := { s.boot with posReq := AMap.put s.boot.posReq h v } }

/-- The physical position that supplies a logical core (R13). -/
def State.position (s : State) (c : Nat) : Nat :=
  let f := s.rfld (0x200 + 8 * coreRow c) (32 * coreHalf c) 5
  let f := if f = 0x1F then 16 else f
  let o := coreCol c % 16
  if o < f then o else o + 1

/-- Half-row of a core. -/
def halfRow (c : Nat) : Nat := 2 * coreRow c + coreHalf c

/-- Core `c` is quarantined; `src` goes into byte 8 of its log entry (R423-R426). -/
def State.quarantine (s : State) (c src : Nat) : State :=
  let row := 0x200 + 8 * coreRow c
  let h := 32 * coreHalf c
  let s := s.cutCore c
  let s := s.idleChannels c
  let s := match s.partOf c with
    | some n => ((s.deadQueues n c).deadHeld n c).deadFlights n c
    | none => s.emptyQueues c
  let s := match s.partOf c with
    | some n =>
      let sets := match (s.part n).prog with | some g => g.sets | none => []
      s.breakBars n (fun b => (sets.getD b 0).testBit c)
    | none => s
  let pos := s.position c
  let s := s.setRfld row (h + 16 + coreCol c % 16) 1 1
  let q := 0x80880 + 8 * (c / 64)
  let s := (s.setReg q (setBit (s.reg q) (c % 64) true)).setReg 0x80000 (setBit (s.reg 0x80000) 18 true)
  let s := s.errLog ⟨src, 4, s.partOf c, 0, some c, 0, 0, 0⟩
  let s := { s with boot := { s.boot with coreReq := s.boot.coreReq ++ [halfRow c * 17 + pos] } }
  let s := if s.rfld 0x80030 1 1 = 1 ∧ s.rfld row (h + 5) 1 = 0 ∧ s.rfld row (h + 7) 5 = 0x1F then
      (s.setRfld row (h + 7) 5 pos).askPos (halfRow c) pos
    else s
  match s.partOf c with
  | some n =>
    let s := (s.partCores n).foldl (fun s d => s.setPenn d 31) s
    let s := (s.breakCond n 1).modPart n (fun p =>
      { p with step := p.step.map (fun r => { r with broken := r.broken || !p.finalDone, quar := true }) })
    if (s.part n).step.isSome then s
    else
      let s := s.setRfld (0x80400 + 32 * n) 9 1 1
      if s.pstate n = psRunning then s.setPstate n psHeld else s
  | none => s

/-- `QUARANTINE` (R423-R424): a suspect core, while `AUTO` = 1. -/
def execQuarantine (core : BitVec 10) (s : State) : Out :=
  let c := core.toNat
  if (s.reg (0x80800 + 8 * (c / 64))).getLsbD (c % 64) ∧ s.rfld 0x80030 0 1 = 1 ∧ s.present c then
    .next (s.quarantine c (s.core c).suspSrc)
  else .next s

/-! ### Outstanding commands (R341) -/

/-- A job concerns partition `n`: its ring's, or the one that it names. -/
def Job.concerns (j : Job) (n : Nat) : Bool :=
  j.pkt.part == n ||
    (match j.kind with
      | .commit t => t == n
      | .hold t => t == n
      | _ => false)

/-- `ABORTED` for a packet. -/
def State.abort (s : State) (p : Packet) (accepted : W64) (cause : Nat) (detail : W64 := 0) : State :=
  s.post (s.replyTo p stAborted accepted detail cause)

/-- `UNITS` of a `MOOR`'s record, from the berth's block (R284): none where it cannot be read. -/
def State.moorSize (s : State) (n b : Nat) : Nat :=
  let a := s.blockAddr n b
  match s.devRead n (a + 2) 2 with
  | some w =>
    1 + ((List.range (ofLE w)).map (fun i =>
      match s.devRead n (a + 64 + 16 * i) 16 with
      | some e =>
        let v := BitVec.ofNat 128 (ofLE e)
        if eZero v then 0 else (eLen v + 4095) / 4096
      | none => 0)).foldl (· + ·) 0
  | none => 1

/-- What a job that is stopped has moved or read. -/
def Job.moved (j : Job) : Nat := match j.kind with | .stage head _ => head.length | _ => 0

/-- A formed completion, not yet written, is the `FINAL` one of a command of partition `n`: its command is outstanding at a
reset (R341), but for an admitted item, and for a `SUBMIT`, which keeps its one admission reply (R48; DEDUCED, log 120). -/
def Compl.stands (c : Compl) (n except : Nat) : Bool :=
  c.ring / 64 == n && c.final && !c.item && !c.hsig && c.op != 0x21 && c.pkt != except

/-- The `ABORTED` completion that a command gets in place of one that was formed. -/
def Compl.aborted (c : Compl) : Compl :=
  { c with status := stAborted, cause := caReset, promised := 0, done := true, start := 0, detail := BitVec.ofNat 64 c.moved, extra := [] }

/-- The commands of partition `n` whose `FINAL` completion is formed and not written receive `ABORTED` (R341); how many. -/
def State.abortFormed (s : State) (n except : Nat) : State × Nat :=
  let old := s.compl.filter (fun c => c.stands n except)
  ({ s with compl := s.compl.filter (fun c => !c.stands n except) ++ old.map Compl.aborted }, old.length)

/-- Every outstanding command of partition `n` receives its one `ABORTED` completion (R341); how many there were. With
`reset`, one whose `FINAL` completion is formed and not written is outstanding, and an item that a `CANCEL` has reached
carries its cause (R343); an entry to `FAULT` leaves what is formed (R417). -/
def State.abortPart (s : State) (n : Nat) (except : Nat) (reset : Bool) : State × Nat :=
  let s := ((s.part n).items.filter s.itemEnds).foldl State.endItem s
  let (s, formed) := if reset then s.abortFormed n except else (s, 0)
  let items := (s.part n).items
  let s := items.foldl (fun s i =>
    (((s.stopRestore i).finalItem i stAborted (if i.cancelled && reset then caCancel else caReset) true).dropItem i)) s
  let moors := (s.part n).moors
  let s := moors.foldl (fun s m =>
    match m.1.kind with
    | .moor b i => (s.recLost n i).abort m.1.pkt m.1.accepted caReset (BitVec.ofNat 64 (s.moorSize n b))
    | _ => s) s
  let jobs := s.jobs.filter (fun j => j.concerns n && j.pkt.id != except)
  let s := jobs.foldl (fun s j => s.post { s.replyTo j.pkt stAborted j.accepted (BitVec.ofNat 64 j.moved) caReset with waited := true }) s
  let sigs := (s.part n).signals
  let s := sigs.foldl (fun s g => s.abort g.pkt g.pkt.read caReset) s
  let waiting := s.fwq.filter (fun p => p.part == n && p.id != except)
  let s := waiting.foldl (fun s p => s.abort p s.devtime caReset) s
  let fast := s.fast.filter (fun p => p.part == n)
  let s := fast.foldl (fun s p => s.abort p p.read caReset) s
  let gone := jobs.map (fun j => j.pkt.id)
  let s := (List.range 8).foldl (fun (s : State) m =>
    if (s.part m).commits.any (fun c => gone.contains c.job.pkt.id) then
      (s.modPart m (fun p => { p with commits := p.commits.filter (fun c => !gone.contains c.job.pkt.id) })).setRfld
        (0xA0000 + 0x10 * m) 1 1 0
    else s) s
  let s := { s with
    jobs := s.jobs.filter (fun j => !(j.concerns n && j.pkt.id != except))
    fwq := s.fwq.filter (fun p => !(p.part == n && p.id != except))
    fast := s.fast.filter (fun p => p.part != n)
    msgs := s.msgs.filter (fun m => match m.src with | .host p _ => p != n | _ => true) }
  (s.modPart n (fun p => { p with moors := [], signals := [] }),
    formed + items.length + moors.length + jobs.length + sigs.length + waiting.length + fast.length)

/-! ### Partition reset (R340) -/

/-- The cores of partition `n` stop and lose what R214, R179 and R340 say, but for their pennants. -/
def State.clearCores (s : State) (n : Nat) : State :=
  let s := (s.partCores n).foldl (fun s c =>
    let s := ((s.cutCore c).idleChannels c).emptyQueues c
    s.modCore c (fun k => { k with
      mu := { k.mu with qcfg := MsgUnit.reset.qcfg, tagm := MsgUnit.reset.tagm }
      mem := { k.mem with dcache := [], tlb := [] } })) s
  { s with msgs := s.msgs.filter (fun m => match m.src with | .thread c _ => s.partOf c != some n | _ => true) }

/-- What a reset of partition `n` does (R340), but for its own completion: how many commands it aborted. -/
def State.resetPart (s : State) (n except : Nat) : State × Nat :=
  let s := (s.clearCores n).breakBars n (fun _ => true)
  let s := (s.partCores n).foldl (fun (s : State) c => s.modCore c (fun k => { k with penn := 0 })) s
  let (s, k) := s.abortPart n except true
  let s := s.dropStaged n
  let s := ((s.part n).berths.filter (fun b => b.2.held)).foldl (fun s b => s.moveBerth n b.1 .free) s
  let s := s.setReg (prt n 0x70) (s.reg (prt n 0x70) &&& ~~~(0x0300000000000000 : W64))
  let s := (List.range 4).foldl (fun s i => s.setReg (0x80400 + 32 * n + 8 * i) 0) s
  let s := (s.dropLines n).modPart n (fun p => { p with
    step := none, finalDone := false, finalSeen := [], barDue := [], snap := none, startWait := false
    wdogHold := false, lateHold := false })
  let s := match (s.part n).prog with
    | some g => (s.partCores n).foldl (fun (t : State) c => t.startCore c g.entry) s
    | none => s
  (s.setPstate n psHeld, k)

/-! ### `FAULT` (R416-R417) -/

/-- The device state changes (R429). -/
def State.setDstate (s : State) (v : Nat) : State :=
  let s := (s.setRfld 0x10 0 3 v).setReg 0x18 s.devtime
  if v = dsHold ∨ v = dsRun then s else { s with pins := { s.pins with ppsUntil := none } }

/-- The faults after which the device forms no further completion (R417 step 4). -/
def faultSilent (cause : Nat) : Bool := cause == 1 || cause == 3 || cause == 6

/-- Everything outstanding in partition `n` is written off: no completion of it is ever formed, but for the items whose
last step had ended (R417 step 4). -/
def State.writeOff (s : State) (n : Nat) : State :=
  let s := ((s.part n).items.filter s.itemEnds).foldl State.endItem s
  let s : State := { s with tally := { s.tally with out := subAt s.tally.out n (s.part n).items.length } }
  (s.setItems n []).modPart n (fun p => { p with moors := [], signals := [], hsigs := [], commits := [] })

/-- Entry to `FAULT` with a cause of R416; in `FAULT` already, or before the end of `POR`, nothing. -/
def State.fault (s : State) (cause : Nat) : State :=
  if s.dstate = dsFault ∨ s.dstate < dsSelftest then s
  else
    let s := s.setDstate dsFault
    let s := (s.setReg 0x80008 s.devtime).setReg 0x80000
      (setFld (setBit (s.reg 0x80000) 0 true) 8 8 cause)
    let s := (List.range 8).foldl (fun s n =>
      let s := (s.sectCores n).foldl (fun s c => if s.present c then s.cutCore c else s) s
      s.breakCond n 1) s
    let s := (List.range 8).foldl (fun (s : State) n => if s.pstate n = psRunning then s.setPstate n psHeld else s) s
    let s := (List.range 16).foldl (fun (s : State) p => if s.portLit p then s.portState p pDown 0 else s) s
    let s := s.errLog ⟨0xFF, 8, none, cause, none, 0, 0, 0⟩
    if faultSilent cause ∨ s.rfld 0x10000 10 1 = 0 then
      { (List.range 8).foldl State.writeOff s with jobs := [], fwq := [], sluice := [], fast := [] }
    else
      let s := (List.range 8).foldl (fun s n => (s.abortPart n 0 false).1) s
      let s := s.sluice.foldl (fun s p => s.abort p s.devtime caReset) s
      { s with sluice := [] }

/-- An uncorrected event of a source that leads to `FAULT`: counted, and with a log entry of its own (R413, R420); in `FAULT`
already it leads nowhere further. -/
def State.faultEvent (s : State) (src cause detail : Nat) : State :=
  if s.dstate < dsSelftest then s
  else if s.dstate = dsFault then (s.countErr src true).errLog ⟨src, 1, none, 0, none, 0, 0, detail⟩
  else ((s.countErr src true).errLog ⟨src, 9, none, 0, none, 0, 0, detail⟩).fault cause

end Sys2Proof.Machine
end

