-- ==== Sys2Proof/Machine/Admission.lean ====
section
/-!
DEFINITION. The commands that the Sluice decides (R43-R54, R328), with what the code of its state finds (R413 index 18).
-/
namespace Sys2Proof.Machine

/-- The code of the Sluice's state finds something as it decides. -/
def State.sluiceRead (s : State) (ecc : Ecc) (act : State → State) : State :=
  match ecc with
  | .good => act s
  | .corrected => act (s.countErr 18 false)
  | .uncorrectable => s.faultEvent 18 3 0

/-- `SUBMIT` (R45, R325): the oldest packet whose turn it is. -/
def execSubmit (ecc : Ecc) (s : State) : Out := .next (s.sluiceRead ecc State.submitNext)

/-- `CANCEL` (R328). -/
def execCancel (ring : BitVec 9) (ecc : Ecc) (s : State) : Out := .next (s.sluiceRead ecc (fun s => s.cancelNext ring.toNat))

end Sys2Proof.Machine
end

