-- ==== Sys2Proof/Machine/Network.lean ====
section
/-!
DEFINITION. What the codes of the memory network and the Towpath find in an item (R413 indices 9 and 10, R415), and the
two accesses whose payload the memory network carries.
-/
namespace Sys2Proof.Machine

/-- Network source `src` finds something in an item of core `c` and thread `thr`: a payload that is delivered poisoned
breaks a condition of its partitions, an uncorrectable header takes the device to `FAULT`. -/
def State.netEvent (s : State) (src c thr : Nat) (addr : W64) (parts : List (Option Nat)) (e : NetEcc) : State :=
  match e with
  | .good => s
  | .corrected => s.countErr src false
  | .payload =>
    let s := (s.countErr src true).errLog ⟨src, 1, s.partOf c, excEcc, some c, thr, addr, 0⟩
    parts.foldl (fun (s : State) p => match p with | some n => s.breakCond n 1 | none => s) s
  | .header => s.faultEvent src 8 0

/-- The partitions of an access's core and of the core whose LM it reaches. -/
def State.accParts (s : State) (c : Nat) (a : Acc) : List (Option Nat) :=
  [s.partOf c, match a.place with
    | .here pa => if inLm pa then s.partOf ((pa - lmBase) / 0x100000) else none
    | .remote _ => none]

/-- The units of a range of a home poisoned. -/
def State.poisonRange (s : State) (pa len : Nat) : State := (List.range len).foldl (fun s i => s.addPoison (pa + i)) s

/-- `LOAD_ARRIVAL` (R93, R217): the value of a performed read reaches its core. -/
def execLoadArrival (core : BitVec 10) (id : Nat) (net : NetEcc) (s : State) : Out :=
  let c := core.toNat
  match (s.core c).acc? id with
  | some a =>
    if a.performed && a.reads && s.halfRuns (coreHalf c) then
      let s := s.netEvent 9 c a.thr.toNat a.ea (s.accParts c a) net
      match net with
      | .header => .next s
      | .payload => .next (s.complete c { a with err := some (a.err.getD (excEcc, a.ea)) }).1
      | _ => .next (s.complete c a).1
    else .next s
  | none => .next s

/-- `HOME_WRITE` (R216): a store is performed. -/
def execHomeWrite (core : BitVec 10) (id : Nat) (net : NetEcc) (s : State) : Out :=
  let c := core.toNat
  match (s.core c).acc? id with
  | some a =>
    match a.kind, a.place with
    | .store size _, .here pa =>
      if s.mayPerform c a then
        let s := s.netEvent 9 c a.thr.toNat a.ea (s.accParts c a) net
        match net with
        | .header => .next s
        | .payload => .next ((s.perform c a .good).poisonRange pa (if s.homeUp pa then size else 0))
        | _ => .next (s.perform c a .good)
      else .next s
    | _, _ => .next s
  | none => .next s

end Sys2Proof.Machine
end

