-- ==== Sys2Proof/Machine/Delivery.lean ====
section
/-!
DEFINITION. Messages on the Towpath: their arrival, and a refused message sent again (R184, R188-R191, R195, R199,
R329).
-/
namespace Sys2Proof.Machine

/-- The partition of a message's sender, where it has one on this device. -/
def State.senderPart (s : State) : MsgSrc → Option Nat
  | .thread c _ => s.partOf c
  | .host n _ => some n
  | .fabric _ => none

/-- A message reaches its destination: matched and placed, or dead-lettered where the core is absent (R195). -/
def State.deliver (s : State) (m : Flight) (bad : Bool) : State × Arrival :=
  if s.present m.dst then
    match s.arrive m.dst m.msg bad with
    | (s, true) => (s, .accepted)
    | (s, false) => (s, .refused)
  else
    match s.partOf m.dst with
    | some n =>
      if s.deadRoom n then
        (s.deadLetter n (deadRecord m.msg m.msg.words m.dst (((s.core m.dst).mu.matchTag (mTag m.msg)).toNat) 0 0 s.devtime),
          .dead)
      else (s, .refused)
    | none => (s, .refused)

/-- `MESSAGE_ARRIVAL` (R188, R190). -/
def execMessageArrival (id : Nat) (net : NetEcc) (s : State) : Out :=
  match s.msgs.find? (fun m => m.id == id) with
  | none => .next s
  | some m =>
    if !s.halfRuns (coreHalf m.dst) then .next s
    else
      let s : State := { s with msgs := s.msgs.filter (fun x => x.id != id) }
      let s := s.netEvent 10 m.dst 0 0 [s.senderPart m.src, s.partOf m.dst] net
      if net = .header then .next s
      else
        let (s, a) := s.deliver m (net == .payload)
        .next (s.senderTold m.src a)

/-- A host `SIGNAL`'s message leaves for its core (R199, R329). -/
def State.signalSend (s : State) (n : Nat) (g : HostSignal) : State :=
  let s : State := { s with msgs := s.msgs ++ [⟨s.nextMsg, .host n g.pkt.id, g.core, g.msg⟩], nextMsg := s.nextMsg + 1 }
  s.modPart n (fun p => { p with signals := p.signals.map (fun x => if x.pkt.id = g.pkt.id then { x with flying := true } else x) })

/-- `MESSAGE_RESEND` (R184): a message held after a refusal is sent again. -/
def execMessageResend (src : Resender) (s : State) : Out :=
  match src with
  | .thread core t =>
    let c := core.toNat
    match (s.thread c t).wait with
    | some (.send h ws time .held ev) =>
      if !s.coreRuns c then .next s
      else .next ((s.sendMsg c t h ws time).modThread c t (fun y => { y with wait := some (.send h ws time .flying ev) }))
    | _ => .next s
  | .signal part i =>
    match (s.part part.toNat).signals.find? (fun g => g.pkt.id == i && !g.flying) with
    | some g => .next (s.signalSend part.toNat g)
    | none => .next s

end Sys2Proof.Machine
end

