-- ==== Sys2Proof/Machine/Matrix.lean ====
section
/-!
DEFINITION. The matrix instructions (R106-R134) and the events of the matrix engine.
-/
namespace Sys2Proof.Machine

/-! ### Shared parts -/

/-- A shape fault (R128-R129): once every earlier instruction has completed, `TFAULT` is written and the exception
raised. -/
def State.shapeFault (s : State) (c : Nat) (t : BitVec 2) (sub unit : Nat) (opndB : Bool) (minor : Nat) : Res :=
  match s.settle c t [] true with
  | .ok s =>
    .trap (s.modCore c (fun k => { k with mx := { k.mx with tfault := tfaultWord sub unit opndB minor } }))
      { code := excShape, stval := 0 }
  | .trapped s => .gone s
  | .stuck => .stall

/-- An engine's instruction of a thread that is not bound to it raises `ACCESS` with `STVAL` = 56 or 57 (R83); where it
accesses lines of memory, an exception of theirs that comes before `ACCESS` in the order of R99 is raised in its place. -/
def State.unbound (s : State) (c : Nat) (t : BitVec 2) (stval : W64) (need : Need) (lines : List RowLine) : Res :=
  match s.resolveLines c need (!(s.thread c t).sup) 64 lines with
  | (s, .error e) => if e.code = excAccess then .trap s { code := excAccess, stval := stval } else .trap s e
  | (s, .ok _) => .trap s { code := excAccess, stval := stval }

/-- Issue of a matrix instruction that accesses no memory. -/
def State.matrixIssue (s : State) (x : Iss) (i : Info) (f : State → Res) : Out :=
  s.issue x i (fun s =>
    if (s.core x.core.toNat).matrixBound x.thr then f s else s.unbound x.core.toNat x.thr 56 .read [])

/-- Room is made in the queue of 8 (R118). -/
def State.queueRoom (s : State) (c : Nat) (t : BitVec 2) : Drain :=
  if (s.core c).mx.queue.length < 8 then .ok s
  else
    match s.matrixRun c t 24 with
    | (s, true) => .trapped s
    | (s, false) => if (s.core c).mx.queue.length < 8 then .ok s else .stuck

/-- A queued instruction enters the queue, the thread and `TIU` before it kept for a late exception (R98). -/
def State.enqueue (s : State) (c : Nat) (t : BitVec 2) (kind : MKind) (f : Matrix → Matrix) : State :=
  let x := s.thread c t
  s.modCore c (fun k =>
    let m := f k.mx
    { k with mx := { m with queue := m.queue ++ [⟨t, x.n, kind, x, k.mx.tiu⟩] } })

/-- Nothing is queued in the engines, and nothing of the thread before its present instruction may raise an exception: an
instruction of the matrix engine runs at once. -/
def State.engineFree (s : State) (c : Nat) (t : BitVec 2) : Bool :=
  (s.core c).mx.queue.isEmpty && (s.core c).vx.queue.isEmpty && !(s.core c).unsettled t (s.thread c t).n

/-- A memory instruction enters the queue, with an entry of the scoreboard for its lines (R118, R217). `f` marks what it
writes (R110). -/
def State.memIssue (s : State) (c : Nat) (t : BitVec 2) (op : TileMem) (o : FmtCM) (lines : List RowLine) (f : Matrix → Matrix) :
    Res :=
  match s.queueRoom c t with
  | .stuck => .stall
  | .trapped s => .gone s
  | .ok s =>
    match s.makeRoom c t with
    | .stuck => .stall
    | .trapped s => .gone s
    | .ok s =>
      let y := s.thread c t
      let id := (s.core c).mem.nextId
      let write := match op with | .tst => true | .tsst => true | .tast => true | _ => false
      .done ((s.modCore c (fun k => k.addLines c t lines 64 write)).enqueue c t
        (.mem op id o.vr (y.eaCM o) (y.strideCM o)) f)

/-- Issue of a matrix memory instruction on the given lines: it runs at once, by `f`, where nothing is ahead of it, and else
waits its turn in the queue, without holding its thread (R98, R118, R120). -/
def State.matrixMem (s : State) (x : Iss) (i : Info) (op : TileMem) (o : FmtCM) (need : Need) (all checked : State → List RowLine)
    (mark : Matrix → Matrix) (f : State → List RowLine → Res) : Out :=
  s.issue x i (fun s =>
    let c := x.core.toNat
    if !(s.core c).matrixBound x.thr then s.unbound c x.thr 56 need (checked s)
    else
      match s.soft c x.thr with
      | .trapped s => .gone s
      | .stuck => .stall
      | .ok s => if s.engineFree c x.thr then f s (checked s) else s.memIssue c x.thr op o (all s) mark)

/-! ### `TMMA` (R112-R119, R124, R128) -/

/-- The access of a `TMMA`'s collector for an operand in LM: one range that bounds its rows (R124, R217). R217 does not say
whether a `TMMA` with both operands in LM holds one entry or two: it holds one for each (DESIGN CHOICE, log 132). -/
def State.addCollect (s : State) (c : Nat) (t : BitVec 2) (w : W64) : State :=
  if cfgSrc w then
    let x := s.thread c t
    s.modCore c (fun k => k.addAcc
      { id := k.mem.nextId, thr := t, n := x.n, kind := .collect, ea := BitVec.ofNat 64 (cfgRowOff w 0)
        place := .here (lmAddr c (cfgRowOff w 0)), space := .lm c, lo := cfgRowOff w 0
        len := cfgRowOff w (cfgRows w - 1) + 64 - cfgRowOff w 0, injected := true, performed := false, val := 0
        line := none, fill := false, err := none, snap := x })
  else s

/-- Room for the accesses of the operands read from LM. -/
def State.collectRoom (s : State) (c : Nat) (t : BitVec 2) (a b : W64) : Drain :=
  if !cfgSrc a && !cfgSrc b then .ok s
  else
    match s.makeRoom c t with
    | .ok s =>
      if (s.core c).mem.accs.length < 15 ∨ !(cfgSrc a && cfgSrc b) then .ok s
      else
        match s.soft c t with
        | .ok s => if (s.core c).mem.accs.length < 15 then .ok s else .stuck
        | r => r
    | r => r

/-- The `TMMA`, its checks passed, enters the queue: it marks its accumulator, and takes its run of the generator
(R68, R110, R117). -/
def State.tmmaIssue (s : State) (c : Nat) (t : BitVec 2) (o : FmtTmma) : Res :=
  let m := (s.core c).mx
  let a := m.tcfgOf o.ta
  let b := m.tcfgOf o.tb
  match s.queueRoom c t with
  | .stuck => .stall
  | .trapped s => .gone s
  | .ok s =>
    match s.collectRoom c t a b with
    | .stuck => .stall
    | .trapped s => .gone s
    | .ok s =>
      let seed := (s.thread c t).srseed
      let s := (s.addCollect c t a).addCollect c t b
      let s := s.enqueue c t (.tmma o.rm o.acc o.ta o.tb o.zf a b seed none)
        (fun m => m.markAcc o.acc.toNat (pairInt (cfgFmt a)))
      .done (s.modThread c t (fun x => { x with srseed := srAfter (tmmaDraws a b (Rm.of o.rm)) seed }))

/-- `TMMA` (R114). -/
def execTmma (x : Iss) (o : FmtTmma) (s : State) : Out :=
  s.matrixIssue x { word := BitVec.ofNat 32 (encTmma 56 2 x o), legal := o.rm != 3 && o.z == 0 } (fun s =>
    let c := x.core.toNat
    let m := (s.core c).mx
    let a := m.tcfgOf o.ta
    let b := m.tcfgOf o.tb
    match (srcRowFault a).orElse (fun _ => srcRowFault b) with
    | some off => .trap s { code := excAccess, stval := BitVec.ofNat 64 off }
    | none =>
      if 9 ≤ cfgFmt a ∨ 9 ≤ cfgFmt b then
        .trap s { code := excFmt, stval := BitVec.ofNat 64 (encTmma 56 2 x o) }
      else
        match tmmaShape m o.acc o.ta o.tb o.zf with
        | some (sub, unit, opndB) => s.shapeFault c x.thr sub unit opndB 2
        | none => s.tmmaIssue c x.thr o)

/-- `TFIN` (R120): the accumulator is no longer in use for what follows; its copy is `TFIN_COPY_DONE`. -/
def execTfin (x : Iss) (o : FmtTfin) (s : State) : Out :=
  s.matrixIssue x { word := BitVec.ofNat 32 (encTfin 56 7 x o), legal := o.rm == 0 && o.z == 0 } (fun s =>
    match s.queueRoom x.core.toNat x.thr with
    | .stuck => .stall
    | .trapped s => .gone s
    | .ok s =>
      .done ((s.enqueue x.core.toNat x.thr (.tfin o.acc o.tag false) (fun m => m.unmarkAcc o.acc.toNat)).armTfin
        x.core.toNat))

/-- `TZERO` and `TFREE` zero registers at once when nothing is ahead of them, and behind the queue otherwise; `f` is their
effect on `TIU`. -/
def State.zeroIssue (s : State) (c : Nat) (t : BitVec 2) (tiles : BitVec 8) (accs : BitVec 4) (f : Matrix → Matrix) :
    Res :=
  match s.soft c t with
  | .trapped s => .gone s
  | .stuck => .stall
  | .ok s =>
    if s.engineFree c t then
      .done ((s.modCore c (fun k => { k with mx := f (k.mx.zeroMasks tiles accs) })).afterMatrix c)
    else if (s.core c).mx.queue.length < 8 then .done (s.enqueue c t (.zero tiles accs) f)
    else .stall

/-- Accumulators of a mask marked in use with the types of `TZERO` (R111). -/
def Matrix.markAccs (m : Matrix) (accs types : BitVec 4) : Matrix :=
  (List.range 4).foldl (fun m i => if accs.getLsbD i then m.markAcc i (types.getLsbD i) else m) m

/-- Tiles and accumulators of masks marked not in use (R111). -/
def Matrix.unmarkMasks (m : Matrix) (tiles : BitVec 8) (accs : BitVec 4) : Matrix :=
  let m := (List.range 4).foldl (fun m i => if accs.getLsbD i then m.unmarkAcc i else m) m
  { m with tiu := m.tiu &&& ~~~(tiles.setWidth 64) }

/-- `TZERO` (R111). -/
def execTzero (x : Iss) (o : FmtTzero) (s : State) : Out :=
  s.matrixIssue x { word := BitVec.ofNat 32 (encTzero 56 3 x o), legal := o.rm == 0 && o.z == 0 }
    (fun s => s.zeroIssue x.core.toNat x.thr 0 o.accs (fun m => m.markAccs o.accs o.types))

/-- `TFREE` (R111). -/
def execTfree (x : Iss) (o : FmtTfree) (s : State) : Out :=
  s.matrixIssue x { word := BitVec.ofNat 32 (encTfree 56 4 x o), legal := o.rm == 0 && o.z == 0 }
    (fun s => s.zeroIssue x.core.toNat x.thr o.tiles o.accs (fun m => m.unmarkMasks o.tiles o.accs))

/-! ### `TLD` and `TST` (R121-R123, R126-R128) -/

/-- What issue needs of a matrix memory instruction. -/
def infoCM (minor : Nat) (x : Iss) (o : FmtCM) (legal : Bool) : Info :=
  { word := BitVec.ofNat 32 (encCM 56 minor x o), legal := legal
    uses := [baseReg o.bn, BitVec.ofNat 5 (16 + o.bn.toNat)], base := some (baseReg o.bn, true) }

/-- The tile of a `TLD`, `TST`, `TSLD` or `TSST`; the accumulator of a `TALD` or `TAST` (R121). -/
def cmTile (o : FmtCM) : BitVec 3 := o.vr.setWidth 3
def cmAcc (o : FmtCM) : BitVec 2 := o.vr.setWidth 2

/-- The rows of a `TLD` or `TST` (R121). -/
def State.tileRows (s : State) (x : Iss) (o : FmtCM) : List RowLine :=
  let y := s.thread x.core.toNat x.thr
  rowLines (y.eaCM o) (y.strideCM o) (cfgRows ((s.core x.core.toNat).mx.tcfgOf (cmTile o))) 1

/-- The row with which a `TLD` or `TST` starts, of its rows (R126). -/
def State.firstRow (s : State) (x : Iss) (ls : List RowLine) : List RowLine :=
  (ls.drop (fld (s.core x.core.toNat).mx.trow 0 5)).take 1

/-- `TLD` or `TST` starts: an exception of its first row, where it has one, comes before the row check (R99, R128; DEDUCED,
log 115); then the thread transfers
rows one by one (`TILE_ROW_TRANSFER`), and their access holds one entry of the scoreboard (R217). -/
def State.rowsStart (s : State) (x : Iss) (o : FmtCM) (store : Bool) (ls : List RowLine) : Res :=
  let c := x.core.toNat
  let t := x.thr
  let y := s.thread c t
  let w := (s.core c).mx.tcfgOf (cmTile o)
  match s.resolveLines c (if store then .write else .read) (!y.sup) 64 (s.firstRow x ls) with
  | (s, .error e) => .trap s e
  | (s, .ok _) =>
    if !rowsOk w ∨ cfgRows w ≤ fld (s.core c).mx.trow 0 5 then
      s.shapeFault c t 2 (cmTile o).toNat false (if store then 1 else 0)
    else
      match s.makeRoom c t with
      | .stuck => .stall
      | .trapped s => .gone s
      | .ok s =>
        .wait ((s.modCore c (fun k => k.addLines c t ls 64 store)).modThread c t (fun y =>
          { y with wait := some (.rows (s.core c).mem.nextId store (cmTile o) (y.eaCM o) (y.strideCM o)) }))

/-- `TLD` (R121, R126). -/
def execTld (x : Iss) (o : FmtCM) (s : State) : Out :=
  s.matrixMem x (infoCM 0 x o (o.vr.toNat < 8)) .tld o .read (fun s => s.tileRows x o) (fun s => s.firstRow x (s.tileRows x o))
    (fun m => m.markTile (cmTile o).toNat) (fun s _ => s.rowsStart x o false (s.tileRows x o))

/-- `TST` (R121, R126). -/
def execTst (x : Iss) (o : FmtCM) (s : State) : Out :=
  s.matrixMem x (infoCM 1 x o (o.vr.toNat < 8)) .tst o .write (fun s => s.tileRows x o) (fun s => s.firstRow x (s.tileRows x o))
    id (fun s _ => s.rowsStart x o true (s.tileRows x o))

/-- Row `r` of the tile has been transferred: the next row, or the end of the instruction (R126). -/
def State.rowDone (s : State) (c : Nat) (t : BitVec 2) (id : Nat) (store : Bool) (tile : BitVec 3) (r : Nat) (base stride : W64) :
    State :=
  let w := (s.core c).mx.tcfgOf tile
  if r + 1 < cfgRows w then
    (s.modCore c (fun k => { k with mx := { k.mx with trow := BitVec.ofNat 64 (r + 1) } })).modThread c t
      (fun y => { y with wait := some (.rows id store tile base stride) })
  else
    ((s.modCore c (fun k => { k.dropAcc id with mx := { k.mx with trow := 0 } })).wake c t (fun y => y)).afterMatrix c

/-- A row loaded into a tile, which is then in use (R126). -/
def Matrix.loadRow (m : Matrix) (tile : BitVec 3) (r : Nat) (bs : List Byte) : Matrix :=
  (m.setTile tile (setFld (m.tile tile) (512 * r) 512 (ofLE bs))).markTile tile.toNat

/-- The waiting `TLD` or `TST` raises an exception at its row. -/
def State.rowTrap (s : State) (c : Nat) (t : BitVec 2) (e : Exc) : Out :=
  .next (s.settleRes c t (.trap (s.modCore c (fun k => k.dropLines t)) e))

/-- Row `r` moves (R126): resolved, in order, from or to its place. -/
def State.rowMove (s0 : State) (c : Nat) (t : BitVec 2) (id : Nat) (store : Bool) (tile : BitVec 3) (base stride : W64) (ecc : Ecc) :
    Out :=
  let r := fld (s0.core c).mx.trow 0 5
  let ea := base + BitVec.ofNat 64 r * stride
  match s0.resolveLines c (if store then .write else .read) (!(s0.thread c t).sup) 64 [⟨ea, ea⟩] with
  | (s, .error e) => s.rowTrap c t e
  | (s, .ok ls) =>
    match s.orderLines c t id ls store 64 with
    | .stuck => .next s0
    | .trapped s => .next s
    | .ok s =>
      let s := s.countLines c ls store
      match ls with
      | (_, ⟨.here pa, _, _⟩) :: _ =>
        if store then
          if s.homeUp pa then
            .next ((s.writeLines c t ls [toLE 64 (fld ((s.core c).mx.tile tile) (512 * r) 512)]).rowDone c t id store tile r
              base stride)
          else s.rowTrap c t { code := excAccess, stval := ea }
        else
          let y := s.homeRead pa 64 ecc
          if y.2.2 then (y.1.eccReached c).rowTrap c t { code := excEcc, stval := ea }
          else
            .next ((y.1.modCore c (fun k => { k with mx := k.mx.loadRow tile r y.2.1 })).rowDone c t id store tile r base
              stride)
      | _ =>
        if store then
          .next ((s.writeLines c t ls [toLE 64 (fld ((s.core c).mx.tile tile) (512 * r) 512)]).rowDone c t id store tile r
            base stride)
        else
          .next (s.modThread c t
            (fun y => { y with wait := some (.gather id (.row tile r base stride) [none] (remoteLines 0 ls) 64) }))

/-- `TILE_ROW_TRANSFER` (R126): one row moves, unless an event is taken at the row boundary. A `TLD` or `TST` of the queue,
which its thread does not wait in, moves its rows when its turn has come. -/
def execTileRowTransfer (core : BitVec 10) (thr : BitVec 2) (ecc : Ecc) (s : State) : Out :=
  let c := core.toNat
  match (s.thread c thr).wait with
  | some (.rows id store tile base stride) =>
    if !s.coreRuns c then .next s
    else if s.eventDue c thr && (s.thread c thr).atBoundary then .next ((s.takeEvent c thr).getD s)
    else s.rowMove c thr id store tile base stride ecc
  | _ => .next (if s.coreRuns c then s.kick c else s)

/-! ### Scale registers and accumulators (R121-R123) -/

/-- The scale register of a `TSLD` from its bytes; the accumulator of a `TALD`. -/
def Core.putScales (k : Core) (ts : BitVec 3) (bs : List Byte) : Core :=
  { k with mx := (k.mx.setScales ts (BitVec.ofNat 4096 (ofLE bs))).markTile ts.toNat }
def Core.putAcc (k : Core) (acc : BitVec 2) (int : Bool) (bs : List Byte) : Core :=
  { k with mx := (k.mx.setAcc acc (BitVec.ofNat 32768 (ofLE bs))).markAcc acc.toNat int }

/-- `rows` rows of `per` lines at the addresses of the CM format (R121). -/
def State.cmLines (s : State) (x : Iss) (o : FmtCM) (rows per : Nat) : List RowLine :=
  let y := s.thread x.core.toNat x.thr
  rowLines (y.eaCM o) (y.strideCM o) rows per

/-- `TSLD` (R121). -/
def execTsld (x : Iss) (o : FmtCM) (s : State) : Out :=
  let lines (s : State) := s.cmLines x o 8 1
  s.matrixMem x (infoCM 5 x o (o.vr.toNat < 8)) .tsld o .read lines lines (fun m => m.markTile (cmTile o).toNat) (fun s ls =>
    let c := x.core.toNat
    s.multiRead c x.thr (.tsld (cmTile o)) ls 64
      (fun s bs => .done ((s.modCore c (fun k => k.putScales (cmTile o) bs)).afterMatrix c)))

/-- `TSST` (R121): it marks the paired tile in use (R110). -/
def execTsst (x : Iss) (o : FmtCM) (s : State) : Out :=
  let lines (s : State) := s.cmLines x o 8 1
  s.matrixMem x (infoCM 6 x o (o.vr.toNat < 8)) .tsst o .write lines lines (fun m => m.markTile (cmTile o).toNat) (fun s ls =>
    let c := x.core.toNat
    s.multiWrite c x.thr ls (fun s => cutLines ((s.core c).mx.scales (cmTile o)).toNat 8)
      (fun s => (s.modCore c (fun k => { k with mx := k.mx.markTile (cmTile o).toNat })).afterMatrix c))

/-- `TALD` (R121). -/
def execTald (x : Iss) (o : FmtCM) (s : State) : Out :=
  let lines (s : State) := s.cmLines x o 32 2
  s.matrixMem x (infoCM 8 x o (o.vr.toNat < 8)) .tald o .read lines lines
    (fun m => m.markAcc (cmAcc o).toNat (o.vr.getLsbD 2)) (fun s ls =>
    let c := x.core.toNat
    s.multiRead c x.thr (.tald (cmAcc o) (o.vr.getLsbD 2)) ls 64
      (fun s bs => .done ((s.modCore c (fun k => k.putAcc (cmAcc o) (o.vr.getLsbD 2) bs)).afterMatrix c)))

/-- `TAST` (R121). -/
def execTast (x : Iss) (o : FmtCM) (s : State) : Out :=
  let lines (s : State) := s.cmLines x o 32 2
  s.matrixMem x (infoCM 9 x o (o.vr.toNat < 4)) .tast o .write lines lines id (fun s ls =>
    let c := x.core.toNat
    s.multiWrite c x.thr ls (fun s => cutLines ((s.core c).mx.acc (cmAcc o)).toNat 64) (fun s => s.afterMatrix c))

/-! ### Events -/

/-- `TMMA_COLLECT` (R119). -/
def execTmmaCollect (core : BitVec 10) (ecc : Ecc) (s : State) : Out :=
  .next (if s.coreRuns core.toNat then (s.collect core.toNat ecc).1 else s)

/-- `TMMA_FINISH` (R119, R131). -/
def execTmmaFinish (core : BitVec 10) (mismatch : Bool) (s : State) : Out :=
  .next (if s.coreRuns core.toNat then s.finish core.toNat mismatch else s)

/-- `CHECKSUM_FAIL` (R131). -/
def execChecksumFail (core : BitVec 10) (s : State) : Out :=
  .next (if s.coreRuns core.toNat then s.checksumFails core.toNat else s)

/-- `TFIN_COPY_DONE` (R120). -/
def execTfinCopyDone (core : BitVec 10) (s : State) : Out :=
  .next (if s.coreRuns core.toNat then s.tfinDone core.toNat else s)

end Sys2Proof.Machine
end

