-- ==== Sys2Proof/Machine/Context.lean ====
section
/-!
DEFINITION. The system instructions (R89, R100, R103-R105), and the events that stop and interrupt a thread (R101,
R102).
-/
namespace Sys2Proof.Machine

/-! ### `SYS` group (R89) -/

/-- What issue needs of a `SYS` instruction. -/
def infoS (func : Nat) (x : Iss) (o : FmtS) (priv : Bool) (uses : List (BitVec 5)) (drains : Bool) : Info :=
  { word := BitVec.ofNat 32 (encS 0 func x o), legal := true, priv := priv, uses := uses, drains := drains }

/-- `NOP` (R89). -/
def execSysNop (x : Iss) (o : FmtS) (s : State) : Out := s.issue x (infoS 0 x o false [] false) (fun s => .done s)

/-- `SYSCALL` (R89). -/
def execSyscall (x : Iss) (o : FmtS) (s : State) : Out :=
  s.issue x (infoS 1 x o false [] false) (fun s => .trap s { code := excSyscall, stval := o.imm.setWidth 64 })

/-- `BREAK` (R89). -/
def execBrk (x : Iss) (o : FmtS) (s : State) : Out :=
  s.issue x (infoS 2 x o false [] false) (fun s => .trap s { code := excBreak, stval := o.imm.setWidth 64 })

/-- A return's effect on the thread but for its pc (R100). A repetition that it continues is the `RPT` or `RPTN` that an
exception suspended there (R97; DEDUCED, log 46). -/
def Thread.eret (y : Thread) : Thread :=
  let st := setBit (setBit (setBit y.stat 0 (y.stat.getLsbD 1)) 2 (y.stat.getLsbD 3)) 4 false
  let on := y.rptcnt.getLsbD 44
  { y with
    stat := st, rptOn := on, rptN := on && y.rptSusp.contains y.sepc, rptFrom := y.n + 1, rptBase := none
    rptSusp := if on then y.rptSusp.filter (· != y.sepc) else y.rptSusp }

/-- `ERET` (R100). The spec does not say what a `SEPC` or an `SVEC` whose bits [1:0] are not 0 does: the thread goes on at
that address as it stands (DESIGN CHOICE, log 127). -/
def execEret (x : Iss) (o : FmtS) (s : State) : Out :=
  s.issue x (infoS 3 x o true [] false) (fun s =>
    .jump (s.modThread x.core.toNat x.thr Thread.eret) (s.thread x.core.toNat x.thr).sepc)

/-- `IINV` (R89): the core's instruction cache holds no line afterwards (R17; DEDUCED, log 8). -/
def execIinv (x : Iss) (o : FmtS) (s : State) : Out :=
  s.issue x (infoS 5 x o true [] false) (fun s => .done (s.modCore x.core.toNat (fun k => { k with icache := [] })))

/-! ### The context area (R104-R105) -/

/-- Lines of 64 bytes from 8-byte words. -/
def wordLines (ws : List Nat) : List (List Byte) :=
  (List.range (ws.length / 8)).map (fun i => ((ws.drop (8 * i)).take 8).flatMap (fun w => toLE 8 w))

/-- The scalar part: offsets 0x000 to 0x1FF. -/
def ctxScalar (x : Thread) (ms vs : Bool) : List (List Byte) :=
  wordLines ([1 + 256 * ms.toNat + 512 * vs.toNat, x.pc.toNat, x.stat.toNat, x.srseed.toNat, x.rptcnt.toNat,
    x.swlim.toNat, fld x.pmask 0 32 + fld x.imask 0 16 * 2 ^ 32, x.p.toNat / 2 * 2, x.sepc.toNat, x.scause.toNat,
    x.stval.toNat, fld x.barPend 0 64, fld x.barPend 64 16 + fld x.barPar 64 16 * 2 ^ 16, fld x.barPar 0 64,
    x.svec.toNat, x.sscr.toNat] ++ (List.range 32).map (fun i => (x.getG (BitVec.ofNat 5 i)).toNat) ++
    List.replicate 16 0)

/-- The matrix control part: offsets 0x200 to 0x27F. -/
def ctxMatrix (m : Matrix) : List (List Byte) :=
  wordLines (m.tcfg.toList.map BitVec.toNat ++ [m.tiu.toNat, m.trow.toNat, m.tfault.toNat, 0, 0, 0, 0, 0])

/-- The finished-tile queue record (R152). -/
def ctxFtq (m : Matrix) : Nat :=
  m.ftq.length + (m.ftq.zipIdx.foldl (fun n p =>
    n + (p.1.tag.toNat + 256 * p.1.int.toNat + 512 * p.1.acc.toNat) <<< (32 * (p.2 + 1))) 0) +
    m.ftIn.toNat <<< 192 + m.ftOut.toNat <<< 256

/-- The vector part: offsets 0x280 to 0x22FF. -/
def ctxVector (k : Core) : List (List Byte) :=
  wordLines [k.vx.vl.toNat, 0, 0, 0, 0, 0, 0, 0] ++ cutLines (ctxFtq k.mx) 1 ++
    k.vx.v.toList.flatMap (fun v => cutLines v.toNat 4)

/-- The tiles with their scale registers, then the accumulators, that are in use (R105). -/
def ctxTiles (m : Matrix) : List (List Byte) :=
  ((List.range 8).filter m.tileUsed).flatMap (fun i =>
    cutLines (m.tile (BitVec.ofNat 3 i)).toNat 32 ++ cutLines (m.scales (BitVec.ofNat 3 i)).toNat 8) ++
  ((List.range 4).filter m.accUsed).flatMap (fun i => cutLines (m.acc (BitVec.ofNat 2 i)).toNat 64)

/-- Lines of the tiles and accumulators that a `TIU` marks. -/
def tiuLines (tiu : Nat) : Nat :=
  40 * (List.range 8).countP (fun i => tiu.testBit i) + 64 * (List.range 4).countP (fun i => tiu.testBit (8 + i))

/-- The line numbers of the parts that are saved. -/
def ctxLineNos (ms vs : Bool) (tiu : Nat) : List Nat :=
  List.range 8 ++ (if ms then [8, 9] else []) ++ (if vs then (List.range 130).map (· + 10) else []) ++
    (if ms then (List.range (tiuLines tiu)).map (· + 140) else [])

/-- Lines of the context area at a base. -/
def ctxLines (base : W64) (nos : List Nat) : List RowLine :=
  nos.map (fun i => ⟨base + BitVec.ofNat 64 (64 * i), base + BitVec.ofNat 64 (64 * i)⟩)

/-- The lines of the context area that `CTXLD` reads: all but the finished-tile queue record (R152). -/
def ctxReadNos (ms vs : Bool) (tiu : Nat) : List Nat := (ctxLineNos ms vs tiu).filter (· != 11)

/-- The checks of R103 before the area is moved: the base's alignment, then, in the order of R99, translation of the part
that is always there and the target. -/
def State.ctxCheck (s : State) (c : Nat) (t target : BitVec 2) (base : W64) (need : Need) (f : State → Res) : Res :=
  if base.toNat % 64 ≠ 0 then .trap s { code := excAlign, stval := base }
  else
    let bad := target = t ∨ !(s.ctl c target).stopped
    let target? : Option Exc := if bad then some { code := excAccess, stval := base } else none
    match s.areaExc c need (!(s.thread c t).sup) 64 base target? (ctxLines base (List.range 8)) with
    | (s, some e) => .trap s e
    | (s, none) => f s

/-- Every byte of the area's parts is checked before any moves (R103). -/
def State.ctxBound (s : State) (c : Nat) (t : BitVec 2) (base : W64) (need : Need) (nos : List Nat) (f : State → Res) : Res :=
  match s.areaExc c need (!(s.thread c t).sup) 64 base none (ctxLines base nos) with
  | (s, some e) => .trap s e
  | (s, none) => f s

/-- `CTXSV` (R103-R105). -/
def execCtxsv (x : Iss) (o : FmtS) (s : State) : Out :=
  s.issue x (infoS 6 x o true [o.ra] true) (fun s =>
    let c := x.core.toNat
    let target : BitVec 2 := o.imm.setWidth 2
    let base := (s.thread c x.thr).getG o.ra
    s.ctxCheck c x.thr target base .write (fun s =>
      let k := s.core c
      let ms := k.matrixBound target
      let vs := k.vectorBound target
      let nos := ctxLineNos ms vs k.mx.tiu.toNat
      s.ctxBound c x.thr base .write nos (fun s =>
        s.multiWrite c x.thr (ctxLines base nos)
          (fun s =>
            let k := s.core c
            ctxScalar (s.thread c target) ms vs ++ (if ms then ctxMatrix k.mx else []) ++
              (if vs then ctxVector k else []) ++ (if ms then ctxTiles k.mx else []))
          (fun s => s))))

/-- Word `i` of a byte list. -/
def wordAt (bs : List Byte) (i : Nat) : W64 := BitVec.ofNat 64 (ofLE ((bs.drop (8 * i)).take 8))

/-- The thread that a context's scalar part describes (R104). A saved repetition that is in progress goes on when the thread
runs again, unless the thread was in a handler: then its `ERET` continues it; as the context does not say which it is, no
interrupt is taken in it, which R97 allows of both (DESIGN CHOICE, log 46). -/
def Thread.ofContext (x : Thread) (bs : List Byte) : Thread :=
  let w := wordAt bs
  { x with
    pc := w 1 &&& ~~~3, stat := w 2 &&& 0x7001F
    srseed := if (w 3).setWidth 32 = 0 then 1 else (w 3).setWidth 32
    rptcnt := w 4 &&& 0x1FFFFFFFFFFF, swlim := w 5 &&& 0xFFFFFFFF
    pmask := w 6 &&& 0xFFFFFFFF, imask := BitVec.ofNat 64 (fld (w 6) 32 16)
    p := BitVec.ofNat 8 (fld (w 7) 1 7 * 2)
    sepc := w 8, scause := w 9 &&& 0x1FF, stval := w 10
    barPend := BitVec.ofNat 80 ((w 11).toNat + fld (w 12) 0 16 * 2 ^ 64)
    barPar := BitVec.ofNat 80 ((w 13).toNat + fld (w 12) 16 16 * 2 ^ 64)
    svec := w 14, sscr := w 15
    g := Vector.ofFn (fun i : Fin 32 => if i.val = 0 then 0 else w (16 + i.val))
    loads := [], rptOn := (w 4).getLsbD 44 && !(w 2).getLsbD 4, rptN := (w 4).getLsbD 44 && !(w 2).getLsbD 4
    rptSusp := if (w 4).getLsbD 44 && (w 2).getLsbD 4 then [w 8] else [], rptFrom := x.n + 1
    rptBase := none, wait := none }

/-- The matrix state that a context describes: its control part and its tiles (R104-R105). -/
def Matrix.ofContext (m : Matrix) (ctl : List Byte) (tiles : List Byte) : Matrix :=
  let tiu := wordAt ctl 8 &&& 0xFFFF
  let tiu := BitVec.ofNat 64 (fld tiu 0 12 + (fld tiu 8 4 &&& fld tiu 12 4) * 2 ^ 12)
  let m := { m with
    tcfg := Vector.ofFn (fun i : Fin 8 => wordAt ctl i.val &&& 0xFFFFFF3FFFFF)
    trow := wordAt ctl 9 &&& 0x1F, tfault := wordAt ctl 10 &&& 0xFF7 }
  let st := (List.range 8).foldl (fun (p : Matrix × List Byte) i =>
    let n := BitVec.ofNat 3 i
    if tiu.getLsbD i then
      ((p.1.setTile n (BitVec.ofNat 16384 (ofLE (p.2.take 2048)))).setScales n
        (BitVec.ofNat 4096 (ofLE ((p.2.drop 2048).take 512))), p.2.drop 2560)
    else ((p.1.setTile n 0).setScales n 0, p.2)) (m, tiles)
  let st := (List.range 4).foldl (fun (p : Matrix × List Byte) i =>
    let n := BitVec.ofNat 2 i
    if tiu.getLsbD (8 + i) then (p.1.setAcc n (BitVec.ofNat 32768 (ofLE (p.2.take 4096))), p.2.drop 4096)
    else (p.1.setAcc n 0, p.2)) st
  { st.1 with tiu := tiu }

/-- The vector state that a context describes; the finished-tile queue is not read (R152). -/
def VecEng.ofContext (x : VecEng) (bs : List Byte) : VecEng :=
  { x with
    v := Vector.ofFn (fun i : Fin 32 => BitVec.ofNat 2048 (ofLE ((bs.drop (64 + 256 * i.val)).take 256)))
    vl := BitVec.ofNat 64 (min 512 (fld (wordAt bs 0) 0 10)) }

/-- A loaded context takes effect; `HALTED` is cleared (R103). The spec does not say whether a halted thread whose `RUN` is
still 1 then runs: it stays stopped until `RUN` is written again (DESIGN CHOICE, log 128). -/
def State.ctxPut (s : State) (c : Nat) (target : BitVec 2) (ms vs : Bool) (bs : List Byte) : State :=
  let s := s.modThread c target (fun x => x.ofContext bs)
  let s := s.setCtl c target { s.ctl c target with halted := false }
  let rest := bs.drop 512
  let ctl := if ms then rest.take 128 else []
  let rest := if ms then rest.drop 128 else rest
  let vec := if vs then rest.take 8256 else []
  let tiles := if vs then rest.drop 8256 else rest
  s.modCore c (fun k => { k with
    mx := if ms then k.mx.ofContext ctl tiles else k.mx
    vx := if vs then k.vx.ofContext vec else k.vx })

/-- Parts of the area are read under the entry that `CTXLD` holds for the whole of it. -/
def State.ctxRead (s : State) (c : Nat) (t : BitVec 2) (id : Nat) (kind : GatherKind) (lines : List RowLine)
    (fin : State → List Byte → Res) : Res :=
  match s.resolveLines c .read (!(s.thread c t).sup) 64 lines with
  | (s, .error e) => .trap s e
  | (s, .ok ls) => s.linesRead c t id kind ls 64 fin

/-- The last stage of `CTXLD`: the whole area is read and takes effect. -/
def State.ctxStage2 (s : State) (c : Nat) (t target : BitVec 2) (id : Nat) (base : W64) (ms vs : Bool) (tiu : Nat) : Res :=
  s.ctxBound c t base .read (ctxLineNos ms vs tiu) (fun s =>
    s.ctxRead c t id (.ctxld target base (if ms then 2 else 3) vs tiu) (ctxLines base (ctxReadNos ms vs tiu))
      (fun s bs => .done (s.ctxPut c target ms vs bs)))

/-- The header has been read: the engines that it names must be bound to the target; a saved `TIU` gives the size of
the area (R103, R105). -/
def State.ctxStage1 (s : State) (c : Nat) (t target : BitVec 2) (id : Nat) (base : W64) (bs : List Byte) : Res :=
  let ms := (wordAt bs 0).getLsbD 8
  let vs := (wordAt bs 0).getLsbD 9
  let k := s.core c
  if (ms && !k.matrixBound target) || (vs && !k.vectorBound target) then .trap s { code := excAccess, stval := base }
  else if ms then
    s.ctxRead c t id (.ctxld target base 1 vs 0) (ctxLines base [8, 9])
      (fun s bs => s.ctxStage2 c t target id base ms vs (fld (wordAt bs 8) 0 12))
  else s.ctxStage2 c t target id base ms vs 0

/-- `CTXLD` (R103-R105). From its issue to its last byte it holds one entry of the scoreboard, over the largest area that it
may read, as its size is not known before the area has been read (R217; DESIGN CHOICE, log 133). -/
def execCtxld (x : Iss) (o : FmtS) (s : State) : Out :=
  s.issue x (infoS 7 x o true [o.ra] true) (fun s =>
    let c := x.core.toNat
    let target : BitVec 2 := o.imm.setWidth 2
    let base := (s.thread c x.thr).getG o.ra
    s.ctxCheck c x.thr target base .read (fun s =>
      match s.makeRoom c x.thr with
      | .stuck => .stall
      | .trapped s => .gone s
      | .ok s =>
        let id := (s.core c).mem.nextId
        endAcc c id ((s.modCore c (fun k => k.addLines c x.thr (ctxLines base (List.range 716)) 64 false)).ctxRead c x.thr id
          (.ctxld target base 0 false 0) (ctxLines base (List.range 8)) (fun s bs => s.ctxStage1 c x.thr target id base bs))))

/-! ### Events (R101-R102) -/

/-- `THREAD_STOP` (R102): a requested stop is taken at a boundary, or at once where the thread waits. -/
def execThreadStop (core : BitVec 10) (thr : BitVec 2) (s : State) : Out :=
  let c := core.toNat
  let x := s.thread c thr
  if s.coreRuns c && (s.ctl c thr).stopReq && (x.atBoundary || x.waitsOpen) then
    match s.cancelWait c thr with
    | some s' => .next ((s'.takeStop c thr).getD s)
    | none => .next s
  else .next s

/-- `INTERRUPT_ENTRY` (R101): the pending interrupt of the highest code is taken at a boundary. -/
def execInterruptEntry (core : BitVec 10) (thr : BitVec 2) (s : State) : Out :=
  let c := core.toNat
  if s.coreRuns c && !(s.ctl c thr).stopped && s.pendingInts c thr != 0 && (s.thread c thr).atBoundary then
    match s.cancelWait c thr with
    | some s' => .next (((s'.unblock c thr).raise c thr { code := 0x10 + highBit (s.pendingInts c thr), stval := 0 }).getD s)
    | none => .next s
  else .next s

end Sys2Proof.Machine
end

