-- ==== Sys2Proof/Machine/Vector.lean ====
section
/-!
DEFINITION. The vector instructions (R135-R154). Each runs where nothing of the engine is ahead of it, and else waits in
the engine's queue (R138).
-/
namespace Sys2Proof.Machine

/-- The effect of a vector instruction `n` of thread `t`, or its exception: it ends, and retires when it may (R98). -/
def vecRes (c : Nat) (t : BitVec 2) (n : Nat) (old : VecEng) : Res → Res
  | .done s => .done (s.vecEnd c t n old none)
  | r => r

/-- Issue of a vector instruction on the given lines of memory: `ACCESS` with `STVAL` = 57 where the thread is not bound
(R83, R99). `now` is what it does where nothing of the engine is ahead of it, and `later` where something is (R138). -/
def State.vectorMem (s : State) (x : Iss) (i : Info) (need : Need) (lines : State → List RowLine)
    (now : State → List RowLine → Res) (later : State → Res) : Out :=
  s.issue x i (fun s =>
    let c := x.core.toNat
    if (s.core c).vectorBound x.thr then
      match s.soft c x.thr with
      | .trapped s => .gone s
      | .stuck => .stall
      | .ok s =>
        if (s.core c).vx.queue.isEmpty then vecRes c x.thr (s.thread c x.thr).n (s.vx c) (now s (lines s)) else later s
    else s.unbound c x.thr 57 need (lines s))

/-- Issue of a vector instruction that writes a general register or `VL`: it waits for the engine (R139). -/
def State.vectorIssue (s : State) (x : Iss) (i : Info) (f : State → Res) : Out :=
  s.vectorMem x i .read (fun _ => []) (fun s _ => f s) (fun _ => .stall)

/-- A vector instruction enters the queue of 8, of which a ninth finds no room (R138), with the `VL` and the generator of its
issue; the thread's generator moves on by its draws, which do not depend on the registers (R67, R68). -/
def State.vecQueue (s : State) (c : Nat) (t : BitVec 2) (q : VKind) : Res :=
  if 8 ≤ (s.core c).vx.queue.length then .stall
  else
    let y := s.thread c t
    let seed := ((s.vecFn c t q).thread c t).srseed
    .done ((s.modCore c (fun k => { k with vx := { k.vx with
      queue := k.vx.queue ++ [⟨t, y.n, q, k.vx.vl, y.srseed, y⟩] } })).modThread c t (fun z => { z with srseed := seed }))

/-- Issue of a vector instruction `q` that stands in the queue where it must wait (R138). `bad` is an exception that it
raises (R136). -/
def State.vectorOp (s : State) (x : Iss) (i : Info) (bad : Option Exc) (q : State → VKind) : Out :=
  let c := x.core.toNat
  s.vectorMem x i .read (fun _ => [])
    (fun s _ => match bad with | some e => .trap s e | none => .done (s.vecFn c x.thr (q s)))
    (fun s => match bad with | some e => .trap s e | none => s.vecQueue c x.thr (q s))

/-- A reserved type code raises `TILE_FMT` (R136). -/
def fmtExc (ty : BitVec 4) (word : Nat) : Option Exc :=
  if 11 ≤ ty.toNat then some { code := excFmt, stval := BitVec.ofNat 64 word } else none

/-! ### `VLD` and `VST` (R140) -/

/-- What issue needs of `VLD` and `VST`. -/
def infoVM (minor : Nat) (x : Iss) (o : FmtCM) : Info :=
  { word := BitVec.ofNat 32 (encCM 57 minor x o), legal := true
    uses := [baseReg o.bn, BitVec.ofNat 5 (16 + o.bn.toNat)], base := some (baseReg o.bn, true) }

/-- `VLD` or `VST` enters the queue, with an entry of the scoreboard for its rows (R138, R217). -/
def State.vecMemQueue (s : State) (x : Iss) (o : FmtCM) (store : Bool) : Res :=
  let c := x.core.toNat
  match s.makeRoom c x.thr with
  | .stuck => .stall
  | .trapped s => .gone s
  | .ok s =>
    let y := s.thread c x.thr
    let id := (s.core c).mem.nextId
    (s.modCore c (fun k => k.addLines c x.thr (s.cmLines x o 4 1) 64 store)).vecQueue c x.thr
      (if store then .vst id o.vr (y.eaCM o) (y.strideCM o) else .vld id o.vr (y.eaCM o) (y.strideCM o))

/-- A `VST` while something before it may still raise an exception: its register is read, and its rows are written later
(R98, R140). -/
def State.vstLater (s : State) (x : Iss) (o : FmtCM) (lines : List RowLine) : Res :=
  let c := x.core.toNat
  match s.resolveLines c .write (!(s.thread c x.thr).sup) 64 lines with
  | (s, .error e) => .trap s e
  | (s, .ok ls) =>
    match s.makeRoom c x.thr with
    | .stuck => .stall
    | .trapped s => .gone s
    | .ok s =>
      .done ((s.modCore c (fun k => k.addLines c x.thr lines 64 true)).vstGo c (s.core c).mem.nextId ls
        ((s.vx c).get o.vr))

/-- `VLD` (R140). -/
def execVld (x : Iss) (o : FmtCM) (s : State) : Out :=
  s.vectorMem x (infoVM 0 x o) .read (fun s => s.cmLines x o 4 1)
    (fun s ls => s.multiRead x.core.toNat x.thr (.vld o.vr) ls 64
      (fun s bs => .done (s.setV x.core.toNat o.vr (BitVec.ofNat 2048 (ofLE bs)))))
    (fun s => s.vecMemQueue x o false)

/-- `VST` (R140). -/
def execVst (x : Iss) (o : FmtCM) (s : State) : Out :=
  let c := x.core.toNat
  s.vectorMem x (infoVM 1 x o) .write (fun s => s.cmLines x o 4 1)
    (fun s ls =>
      if (s.core c).unsettled x.thr (s.thread c x.thr).n then s.vstLater x o ls
      else s.multiWrite c x.thr ls (fun s => cutLines ((s.vx c).get o.vr).toNat 4) (fun s => s))
    (fun s => s.vecMemQueue x o true)

/-! ### `VARITH` (R143) -/

/-- A `VARITH` operation. -/
def State.varith (s : State) (x : Iss) (o : FmtVar) (op : VarOp) : Out :=
  s.vectorOp x
    { word := BitVec.ofNat 32 (encVar 57 2 op.num x o)
      legal := o.rm != 3 && !(op == .fms && o.int) && (!op.three || (o.va.toNat % 2 == 0 && o.va.toNat ≤ 30)) }
    none (fun _ => .arith op o)

/-- `VARITH ADD` (R143). -/
def execVarithAdd (x : Iss) (o : FmtVar) (s : State) : Out := s.varith x o .add

/-- `VARITH SUB` (R143). -/
def execVarithSub (x : Iss) (o : FmtVar) (s : State) : Out := s.varith x o .sub

/-- `VARITH MUL` (R143). -/
def execVarithMul (x : Iss) (o : FmtVar) (s : State) : Out := s.varith x o .mul

/-- `VARITH MIN` (R143). -/
def execVarithMin (x : Iss) (o : FmtVar) (s : State) : Out := s.varith x o .min

/-- `VARITH MAX` (R143). -/
def execVarithMax (x : Iss) (o : FmtVar) (s : State) : Out := s.varith x o .max

/-- `VARITH FMA` (R143). -/
def execVarithFma (x : Iss) (o : FmtVar) (s : State) : Out := s.varith x o .fma

/-- `VARITH FMS` (R143). -/
def execVarithFms (x : Iss) (o : FmtVar) (s : State) : Out := s.varith x o .fms

/-- `VARITH ABS` (R143). -/
def execVarithAbs (x : Iss) (o : FmtVar) (s : State) : Out := s.varith x o .abs

/-- `VARITH NEG` (R143). -/
def execVarithNeg (x : Iss) (o : FmtVar) (s : State) : Out := s.varith x o .neg

/-! ### `VCMP`, `VBIT`, `VPERM` (R144-R145) -/

/-- `VCMP` (R144). -/
def execVcmp (x : Iss) (o : FmtVcmp) (s : State) : Out :=
  s.vectorOp x
    { word := BitVec.ofNat 32 (encVcmp 57 3 x o), legal := o.rm == 0 && o.z == 0 && o.cond != 7 }
    none (fun _ => .cmp o)

/-- A `VBIT` operation. -/
def State.vbit (s : State) (x : Iss) (o : FmtVV) (op : Nat) : Out :=
  s.vectorOp x
    { word := BitVec.ofNat 32 (encVV 57 11 op x o)
      legal := o.rm == 0 && o.z == 0 && (op != 7 || (o.va.toNat % 2 == 0 && o.va.toNat ≤ 30)) }
    none (fun _ => .bit op o)

/-- `VBIT AND` (R145). -/
def execVbitAnd (x : Iss) (o : FmtVV) (s : State) : Out := s.vbit x o 0

/-- `VBIT OR` (R145). -/
def execVbitOr (x : Iss) (o : FmtVV) (s : State) : Out := s.vbit x o 1

/-- `VBIT XOR` (R145). -/
def execVbitXor (x : Iss) (o : FmtVV) (s : State) : Out := s.vbit x o 2

/-- `VBIT ANDN` (R145). -/
def execVbitAndn (x : Iss) (o : FmtVV) (s : State) : Out := s.vbit x o 3

/-- `VBIT SLL` (R145). -/
def execVbitSll (x : Iss) (o : FmtVV) (s : State) : Out := s.vbit x o 4

/-- `VBIT SRL` (R145). -/
def execVbitSrl (x : Iss) (o : FmtVV) (s : State) : Out := s.vbit x o 5

/-- `VBIT SRA` (R145). -/
def execVbitSra (x : Iss) (o : FmtVV) (s : State) : Out := s.vbit x o 6

/-- `VBIT SEL` (R145). -/
def execVbitSel (x : Iss) (o : FmtVV) (s : State) : Out := s.vbit x o 7

/-- `VBIT MOV` (R145). -/
def execVbitMov (x : Iss) (o : FmtVV) (s : State) : Out := s.vbit x o 8

/-- `VPERM` (R145). -/
def execVperm (x : Iss) (o : FmtVperm) (s : State) : Out :=
  s.vectorOp x { word := BitVec.ofNat 32 (encVperm 57 7 x o), legal := o.rm == 0 && o.z == 0 } none (fun _ => .perm o)

/-! ### `VRED` (R146) -/

/-- A `VRED` operation; it never draws. The spec leaves rm = 0b01 of the `INT32` `SUM` open; it raises `UNDEF` here (R146;
DESIGN CHOICE, log 111). -/
def State.vred (s : State) (x : Iss) (o : FmtVred) (op : RedOp) : Out :=
  s.vectorOp x
    { word := BitVec.ofNat 32 (encVred 57 6 op.num x o)
      legal := (o.rm == 0 || (op == .sum && o.rm == 1)) && o.z == 0 }
    none (fun _ => .red op o)

/-- `VRED SUM` (R146). -/
def execVredSum (x : Iss) (o : FmtVred) (s : State) : Out := s.vred x o .sum

/-- `VRED MAX` (R146). -/
def execVredMax (x : Iss) (o : FmtVred) (s : State) : Out := s.vred x o .max

/-- `VRED MIN` (R146). -/
def execVredMin (x : Iss) (o : FmtVred) (s : State) : Out := s.vred x o .min

/-- `VRED ARGMAX` (R146). -/
def execVredArgmax (x : Iss) (o : FmtVred) (s : State) : Out := s.vred x o .argmax

/-- `VRED SUM` on INT32 (R146). -/
def execVredIntSum (x : Iss) (o : FmtVred) (s : State) : Out := s.vred x o .intSum

/-- `VRED MAX` on INT32 (R146). -/
def execVredIntMax (x : Iss) (o : FmtVred) (s : State) : Out := s.vred x o .intMax

/-- `VRED MIN` on INT32 (R146). -/
def execVredIntMin (x : Iss) (o : FmtVred) (s : State) : Out := s.vred x o .intMin

/-! ### `VSF` (R147) -/

/-- A `VSF` function. -/
def State.vsf (s : State) (x : Iss) (o : FmtVV) (op : SfOp) : Out :=
  s.vectorOp x
    { word := BitVec.ofNat 32 (encVV 57 5 op.num x o)
      legal := (o.rm == 0 || (op.rounds && o.rm != 3)) && o.z == 0 }
    none (fun _ => .sf op o)

/-- `VSF EXP` (R147). -/
def execVsfExp (x : Iss) (o : FmtVV) (s : State) : Out := s.vsf x o .exp

/-- `VSF EXP2` (R147). -/
def execVsfExp2 (x : Iss) (o : FmtVV) (s : State) : Out := s.vsf x o .exp2

/-- `VSF LOG` (R147). -/
def execVsfLog (x : Iss) (o : FmtVV) (s : State) : Out := s.vsf x o .log

/-- `VSF LOG2` (R147). -/
def execVsfLog2 (x : Iss) (o : FmtVV) (s : State) : Out := s.vsf x o .log2

/-- `VSF RCP` (R147). -/
def execVsfRcp (x : Iss) (o : FmtVV) (s : State) : Out := s.vsf x o .rcp

/-- `VSF SQRT` (R147). -/
def execVsfSqrt (x : Iss) (o : FmtVV) (s : State) : Out := s.vsf x o .sqrt

/-- `VSF RSQRT` (R147). -/
def execVsfRsqrt (x : Iss) (o : FmtVV) (s : State) : Out := s.vsf x o .rsqrt

/-- `VSF TANH` (R147). -/
def execVsfTanh (x : Iss) (o : FmtVV) (s : State) : Out := s.vsf x o .tanh

/-- `VSF SIGMOID` (R147). -/
def execVsfSigmoid (x : Iss) (o : FmtVV) (s : State) : Out := s.vsf x o .sigmoid

/-- `VSF ERF` (R147). -/
def execVsfErf (x : Iss) (o : FmtVV) (s : State) : Out := s.vsf x o .erf

/-- `VSF SIN` (R147). -/
def execVsfSin (x : Iss) (o : FmtVV) (s : State) : Out := s.vsf x o .sin

/-- `VSF COS` (R147). -/
def execVsfCos (x : Iss) (o : FmtVV) (s : State) : Out := s.vsf x o .cos

/-! ### `VCVT` (R148-R149) -/

/-- Fields that raise `UNDEF` in every `VCVT` (R148): FP32 as the narrow type, X with INT32, a group past `v31`, a
missing scale register. -/
def cvtLegal (o : FmtVcvt) (narrow : Bool) : Bool :=
  let t := o.ty.toNat
  let g := if narrow then o.va.toNat else o.vd.toNat
  let r := if narrow then o.vd.toNat else o.va.toNat
  o.rm != 3 && t != 9 && !(t == 10 && o.xf) && (11 ≤ t || g + cvtGroup t ≤ 32) && (!cvtScaled t o.xf || r ≤ 30)

/-- `VCVT` narrowing (R148). -/
def execVcvtNarrow (x : Iss) (o : FmtVcvt) (s : State) : Out :=
  let word := encVcvt 57 4 0 x o
  s.vectorOp x { word := BitVec.ofNat 32 word, legal := cvtLegal o true } (fmtExc o.ty word) (fun _ => .narrow o)

/-- `VCVT` widening (R148). -/
def execVcvtWiden (x : Iss) (o : FmtVcvt) (s : State) : Out :=
  let word := encVcvt 57 4 1 x o
  s.vectorOp x { word := BitVec.ofNat 32 word, legal := cvtLegal o false } (fmtExc o.ty word) (fun _ => .widen o)

/-! ### `VMOVT` (R141) -/

/-- The fields of `VMOVT` are legal. -/
def vmovtLegal (o : FmtVmovt) (toVector : Bool) : Bool :=
  let g := o.grp.toNat
  o.rm == 0 &&
    (match o.kind.toNat with
      | 0 => g ≤ 7
      | 1 => g ≤ 1
      | 2 => g ≤ 15 && !(toVector && o.unit.getLsbD 2)
      | _ => false)

/-- A `VMOVT` takes its place in both engines' queues (R118, R138, R141); what it writes is in use from then on (R110). -/
def State.vmovtQueue (s : State) (c : Nat) (t : BitVec 2) (o : FmtVmovt) (toVector : Bool) : Res :=
  match s.queueRoom c t with
  | .stuck => .stall
  | .trapped s => .gone s
  | .ok s =>
    match s.vecQueue c t (.movt toVector o) with
    | .done s => .done (s.enqueue c t .movt (fun m => if toVector then m else m.markUnit o))
    | r => r

/-- A `VMOVT` of a thread that is bound to both engines. It waits for what they still hold, which it never overtakes, in
their queues (R118, R138, R141). -/
def State.vmovt (s : State) (x : Iss) (o : FmtVmovt) (dir : Nat) (toVector : Bool) : Out :=
  let c := x.core.toNat
  let access : Exc := { code := excAccess, stval := 56 }
  s.issue x { word := BitVec.ofNat 32 (encVmovt 57 8 dir x o), legal := vmovtLegal o toVector } (fun s =>
    if !(s.core c).vectorBound x.thr then s.unbound c x.thr 57 .read []
    else if !(s.core c).matrixBound x.thr then .trap s access
    else
      match s.soft c x.thr with
      | .trapped s => .gone s
      | .stuck => .stall
      | .ok s =>
        if s.engineFree c x.thr then
          vecRes c x.thr (s.thread c x.thr).n (s.vx c) (.done (s.vecFn c x.thr (.movt toVector o)))
        else s.vmovtQueue c x.thr o toVector)

/-- `VMOVT` to the matrix registers (R141). -/
def execVmovtToMatrix (x : Iss) (o : FmtVmovt) (s : State) : Out := s.vmovt x o 0 false

/-- `VMOVT` to the vector registers (R141). -/
def execVmovtToVector (x : Iss) (o : FmtVmovt) (s : State) : Out := s.vmovt x o 1 true

/-! ### `VFTQ` (R151) -/

/-- The locator of the entry whose data fail their code, of what the hardware finds at an instruction. -/
def badEntry (x : Iss) : Option W64 := match x.hw with | .regFile loc => some loc | _ => none

/-- `VFTQ READ` and `POP` wait until the queue has an entry and the vector engine nothing ahead of them, and are served at
once where both hold (R138, R151). -/
def State.vftqWait (s : State) (x : Iss) (word : Nat) (legal : Bool) (w : Wait) : Out :=
  s.issue x { word := BitVec.ofNat 32 word, legal := legal } (fun s =>
    let c := x.core.toNat
    if (s.core c).vectorBound x.thr then
      match s.soft c x.thr with
      | .trapped s => .gone s
      | .stuck => .stall
      | .ok s => .gone ((s.modThread c x.thr (fun y => { y with wait := some w })).ftqServe c x.thr)
    else s.unbound c x.thr 57 .read [])

/-- `VFTQ READ` (R151). -/
def execVftqRead (x : Iss) (o : FmtVftq) (s : State) : Out :=
  s.vftqWait x (encVftq 57 9 0 x o) (o.rm == 0 && o.z == 0) (.vftqRead o.r o.g (badEntry x))

/-- `VFTQ POP` (R151). -/
def execVftqPop (x : Iss) (o : FmtVftq) (s : State) : Out :=
  s.vftqWait x (encVftq 57 9 1 x o) (o.rm == 0 && o.z == 0 && o.r == 0 && o.g == 0) .vftqPop

/-- The word of `VFTQ STAT` (R151). -/
def ftqStat (q : List FtEntry) : W64 :=
  BitVec.ofNat 64 ((match q with
    | e :: _ => e.tag.toNat + 256 * e.int.toNat + 512 * e.acc.toNat
    | [] => 0) + 4096 * q.length)

/-- `VFTQ STAT` (R151). -/
def execVftqStat (x : Iss) (o : FmtVftq) (s : State) : Out :=
  s.vectorIssue x
    { word := BitVec.ofNat 32 (encVftq 57 9 2 x o), legal := o.rm == 0 && o.z == 0 && o.g == 0, uses := [o.r] }
    (fun s => .done (s.modThread x.core.toNat x.thr (fun y => y.setG o.r (ftqStat (s.core x.core.toNat).mx.ftq))))

/-! ### `VSETVL` (R137) and `VMOVG` (R142) -/

/-- `VSETVL` (R137). -/
def execVsetvl (x : Iss) (o : FmtVsetvl) (s : State) : Out :=
  s.vectorIssue x
    { word := BitVec.ofNat 32 (encVsetvl 57 10 x o), legal := o.rm == 0 && o.z == 0, uses := [o.gd, o.ga] } (fun s =>
    let c := x.core.toNat
    match fmtExc o.ty (encVsetvl 57 10 x o) with
    | some e => .trap s e
    | none =>
      let n := min ((s.thread c x.thr).getG o.ga).toNat (tyCap o.ty.toNat)
      .done ((s.modCore c (fun k => { k with vx := { k.vx with vl := BitVec.ofNat 64 n } })).modThread c x.thr
        (fun y => y.setG o.gd (BitVec.ofNat 64 n))))

/-- A `VMOVG` operation that writes a general register. -/
def State.vmovg (s : State) (x : Iss) (o : FmtVmovg) (op : Nat) (f : State → State) : Out :=
  s.vectorIssue x
    { word := BitVec.ofNat 32 (encVmovg 57 12 op x o), legal := o.rm == 0 && o.z == 0, uses := [o.g] }
    (fun s => .done (f s))

/-- `VMOVG BCAST` (R142). -/
def execVmovgBcast (x : Iss) (o : FmtVmovg) (s : State) : Out :=
  s.vectorOp x { word := BitVec.ofNat 32 (encVmovg 57 12 0 x o), legal := o.rm == 0 && o.z == 0, uses := [o.g] }
    none (fun s => .bcast o.v (((s.thread x.core.toNat x.thr).getG o.g).setWidth 32))

/-- `VMOVG GET0` (R142). -/
def execVmovgGet0 (x : Iss) (o : FmtVmovg) (s : State) : Out :=
  s.vmovg x o 1 (fun s => s.modThread x.core.toNat x.thr (fun y =>
    y.setG o.g ((lane ((s.vx x.core.toNat).get o.v) 0).setWidth 64)))

/-- `VMOVG GET` (R142). -/
def execVmovgGet (x : Iss) (o : FmtVmovg) (s : State) : Out :=
  s.vmovg x o 2 (fun s => s.modThread x.core.toNat x.thr (fun y =>
    y.setG o.g ((lane ((s.vx x.core.toNat).get o.v) ((y.getG o.g).toNat % 64)).setWidth 64)))

end Sys2Proof.Machine
end

