-- ==== Sys2Proof/Machine/Answers.lean ====
section
/-!
DEFINITION. Answers to this device's requests to others (R368-R370, R373): what each does at its origin.
-/
namespace Sys2Proof.Machine

/-! ### Multi-row reads with lines of another device (R217, R368) -/

/-- Every line of a multi-row read has arrived: what the instruction comes to; `id` is its number in the core's issue
order. -/
def State.gatherEnd (s : State) (c : Nat) (t : BitVec 2) (id : Nat) (ls : List (List Byte)) : GatherKind → Res
  | .vld vr => .done ((s.setV c vr (BitVec.ofNat 2048 (ofLE ls.flatten))).vecDone c)
  | .tsld ts => .done ((s.modCore c (fun k => k.putScales ts ls.flatten)).afterMatrix c)
  | .tald acc int => .done ((s.modCore c (fun k => k.putAcc acc int ls.flatten)).afterMatrix c)
  | .row tile r base stride =>
    .gone ((s.modCore c (fun k => { k with mx := k.mx.loadRow tile r ls.flatten })).rowDone c t id false tile r base stride)
  | .ctxld target base stage vs _ =>
    match stage with
    | 0 => s.ctxStage1 c t target id base ls.flatten
    | 1 => s.ctxStage2 c t target id base true vs (fld (wordAt ls.flatten 8) 0 12)
    | 2 => .done (s.ctxPut c target true vs ls.flatten)
    | _ => .done (s.ctxPut c target false vs ls.flatten)
  | .sdesc ch list _ => s.postCheck c t ch list id ls

/-- The `SDESC`s that wait behind a list read act, once it has ended. -/
def State.afterGather (s : State) (c : Nat) : GatherKind → State
  | .sdesc ch _ _ => s.sdescServe c ch 4
  | _ => s

/-- A thread's multi-row read whose lines have all arrived ends, where nothing keeps its end back; the rows of a `TLD`, and a
`CTXLD` until its last stage, keep their entry (R217). -/
def State.gatherTry (s : State) (c : Nat) (t : BitVec 2) : State :=
  match (s.thread c t).wait with
  | some (.gather id kind ls [] _) =>
    if ls.all Option.isSome then
      let s1 := s.modThread c t (fun x => { x with wait := none })
      match s1.gatherEnd c t id (ls.map (fun b => b.getD [])) kind with
      | .stall => s
      | r => (s1.settleRes c t (endAcc c id r)).afterGather c kind
    else s
  | _ => s

/-- Line `i` of a thread's multi-row read has arrived. -/
def State.gatherLine (s : State) (c : Nat) (t : BitVec 2) (i : Nat) (bs : List Byte) : State :=
  match (s.thread c t).wait with
  | some (.gather id kind ls todo len) =>
    (s.modThread c t (fun x => { x with wait := some (.gather id kind (ls.set i (some bs)) todo len) })).gatherTry c t
  | _ => s

/-- A line's request has failed: the exception is at the instruction, and its other lines are forgotten. An uncorrectable
line of a descriptor list counts after the checks of its other lines (R99, R160). -/
def State.gatherFail (s : State) (c : Nat) (t : BitVec 2) (i code : Nat) (addr : W64) : State :=
  match (s.thread c t).wait with
  | some (.gather _ kind _ _ _) =>
    match kind, code == excEcc with
    | .sdesc _ _ _, true => s.gatherLine c t i []
    | _, _ =>
      let s := { s with remReqs := s.remReqs.filter (fun q => match q.org with | .line d u _ => !(d == c && u == t) | _ => true) }
      let s := s.modCore c (fun k => k.dropLines t)
      let stval := match kind with | .sdesc _ list _ => list | _ => addr
      (s.settleRes c t (.trap s { code := code, stval := stval })).afterGather c kind
  | _ => s

/-- Line `i` of a read that the instruction at the head of an engine's queue makes has arrived. -/
def State.engineLine (s : State) (c : Nat) (vec : Bool) (id i : Nat) (bs : List Byte) : State :=
  match (s.core c).gath vec with
  | some g => if g.id = id then s.modCore c (fun k => k.setGath vec (some { g with lines := g.lines.set i (some bs) })) else s
  | none => s

/-- A line's request of that instruction has failed: its exception is raised when it is its turn (R98), and no further line is
asked for. -/
def State.engineFail (s : State) (c : Nat) (vec : Bool) (id code : Nat) (addr : W64) : State :=
  match (s.core c).gath vec, (s.core c).acc? id with
  | some g, some a =>
    if g.id = id then
      s.modCore c (fun k => (k.setGath vec (some { g with todo := [] })).setAcc { a with
        err := some (a.err.getD (code, addr)) })
    else s
  | _, _ => s

/-- What waits in core `c` for its own earlier work goes on where that has ended: the engines, exceptions, multi-row reads,
`SDESC`s and reads of the finished-tile queue. -/
def State.poke (s : State) (c : Nat) : State :=
  let s := s.kick c
  let s := ([0, 1, 2, 3] : List (BitVec 2)).foldl (fun (s : State) t => (s.trapServe c t).gatherTry c t) s
  let s := ((List.range 8).map (BitVec.ofNat 3)).foldl (fun (s : State) ch => s.sdescServe c ch 4) s
  s.ftqServeAll c

/-! ### Errors (R369) -/

/-- `PORTDOWN`, `TIMEOUT`, `POISON` and the other codes of R369. -/
def errAbsent : BitVec 4 := 1
def errPerm : BitVec 4 := 2
def errNoroute : BitVec 4 := 3
def errPortdown : BitVec 4 := 4
def errTimeout : BitVec 4 := 5
def errPoison : BitVec 4 := 6
def errNotrun : BitVec 4 := 7

/-- The exception that an error answer makes. -/
def errExc (code : BitVec 4) : Nat := if code = errPoison then excEcc else excAccess

/-- The core of a request. -/
def RemOrigin.core : RemOrigin → Nat
  | .acc c _ | .line c _ _ | .eline c _ _ _ | .poll c _ | .write c _ | .send c _ | .chanRead c _ | .chanWrite c _ _
  | .chanEntry c _ _ | .chanOld c _ _ _ | .post c _ _ => c

/-- An error answer is logged with its code and address (R369, R420). Its count is that of source 16. -/
def State.errAnswer (s : State) (q : RemReq) (code : BitVec 4) : State :=
  (s.countErr 16 true).errLog ⟨16, 1, s.partOf q.org.core, code.toNat, some q.org.core, (s.orgThr q.org).toNat, q.addr, 0⟩

/-! ### Single accesses -/

/-- A read of this device by `a` has been answered with bytes (R222, R368): the line for a plain load. -/
def State.accData (s : State) (c : Nat) (a : Acc) (bs : List Byte) : State :=
  let done (s : State) (a : Acc) : State :=
    let s := s.modCore c (fun k => k.setAcc a)
    (s.complete c a).1
  match a.kind with
  | .load _ size signed plain _ =>
    let v := ofLE (if plain then (bs.drop (lineOff a.place)).take size else bs.take size)
    done s { a with
      performed := true
      line := if plain then some (BitVec.ofNat 512 (ofLE (bs.take 64))) else none
      val := if signed then sext (8 * size) v else BitVec.ofNat 64 v }
  | .amo .. =>
    done (s.modCore c (fun k => k.invalidate (touches a.place a.len)))
      { a with performed := true, val := BitVec.ofNat 64 (ofLE bs) }
  | .waitm => done s { a with performed := true, val := BitVec.ofNat 64 (ofLE (bs.take 8)) }
  | _ => s

/-- An access has been answered with an error: its exception, once it is its turn (R98). It breaks no condition (R415). -/
def State.accErr (s : State) (c : Nat) (a : Acc) (code : Nat) : State :=
  let s := s.modCore c (fun k => k.setAcc { a with performed := true, err := some (code, a.ea) })
  match (s.core c).acc? a.id with
  | some a => (s.complete c a).1
  | none => s

/-! ### The answer -/

/-- The answer is one that the request can have. -/
def RemOrigin.takes (o : RemOrigin) (ans : RemAns) : Bool :=
  match ans, o with
  | .err _, _ => true
  | .data _, .acc .. => true
  | .data _, .line .. => true
  | .data _, .eline .. => true
  | .data _, .poll .. => true
  | .data _, .chanRead .. => true
  | .data _, .chanEntry .. => true
  | .data _, .chanOld _ _ _ read => read
  | .ack, .chanOld _ _ _ read => !read
  | .answer _, .chanOld _ _ _ read => !read
  | .ack, .write .. => true
  | .ack, .chanWrite .. => true
  | .answer _, .send .. => true
  | .answer _, .post .. => true
  | _, _ => false

/-- An error ends a request. -/
def State.answerErr (s : State) (q : RemReq) (code : BitVec 4) : State :=
  let x := errExc code
  match q.org with
  | .acc c id =>
    let s := (s.errAnswer q code).modCore c (fun k => { k with mem := { k.mem with remOut := k.mem.remOut.filter (fun w => w.id != q.id) } })
    match (s.core c).acc? id with
    | some a => s.accErr c a x
    | none => s
  | .line c t i => (s.errAnswer q code).gatherFail c t i x q.addr
  | .eline c vec id _ => (s.errAnswer q code).engineFail c vec id x q.addr
  | .poll c t =>
    let s := s.errAnswer q code
    s.settleRes c t (.trap s { code := x, stval := q.addr })
  | .write c t => (s.errAnswer q code).remoteFailed c t q.id q.addr
  | .send c t =>
    match (s.thread c t).wait with
    | some (.send h _ _ _ _) =>
      let s := s.errAnswer q code
      s.settleRes c t (.trap s { code := x, stval := h })
    | _ => s
  | .chanRead c ch => (s.errAnswer q code).chanError c ch x false q.addr
  | .chanEntry c ch dst => (s.errAnswer q code).chanError c ch x dst q.addr
  | .chanWrite c ch _ => ((s.errAnswer q code).chanAnswered c ch).chanError c ch x true q.addr
  | .chanOld c ch counts _ => if counts then (s.errAnswer q code).oldAnswered c ch else s.errAnswer q code
  | .post c ch _ => ((s.errAnswer q code).chanAnswered c ch).chanError c ch x true q.addr

/-- Data, an acknowledgement or an `ANSWER` completes a request. -/
def State.answerOk (s : State) (q : RemReq) (ans : RemAns) : State :=
  match q.org, ans with
  | .acc c id, .data bs =>
    match (s.core c).acc? id with
    | some a => (s.accData c a bs).remoteAcked c a.thr q.id
    | none => s
  | .line c t i, .data bs => s.gatherLine c t i bs
  | .eline c vec id i, .data bs => s.engineLine c vec id i bs
  | .chanOld c ch counts _, _ => if counts then s.oldAnswered c ch else s
  | .poll c t, .data bs =>
    match (s.thread c t).wait with
    | some (.waitm rd ..) =>
      let v := BitVec.ofNat 64 (ofLE (bs.take 8))
      match s.waitmRead c t v with
      | (s, true) => s.waitmEnd c t rd v
      | (s, false) => s
    | _ => s
  | .write c t, .ack => s.remoteAcked c t q.id
  | .send c t, .answer acc => s.modThread c t (fun y => match y.wait with
      | some (.send _ _ _ _ ev) => y.sendPhase (.answered acc) ev
      | _ => y)
  | .chanRead c ch, .data bs =>
    match (s.chan c ch).cur with
    | some d => if (s.chan c ch).active then s.srcArrive c ch d bs else s
    | none => s
  | .chanEntry c ch dst, .data bs =>
    match (s.chan c ch).cur with
    | some d =>
      match (s.chan c ch).needsEntry d dst with
      | some (i, list, _, width) => if (s.chan c ch).active then s.entryArrive c ch dst i list width bs else s
      | none => s
    | none => s
  | .chanWrite c ch g, .ack => (s.modCore c (fun k => k.invalidate (touches (.remote g) 64))).chanAnswered c ch
  | .post c ch time, .answer acc =>
    if acc then (s.setChan c ch { s.chan c ch with post := [] }).chanAnswered c ch
    else { s with postWaits := s.postWaits ++ [⟨c, ch, s.elapsed, time⟩] }
  | _, _ => s

/-- The answer to request `q`. -/
def State.answer (s : State) (q : RemReq) (ans : RemAns) : State :=
  let s : State := { s with remReqs := s.remReqs.filter (fun r => r.id != q.id) }
  match ans with
  | .err code => s.answerErr q code
  | a => s.answerOk q a

/-- The requests of core `c` that this device has to answer itself, those that found no route (R361) and those lost in a port
while the half was PARKED (R26, R379), are answered. -/
def State.ownErrors (s : State) (c : Nat) : State :=
  let mine := s.unrouted.filter (fun u => s.remReqs.any (fun q => q.id == u.1 && q.org.core == c))
  let s : State := { s with unrouted := s.unrouted.filter (fun u => !mine.contains u) }
  mine.foldl (fun (s : State) u =>
    match s.remReqs.find? (fun q => q.id == u.1) with
    | some q =>
      let t := s.answer q (.err u.2)
      if u.2 = errPortdown then t.setPenn c 31 else t
    | none => s) s

/-- `REMOTE_RESPONSE` (R368-R370): an answer to a request that is not waiting any longer is discarded, and counted where
the request had timed out. One for a core whose half is PARKED waits (R26, R179). -/
def execRemoteResponse (req : Nat) (ans : RemAns) (s : State) : Out :=
  match s.remReqs.find? (fun q => q.id == req) with
  | some q =>
    if q.org.takes ans && s.halfRuns (coreHalf q.org.core) then .next ((s.answer q ans).poke q.org.core) else .next s
  | none =>
    if s.lateReqs.contains req then
      let s : State := { s with lateReqs := s.lateReqs.filter (fun i => i != req) }
      .next (s.satInc 0x50018 32 16)
    else .next s

/-- `FAB_RTO_EXPIRY` (R370): the origin answers itself. -/
def execFabRtoExpiry (req : Nat) (s : State) : Out :=
  match s.remReqs.find? (fun q => q.id == req) with
  | some q =>
    if s.halfRuns (coreHalf q.org.core) && q.sent.toNat + 1000 * s.rfld 0x50018 0 32 ≤ s.elapsed.toNat then
      .next (({ s with lateReqs := s.lateReqs ++ [req] }.answer q (.err errTimeout)).poke q.org.core)
    else .next s
  | none => .next s

/-- `POST_RESEND` (R373): 1 µs after the refusal arrived, while the channel runs. -/
def execPostResend (core : BitVec 10) (ch : BitVec 3) (s : State) : Out :=
  let c := core.toNat
  match s.postWaits.find? (fun w => w.core == c && w.ch == ch) with
  | some w =>
    if !s.coreRuns c || s.elapsed.toNat < w.refused.toNat + 1000 then .next s
    else
      let s : State := { s with postWaits := s.postWaits.filter (fun x => !(x.core == c && x.ch == ch)) }
      match (s.chan c ch).cur with
      | some d => if (s.chan c ch).active then .next (s.postSend c ch d w.time (s.chan c ch).post) else .next s
      | none => .next s
  | none => .next s

end Sys2Proof.Machine
end

