-- ==== Sys2Proof/Machine/Image.lean ====
section
/-!
DEFINITION. Configuration images (R434-R440): the checks of an image, and what its sections say. A check answers the
byte offset of the first failing field.
-/
namespace Sys2Proof.Machine

/-! ### Reading an image -/

/-- `n` bytes of an image from byte `o`, as a number. -/
def img (b : List Byte) (o n : Nat) : Nat := ofLE ((b.drop o).take n)

/-- The first byte of a range that is not zero. -/
def nonzeroIn (b : List Byte) (o n : Nat) : Option Nat :=
  (((b.drop o).take n).zipIdx.find? (fun p => p.1 != 0)).map (fun p => o + p.2)

/-- The first answer of a list of checks. -/
def firstBad (l : List (Option Nat)) : Option Nat := l.findSome? id

/-- A field check: its offset where it fails. -/
def chk (ok : Bool) (o : Nat) : Option Nat := if ok then none else some o

/-- A reserved field: its offset where it is not zero (R3). -/
def zeroAt (b : List Byte) (o n : Nat) : Option Nat := chk (img b o n == 0) o

def imgSect (b : List Byte) : Nat := img b 6 2
def imgTotal (b : List Byte) : Nat := img b 8 4
def imgTarget (b : List Byte) : Nat := img b 12 1
def imgSerial (b : List Byte) : Nat := img b 16 4

/-- A section table entry: type, offset, length, and the offset of the entry itself (R435). -/
structure Sect where
  ty : Nat
  off : Nat
  len : Nat
  entry : Nat
deriving DecidableEq, Repr

/-- The section table. -/
def imgTable (b : List Byte) : List Sect :=
  (List.range (imgSect b)).map (fun i =>
    let e := 64 + 16 * i
    ⟨img b e 2, img b (e + 4) 4, img b (e + 8) 4, e⟩)

/-- The sections of a type; the bytes of a section. -/
def sectsOf (b : List Byte) (ty : Nat) : List Sect := (imgTable b).filter (fun t => t.ty == ty)
def sectBytes (b : List Byte) (t : Sect) : List Byte := (b.drop t.off).take t.len

/-! ### Checks 1-6 (R440) -/

/-- Where an image comes from: `STAGE_CONFIG`, a flash image slot, a flash firmware slot (R432, R440). -/
inductive ImgKind where
  | command
  | flash
  | firmware
deriving DecidableEq, Repr

/-- Check 1. -/
def imgCheck1 (b : List Byte) (k : ImgKind) : Option Nat :=
  firstBad [chk (img b 0 4 == 0x46434D4C) 0, chk (img b 4 2 == 1) 4, chk (1 ≤ imgSect b && imgSect b ≤ 64) 6,
    chk (imgTotal b % 64 == 0 && 64 + 16 * imgSect b + 256 ≤ imgTotal b && imgTotal b == b.length) 8,
    chk (match k with
      | .command => imgTarget b ≤ 8
      | .flash => imgTarget b == 8
      | .firmware => imgTarget b == 9) 12,
    nonzeroIn b 13 3, nonzeroIn b 20 44]

/-- The most and the least sections of a type that a target admits (R437). -/
def sectMax (target ty : Nat) : Nat :=
  if target ≤ 7 then
    (if ty = 1 ∨ ty = 0x20 ∨ ty = 0x22 ∨ ty = 0x23 ∨ ty = 0x24 ∨ ty = 0x25 then 1 else if ty = 0x21 then 16 else 0)
  else if target = 8 then (if ty = 1 ∨ ty = 0x10 then 1 else 0)
  else (if ty = 0x100 ∨ ty = 0x101 then 1 else 0)

def sectNeed (target : Nat) : List Nat :=
  if target ≤ 7 then [1, 0x20, 0x21, 0x23] else if target = 8 then [1, 0x10] else [0x100, 0x101]

/-- The lengths that a section may have, where its rule fixes them. -/
def sectLenOk (t : Sect) : Bool :=
  if t.ty = 1 then t.len == 256
  else if t.ty = 0x10 then t.len == 128
  else if t.ty = 0x20 then t.len == 256
  else if t.ty = 0x21 then 8 ≤ t.len
  else if t.ty = 0x22 then t.len % 16 == 0
  else if t.ty = 0x23 then t.len % 16 == 0 && 16 ≤ t.len && t.len ≤ 256
  else if t.ty = 0x24 then t.len == 10240
  else if t.ty = 0x25 then t.len % 16 == 0
  else true

/-- Check 2, entry by entry: `seen` are the types so far and `from` the first byte that is free. -/
def imgCheck2 (b : List Byte) (target : Nat) : List Sect → List Nat → Nat → Option Nat
  | [], seen, _ => chk ((sectNeed target).all seen.contains) 6
  | t :: ts, seen, start =>
    match firstBad [chk (seen.count t.ty < sectMax target t.ty) t.entry, zeroAt b (t.entry + 2) 2,
        chk (t.off % 64 == 0 && start ≤ t.off) (t.entry + 4),
        chk (sectLenOk t && t.off + t.len ≤ imgTotal b - 256) (t.entry + 8)] with
    | some o => some o
    | none => imgCheck2 b target ts (t.ty :: seen) (t.off + t.len)

/-- Check 3. -/
def imgCheck3 (b : List Byte) : Option Nat :=
  (imgTable b).findSome? (fun t => chk ((crc32c (sectBytes b t)).toNat == img b (t.entry + 12) 4) (t.entry + 12))

/-- Check 4: the gaps before each section, after the last, and in the trailer. -/
def imgCheck4 (b : List Byte) : Option Nat :=
  let rec gaps : List Sect → Nat → Option Nat
    | [], start => nonzeroIn b start (imgTotal b - 256 - start)
    | t :: ts, start =>
      match nonzeroIn b start (t.off - start) with
      | some o => some o
      | none => gaps ts (t.off + t.len)
  firstBad [gaps (imgTable b) (64 + 16 * imgSect b), nonzeroIn b (imgTotal b - 256 + 144) 112]

/-- The digest of the image (R436), and check 5. -/
def imgDigest (b : List Byte) : List Byte := sha384 (b.take (imgTotal b - 256))
def imgCheck5 (b : List Byte) : Option Nat :=
  chk ((b.drop (imgTotal b - 256)).take 48 == imgDigest b) (imgTotal b - 256)

/-- Check 6. -/
def imgCheck6 (b : List Byte) : Option Nat :=
  let sig := (b.drop (imgTotal b - 208)).take 96
  if imgTarget b = 9 then chk (ecdsaOk Config.rootKey (imgDigest b) sig) (imgTotal b - 208)
  else
    match sectsOf b 1 with
    | t :: _ =>
      let k := sectBytes b t
      let key := (ofBE (k.take 48), ofBE ((k.drop 48).take 48))
      firstBad [chk (ecdsaOk Config.rootKey (sha384 (k.take 104)) ((k.drop 104).take 96)) (t.off + 104),
        chk (ecdsaOk key (imgDigest b) sig) (imgTotal b - 208)]
    | [] => some 6

/-! ### Sets of sections (R447) -/

/-- The runs of consecutive sections of one half. -/
def runs : List Nat := [1, 2, 4, 8, 3, 6, 12, 7, 14, 15]

/-- A set of sections may form a partition. -/
def setAllowed (m : Nat) : Bool := runs.any (fun r => m == r || m == 16 * r || m == 17 * r)

/-! ### Check 7: fields of sections -/

/-- Size of a torus dimension (x, y, z, w) less one (R360). -/
def torusSize (torus d : Nat) : Nat := if d = 3 then torus / 4096 % 32 else torus / 16 ^ d % 16

/-- The direction masks of R360 obey it. -/
def dirsOk (torus : Nat) (dir : List Nat) : Bool :=
  (List.range 16).all (fun p => (dir.filter (fun m => m.testBit p)).length ≤ 1) &&
    (List.range 4).all (fun d => torusSize torus d == 0 || (dir.getD (2 * d) 0 != 0 && dir.getD (2 * d + 1) 0 != 0))
def devFits (torus dev : Nat) : Bool := (List.range 4).all (fun d => devCoord dev d ≤ torusSize torus d)

/-- The staging area lies wholly in a tier (R438, R442). -/
def stageOk (base mib : Nat) : Bool := inTiers base (18 * mib * 2 ^ 20)

/-- A `DEVICE` section (R438). -/
def deviceOf (b : List Byte) (o : Nat) : DevImage where
  serial := imgSerial b
  devid := img b o 4
  torus := img b (o + 4) 4
  dir := (List.range 8).map (fun d => img b (o + 8 + 8 * d) 8)
  gmid := img b (o + 72) 8
  slots := img b (o + 80) 1
  auto := img b (o + 81) 1 % 2 == 1
  subsys := img b (o + 84) 4
  stageBase := img b (o + 88) 8
  stageMib := img b (o + 96) 4
  partmap := img b (o + 100) 8

/-- Section mask of partition `n` in a `PARTMAP`. -/
def mapByte (m n : Nat) : Nat := m / 256 ^ n % 256

def deviceBad (b : List Byte) (o : Nat) : Option Nat :=
  let v := deviceOf b o
  firstBad ([chk (v.devid < 2 ^ 17 && devFits v.torus v.devid) o, chk (v.torus < 2 ^ 17) (o + 4)] ++
    (List.range 8).map (fun d => chk (v.dir.getD d 0 < 2 ^ 16 &&
      ((List.range d).all (fun e => v.dir.getD d 0 &&& v.dir.getD e 0 == 0)) &&
      (torusSize v.torus (d / 2) == 0 || v.dir.getD d 0 != 0)) (o + 8 + 8 * d)) ++
    [chk (v.gmid < 2 ^ 17) (o + 72), chk (v.slots ≤ 64) (o + 80), chk (img b (o + 81) 1 ≤ 1) (o + 81), zeroAt b (o + 82) 2,
      chk (v.stageBase % 4096 == 0 && (!(1 ≤ v.stageMib && v.stageMib ≤ 1024) || stageOk v.stageBase v.stageMib)) (o + 88),
      chk (1 ≤ v.stageMib && v.stageMib ≤ 1024) (o + 96)] ++
    (List.range 8).map (fun n => chk (mapByte v.partmap n == 0 || (setAllowed (mapByte v.partmap n) &&
      (List.range n).all (fun m => mapByte v.partmap n &&& mapByte v.partmap m == 0))) (o + 100 + n)) ++
    [zeroAt b (o + 108) 20])

/-- A range of partition virtual addresses (R269): it touches neither LM form, and no global address. -/
def virtRange (a len : Nat) : Bool :=
  0x80000 ≤ a && a + len ≤ 2 ^ 48 && (a + len ≤ lmBase || lmBase + 0x40000000 ≤ a)

def programBad (b : List Byte) (o : Nat) : Option Nat :=
  let entry := img b (o + 24) 8
  firstBad [chk (50 ≤ img b o 4 && img b o 4 ≤ 250000) o, chk (setAllowed (img b (o + 12) 1)) (o + 12),
    chk (img b (o + 14) 1 < 16) (o + 14), chk (img b (o + 16) 1 ≤ 64) (o + 16), chk (img b (o + 17) 1 ≤ 63) (o + 17),
    chk (img b (o + 18) 1 ≤ 1) (o + 18), zeroAt b (o + 19) 5, chk (entry % 4 == 0 && virtRange entry 4) (o + 24),
    zeroAt b (o + 32) 32, zeroAt b (o + 192) 64]

def codeBad (b : List Byte) (t : Sect) : Option Nat :=
  chk (virtRange (img b t.off 8) (max 1 (t.len - 8))) t.off

/-- The per-core plans of a `SLOTPLAN` section (R437): core, its entries and their offset; or the failing offset. -/
def plansOf (b : List Byte) : Nat → Nat → Nat → Except Nat (List (Nat × List (BitVec 128) × Nat))
  | 0, _, _ => .ok []
  | fuel + 1, o, stop =>
    if stop ≤ o then .ok []
    else
      let c := img b o 2
      let n := img b (o + 2) 2
      match firstBad [chk (c < 1024) o, chk (n ≤ 2048 && o + 16 + 16 * n ≤ stop) (o + 2), zeroAt b (o + 4) 12] with
      | some e => .error e
      | none =>
        match plansOf b fuel (o + 16 + 16 * n) stop with
        | .error e => .error e
        | .ok l => .ok ((c, (List.range n).map (fun i => BitVec.ofNat 128 (img b (o + 16 + 16 * i) 16)), o + 16) :: l)

def planSect (b : List Byte) (t : Sect) : Except Nat (List (Nat × List (BitVec 128) × Nat)) :=
  plansOf b (t.len / 16 + 1) t.off (t.off + t.len)

def bandAt (b : List Byte) (o : Nat) : Band := ⟨img b o 8 % 8192, img b o 8 / 65536 % 2 ^ 20, img b (o + 8) 4⟩

def bandsBad (b : List Byte) (t : Sect) : Option Nat :=
  (List.range (t.len / 16)).findSome? (fun i =>
    let o := t.off + 16 * i
    let w := img b o 8
    let d := bandAt b o
    firstBad [chk (1 ≤ d.occ && d.occ ≤ 4096) o, chk (w / 8192 % 8 == 0) (o + 1), chk (d.units ≤ 1044480) (o + 2),
      chk (w / 2 ^ 36 == 0) (o + 4), chk (img b (o + 12) 4 == 0) (o + 12)])

/-- A `REGS` target of an image for partition `n` on a set of sections (R437). -/
def regTarget (n sects t : Nat) : Bool :=
  (0x30000 + n * 0x1000 ≤ t && t < 0x31000 + n * 0x1000) || t == 0x70028 + n * 0x100 ||
    (0x54000 + n * 0x100 ≤ t && t < 0x54100 + n * 0x100) || (0x56000 + n * 0x100 ≤ t && t < 0x56100 + n * 0x100) ||
    (0x80000000 ≤ t && t < 0x80000400 && sects.testBit (coreSect (t - 0x80000000)))

def regsBad (b : List Byte) (t : Sect) (n sects : Nat) : Option Nat :=
  (List.range (t.len / 16)).findSome? (fun i =>
    let o := t.off + 16 * i
    chk (regTarget n sects (img b o 8)) o)

/-- Check 7. -/
def imgCheck7 (b : List Byte) : Option Nat :=
  let n := imgTarget b
  let sects := match sectsOf b 0x20 with | t :: _ => img b (t.off + 12) 1 | [] => 0
  (imgTable b).findSome? (fun t =>
    if t.ty = 1 then firstBad [zeroAt b (t.off + 100) 4, zeroAt b (t.off + 200) 56]
    else if t.ty = 0x10 then deviceBad b t.off
    else if t.ty = 0x20 then programBad b t.off
    else if t.ty = 0x21 then codeBad b t
    else if t.ty = 0x22 then (match planSect b t with | .error e => some e | .ok _ => none)
    else if t.ty = 0x23 then bandsBad b t
    else if t.ty = 0x25 then regsBad b t n sects
    else none)

/-- The checks of R440 in order. -/
def imgBad (b : List Byte) (k : ImgKind) : Option Nat :=
  match imgCheck1 b k with
  | some o => some o
  | none =>
    match imgCheck2 b (imgTarget b) (imgTable b) [] (64 + 16 * imgSect b) with
    | some o => some o
    | none => firstBad [imgCheck3 b, imgCheck4 b, imgCheck5 b, imgCheck6 b, imgCheck7 b]

/-! ### What a partition image says -/

/-- The program of a partition image that has passed R440. -/
def programOf (b : List Byte) : Program :=
  let o := match sectsOf b 0x20 with | t :: _ => t.off | [] => 0
  { serial := imgSerial b, pus := img b o 4, bns := img b (o + 4) 4, unitCyc := img b (o + 8) 4, sects := img b (o + 12) 1
    seam := img b (o + 13) 1, decl := img b (o + 14) 1, traceMax := img b (o + 15) 1, cslots := img b (o + 16) 1
    finalBar := img b (o + 17) 1, start := img b (o + 18) 1 == 1, entry := BitVec.ofNat 64 (img b (o + 24) 8)
    absent := (List.range 64).map (fun i => img b (o + 64 + 2 * i) 2)
    code := (sectsOf b 0x21).map (fun t => (img b t.off 8, (sectBytes b t).drop 8))
    plans := match sectsOf b 0x22 with
      | t :: _ => (match planSect b t with | .ok l => l.map (fun p => (p.1, p.2.1)) | .error _ => [])
      | [] => []
    bands := match sectsOf b 0x23 with
      | t :: _ => (List.range (t.len / 16)).map (fun i => bandAt b (t.off + 16 * i))
      | [] => []
    sets := match sectsOf b 0x24 with
      | t :: _ => (List.range 80).map (fun i => img b (t.off + 128 * i) 128)
      | [] => []
    pairs := match sectsOf b 0x25 with
      | t :: _ => (List.range (t.len / 16)).map (fun i =>
          (BitVec.ofNat 64 (img b (t.off + 16 * i) 8), BitVec.ofNat 64 (img b (t.off + 16 * i + 8) 8)))
      | [] => [] }

/-! ### Commit-time checks of a slot plan (R241) -/

/-- A use of a resource: its first cycle, the cycles between uses, how many, and the first line. -/
structure Use where
  res : Nat
  t0 : Nat
  step : Nat
  n : Nat
  line : Nat
deriving DecidableEq, Repr

/-- Two uses of one resource meet in one cycle; with `bank`, at lines of one bank. -/
def Use.clash (a b : Use) (bank : Bool) : Bool :=
  a.res == b.res && (List.range a.n).any (fun i =>
    let t := a.t0 + a.step * i
    b.t0 ≤ t && (t - b.t0) % max 1 b.step == 0 && (t - b.t0) / max 1 b.step < b.n &&
      (!bank || (a.line + i) % 16 == (b.line + (t - b.t0) / max 1 b.step) % 16))

def anyClash (bank : Bool) : List Use → Bool
  | [] => false
  | u :: us => us.any (fun v => u.clash v bank) || anyClash bank us

/-- The link and bank uses of an entry of core `c`: one per hop on its link, the read, and the write, in cycles of the core
that holds the link or the bank. A `LOCKED` crossing counts its hops in the slower clock (R250). An `ELASTIC` crossing has
planned cycles on the sender's side of the seam alone (R251; DEDUCED, log 116). -/
def entryUses (seam decl c : Nat) (e : BitVec 128) : List Use × List Use :=
  let d := (hopCore c (pDir e) (pHops e)).getD c
  let locked := seam == 1 && crosses c d
  let use (res x k line : Nat) : Use :=
    let f := if locked then clockScale decl (coreHalf x) else 1
    let gap := if !locked || !crosses c x then 0 else if clockScale decl 0 = clockScale decl 1 then 6 else 3
    ⟨res, f * (fld e 0 32 + k + gap), f, pLines e, line⟩
  let planned (x : Nat) : Bool := locked || !crosses c x
  ((List.range (pHops e)).filterMap (fun k =>
      let x := (hopCore c (pDir e) k).getD c
      if planned x then some (use (4 * x + pDir e) x k 0) else none),
    use c c 0 (pSline e) :: (if planned d then [use d d (pHops e) (pDline e)] else []))

/-- An entry by itself (R241): its fields, and every core of its path, from the sender to the destination. -/
def State.entryBad (s : State) (sects seam c : Nat) (e : BitVec 128) : Bool :=
  let path := (List.range (pHops e + 1)).map (hopCore c (pDir e))
  fld e 39 1 != 0 || fld e 56 8 != 0 || fld e 77 3 != 0 || fld e 93 35 != 0 || pLines e == 0 || pHops e == 0 ||
    8192 < pSline e + pLines e || 8192 < pDline e + pLines e ||
    path.any (fun x => match x with
      | some x => !s.present x || !sects.testBit (coreSect x) || (coreHalf x != coreHalf c && seam != 1 && seam != 2)
      | none => true)

/-- The first failing entry of an image's slot plans. -/
def State.plansBad (s : State) (b : List Byte) (g : Program) : Option Nat :=
  match sectsOf b 0x22 with
  | t :: _ =>
    match planSect b t with
    | .error o => some o
    | .ok l =>
      let flat := l.flatMap (fun p => p.2.1.zipIdx.map (fun e => (p.1, e.1, p.2.2 + 16 * e.2, p.2.1.getD (e.2 - 1) 0)))
      let rec go : List (Nat × BitVec 128 × Nat × BitVec 128) → List Use → List Use → Option Nat
        | [], _, _ => none
        | (c, e, o, prev) :: rest, links, banks =>
          let (a, k) := entryUses g.seam g.decl c e
          if s.entryBad g.sects g.seam c e || fld e 0 32 < fld prev 0 32 && prev != e || anyClash false a ||
              a.any (fun u => links.any (fun v => u.clash v false)) || anyClash true k ||
              k.any (fun u => banks.any (fun v => u.clash v true)) then some o
          else go rest (a ++ links) (k ++ banks)
      go flat [] []
  | [] => none

end Sys2Proof.Machine
end

