-- ==== Sys2Proof/Machine/Halves.lean ====
section
/-!
DEFINITION. Operating points of the halves (R253-R259) and the core rail interface (R456-R457).
-/
namespace Sys2Proof.Machine

/-- Offset of `PWR_HALFOP` of a half (R255). -/
def halfop (h : Nat) : Nat := 0x90000 + 8 * h

/-! ### Programs of a half -/

/-- A program is satisfied by a point of half `h` (R249). -/
def Program.satisfied (g : Program) (h p : Nat) : Bool := if g.seam = 1 then p == g.declOf h else g.declOf h ≤ p

/-- The lowest point that satisfies every program listed, 3 where none does. -/
def lowestPoint (gs : List Program) (h : Nat) : Nat :=
  (([0, 1, 2] : List Nat).find? (fun p => gs.all (fun g => g.satisfied h p))).getD 3

/-- The programs of the partitions of half `h` that are not `EMPTY`, but for partition `n`. -/
def State.halfProgs (s : State) (h n : Nat) : List Program :=
  (List.range 8).filterMap (fun m =>
    if m ≠ n ∧ s.holdsHalf m h ∧ s.pstate m ≠ psEmpty then (s.part m).prog else none)

/-- `DECL` of a half (R255). -/
def State.declPoint (s : State) (h : Nat) : Nat :=
  let gs := s.halfProgs h 8
  if gs.isEmpty then 3 else lowestPoint gs h

/-- Every partition of half `h` is `EMPTY`. -/
def State.halfEmpty (s : State) (h : Nat) : Bool :=
  (List.range 8).all (fun n => !s.holdsHalf n h || s.pstate n == psEmpty)

/-- A step of a partition of half `h` is running. -/
def State.halfBusy (s : State) (h : Nat) : Bool :=
  (List.range 8).any (fun n => s.holdsHalf n h && (s.part n).step.isSome)

/-! ### Target and voltage -/

/-- `REQ` as last written; `CAP`. -/
def State.reqOf (s : State) (h : Nat) : Nat := s.efld (halfop h) 2 2
def State.capOf (s : State) (h : Nat) : Nat := s.rfld (halfop h) 4 2

/-- The target of a half: HALF until the entry to `HOLD` (R255, R428). -/
def State.target (s : State) (h : Nat) : Nat := if s.boot.held then min (s.reqOf h) (s.capOf h) else 1

def State.half (s : State) (h : Nat) : Half := if h = 0 then s.west else s.east
def State.setHalf (s : State) (h : Nat) (x : Half) : State := if h = 0 then { s with west := x } else { s with east := x }

/-- `VGOOD`: `PG` is high outside the 4 µs after a change of `VSEL`, which matches the target's voltage (R457); after a thermal
trip `PG` is ignored (R468). -/
def State.vgood (s : State) (h : Nat) : Bool :=
  let x := s.half h
  !s.pins.therm && x.pg && x.vselAt.toNat + 4000 ≤ s.elapsed.toNat && x.vsel == (s.target h == 2)

/-- The half's `VSEL` takes a level (R456). -/
def State.setVsel (s : State) (h : Nat) (high : Bool) : State :=
  let x := s.half h
  if x.vsel = high then s.setHalf h { x with lowDue := none }
  else s.setHalf h { x with vsel := high, vselAt := s.elapsed, lowDue := none, window := true }

/-- The target may have moved: a rise requests the rail's higher voltage at once (R257). A raise withdrawn before its
clock changed gives the voltage back as a change to a lower point does (DEDUCED, log 17). -/
def State.retarget (s : State) (h : Nat) : State :=
  let x := s.half h
  if s.target h = 2 then s.setVsel h true
  else if x.vsel ∧ s.live h ≠ 2 ∧ x.lowDue.isNone then s.setHalf h { x with lowDue := some (s.elapsed + 1000) }
  else s

/-- The clock of half `h` runs again: what waited for it outside its cores goes on (R26). -/
def State.halfWakes (s : State) (h : Nat) : State := (List.range 8).foldl (fun s n => s.hsigServe n 64) (s.barWake h)

/-- The pending change of a half is applied, at an instant that allows it (R256-R257). The spec does not say whether `REQ`
reads as staged where the raise itself is deferred for `VGOOD`: it does from the first qualifying instant on (DESIGN CHOICE, log
137). -/
def State.applyPoint (s : State) (h : Nat) : State :=
  let t := s.target h
  let l := s.live h
  let g := s.vgood h
  let s := s.applyWord (halfop h)
  if l < t then
    if t ≠ 2 ∨ g then
      let s := s.setRfld (halfop h) 0 2 t
      if l = 0 then s.halfWakes h else s
    else s
  else if t < l then
    let s := s.setRfld (halfop h) 0 2 t
    if l = 2 then s.setHalf h { s.half h with lowDue := some (s.elapsed + 1000) } else s
  else s

/-- `REQ`, `CAP`, `PG` or the partitions of a half changed: the voltage follows, and the change is applied where every
partition of the half is `EMPTY` (R256: within 1 µs, here at once: DESIGN CHOICE, log 18). -/
def State.settleHalf (s : State) (h : Nat) : State :=
  let s := s.retarget h
  if s.halfEmpty h then s.applyPoint h else s

/-- A write of `REQ` is ignored (R255, R258). -/
def State.reqRefused (s : State) (h v : Nat) : Bool :=
  v == 3 || (s.declPoint h < v && (s.halfProgs h 8).any (fun g => g.seam == 1 && g.declOf h < v))

/-- `REQ` is staged (R258). -/
def State.stageReq (s : State) (h v : Nat) : State :=
  (s.stageBits (halfop h) 0xC (BitVec.ofNat 64 (4 * v))).settleHalf h

/-- `CAP` is written (R255). -/
def State.setCap (s : State) (h v : Nat) : State := (s.setRfld (halfop h) 4 2 v).settleHalf h

end Sys2Proof.Machine
end

