-- ==== Sys2Proof/Machine/Commit.lean ====
section
/-!
DEFINITION. Staged images (R442) and commits of partition images (R337, R445-R446).
-/
namespace Sys2Proof.Machine

/-! ### `CFG_STAGE` and the staging area (R442) -/

/-- Offset of `CFG_STAGE` of a target. -/
def cfgStage (t : Nat) : Nat := 0xA0000 + 0x10 * t

/-- Largest staged image in MiB, and the base of the staging area. -/
def State.stageMib (s : State) : Nat := match s.devImg with | some d => d.stageMib | none => 32
def State.stageBase (s : State) : Nat := match s.devImg with | some d => d.stageBase | none => 0x21FDC000000

/-- Bytes written from a device physical address, line by line. -/
def State.putBytes (s : State) (pa : Nat) (bs : List Byte) : State :=
  (spans pa bs.length).foldl (fun s (a, k) => s.homeWrite a ((bs.drop (a - pa)).take k)) s

/-- The image staged for a target, no bytes where nothing is. -/
def State.stagedFor (s : State) (t : Nat) : List Byte := AMap.get [] s.staged t

/-- The buffer of a target that holds no staged image. -/
def State.freeBuf (s : State) (t : Nat) : Nat := if (s.stagedFor t).isEmpty then 0 else 1 - AMap.get 0 s.stageBuf t

/-- An image is written into that buffer, where its checks are made. -/
def State.fillBuf (s : State) (t : Nat) (b : List Byte) : State :=
  s.putBytes (s.stageBase + (2 * t + s.freeBuf t) * s.stageMib * 2 ^ 20) b

/-- An image that has passed its checks: its buffer becomes the staged one. -/
def State.setStaged (s : State) (t : Nat) (b : List Byte) : State :=
  let j := s.freeBuf t
  ({ s with staged := AMap.put s.staged t b, stageBuf := AMap.put s.stageBuf t j }.setRfld (cfgStage t) 0 1 1).setRfld
    (cfgStage t) 32 32 (imgSerial b)

/-- A commit consumes the staged image of its target. -/
def State.consume (s : State) (t : Nat) : State :=
  ({ s with staged := AMap.put s.staged t [] }.setRfld (cfgStage t) 0 1 0).setRfld (cfgStage t) 32 32 0

/-- `E_CONFIG` for a target, and its `ERROFF`. -/
def State.configFail (s : State) (p : Packet) (t off : Nat) : State :=
  let s := if t ≤ 8 then s.setRfld (cfgStage t + 8) 32 32 off else s
  s.post (p.reply stConfig s.devtime (BitVec.ofNat 64 off))

/-- `STAGE_CONFIG` with its whole image read (R337, R442). One whose target has no buffer is written nowhere. -/
def State.stageImage (s : State) (p : Packet) (b : List Byte) : State :=
  let s := if 13 ≤ b.length ∧ imgTarget b ≤ 8 then s.fillBuf (imgTarget b) b else s
  match imgBad b .command with
  | some off => s.configFail p (if 13 ≤ b.length then imgTarget b else 9) off
  | none => (s.setStaged (imgTarget b) b).post (p.reply stOk s.devtime)

/-! ### Commit-time checks (R445) -/

/-- The absent-core mask of half-row `i` as it is. -/
def State.absentMask (s : State) (i : Nat) : Nat := s.rfld (0x200 + 8 * (i / 2)) (32 * (i % 2) + 16) 16

/-- The first half-row of a program's sections whose absent-core mask differs (R16). -/
def State.absentBad (s : State) (g : Program) : Option Nat :=
  (List.range 64).find? (fun i => g.sects.testBit (i / 16 + 4 * (i % 2)) && g.absent.getD i 0 != s.absentMask i)

/-- The first failing field of a cost table whose entries start at `o` (R33); `q` is the offset of `B_NS`. -/
def costBad (g : Program) (o q : Nat) : Option Nat :=
  let at_ (i : Nat) : Band := g.bands.getD i ⟨0, 0, 0⟩
  let n := g.bands.length
  firstBad ((List.range n).flatMap (fun i =>
      if i = 0 then []
      else
        let a := at_ (i - 1)
        let b := at_ i
        [chk (a.occ < b.occ) (o + 16 * i), chk (a.units ≤ b.units) (o + 16 * i + 2), chk (a.ns ≤ b.ns) (o + 16 * i + 8)]) ++
    [chk ((at_ (n - 1)).ns == g.bns) (o + 16 * (n - 1) + 8), chk (g.bns ≤ g.pus * 1000) q])

/-- A `LOCKED` program keeps its declared ratio at the points that its first boundary will have (R253). -/
def State.ratioOk (s : State) (g : Program) : Bool :=
  let d0 := g.declOf 0
  let d1 := g.declOf 1
  let p0 := min d0 (s.capOf 0)
  let p1 := min d1 (s.capOf 1)
  g.seam != 1 || g.sects % 16 == 0 || g.sects / 16 == 0 || (p0 == d0 && p1 == d1) ||
    (p0 != 0 && p1 != 0 && d0 != 0 && d1 != 0 && p0 * d1 == p1 * d0)

/-- Some point of each half satisfies the program with every other of that half (R253). -/
def State.commonPoint (s : State) (n : Nat) (g : Program) : Bool :=
  ([0, 1] : List Nat).all (fun h => g.sects / 16 ^ h % 16 == 0 || lowestPoint (g :: s.halfProgs h n) h != 3)

/-- `DECL` names a point for exactly the halves of `SECTS` (R445); an `ELASTIC` program never declares PARKED (R249). -/
def declOk (g : Program) : Bool :=
  ([0, 1] : List Nat).all (fun h =>
    if g.sects / 16 ^ h % 16 = 0 then g.declOf h == 3 else g.declOf h != 3 && (g.seam == 1 || g.declOf h != 0))

/-- A word of two class registers `PRT_CLSB` (R41). -/
def classWord (o : Nat) : Bool := inArr o 0x30040 0x1000 8 || inArr o 0x30048 0x1000 8

/-- The 8-byte word that holds a `REGS` target, the bits of it that the pair writes, and their value: a target names the
register at its offset, so a class register takes its own 32 bits alone, and an offset that names no register nothing
(DEDUCED, log 19). -/
def pairWord (t : Nat) (v : W64) : Nat × W64 × W64 :=
  if t % 8 = 4 then (t - 4, 0xFFFFFFFF00000000, v <<< 32)
  else if t % 8 ≠ 0 then (t, 0, 0)
  else if classWord t then (t, 0xFFFFFFFF, v)
  else (t, 0xFFFFFFFFFFFFFFFF, v)

/-- A `REGS` pair staged (R437): `NISPLIT` of a core, or the ST fields of a register, and `OPEN` of the class registers
(DEDUCED, log 19). -/
def State.stagePair (s : State) (p : W64 × W64) : State :=
  let t := p.1.toNat
  if 0x80000000 ≤ t then s.modCore (t - 0x80000000) (fun k => { k with nisplitStaged := some (p.2.setWidth 32) })
  else
    let (o, m, v) := pairWord t p.2
    let i := regInfo o
    let w := if classWord o then i.rw &&& m else 0
    let s := if w = 0 then s else s.setReg o ((s.reg o &&& ~~~w) ||| (v &&& w))
    if i.st &&& m = 0 then s else s.stageBits o (i.st &&& m) v

/-- The state with the translation that the image's `REGS` give (R445). -/
def State.ttView (s : State) (n : Nat) (g : Program) : State :=
  let ws := [prt n 0x80, prt n 0x88]
  let s := (g.pairs.filter (fun p => ws.contains (pairWord p.1.toNat p.2).1)).foldl State.stagePair (s.dropWords ws)
  let b := s.efld (prt n 0x80) 0 43
  let s := if b % 0x200000 = 0 ∧ inTiers b 0x200000 then s.applyWord (prt n 0x80) else s.unstage (prt n 0x80)
  s.applyWord (prt n 0x88)

/-- The commit-time checks, in the order of R445: the offset of the first failing field. The spec checks `BERTH_COUNT`
against the last `OCC_MAX` where a staged set takes effect alone (R38, R42), so a program with fewer leaves the live
`BERTH_COUNT` as it is (DESIGN CHOICE, log 108). -/
def State.commitBad (s : State) (n : Nat) (b : List Byte) (g : Program) : Option Nat :=
  let o := match sectsOf b 0x20 with | t :: _ => t.off | [] => 0
  let c := match sectsOf b 0x23 with | t :: _ => t.off | [] => 0
  let v := s.ttView n g
  firstBad ([
    (s.absentBad g).map (fun i => o + 64 + 2 * i),
    costBad g c (o + 4),
    s.plansBad b g,
    chk (g.seam == 1 || g.seam == 2) (o + 13),
    chk (s.ratioOk g && s.commonPoint n g) (o + 14),
    chk (g.cslots == s.rfld 0x40000 0 7) (o + 16),
    chk (g.sects == s.sects n) (o + 12),
    chk (declOk g) (o + 14)] ++
    ((sectsOf b 0x21).zip g.code).map (fun x => chk (v.devBad n x.2.1 x.2.2.length .write false).isNone x.1.off))

/-! ### Acceptance -/

/-- The program changes P, B or the cost table (R37). -/
def State.changes (s : State) (n : Nat) (g : Program) : Bool :=
  match (s.part n).prog with
  | some h => !(h.pus == g.pus && h.bns == g.bns && h.bands == g.bands)
  | none => true

/-- A hard item of the partition is admitted or running (R37). -/
def State.hardWork (s : State) (n : Nat) : Bool := (s.part n).items.any (fun i => i.cls != 3)

/-- T0 of R337: the earliest `PARAM` + m P, m = 0, 1, 2 and so on, at least 100 µs after acceptance. -/
def newT0 (param accepted period : Nat) : Nat := param + (accepted + 100000 - param + period - 1) / period * period

/-- `COMMIT_CONFIG` of a partition image, checked and accepted (R445). -/
def State.commitPart (s : State) (p : Packet) (n : Nat) : State :=
  let b := s.stagedFor n
  if b.isEmpty ∨ s.sects n = 0 then s.post (p.reply stState s.devtime 0xFF)
  else
    let g := programOf b
    match s.commitBad n b g with
    | some off => s.configFail p n off
    | none =>
      let st := s.pstate n
      let ch := s.changes n g
      if ch ∧ (st = psRunning ∨ st = psDraining ∨ s.hardWork n) then
        s.post (p.reply stState s.devtime (BitVec.ofNat 64 st))
      else
        let job : Job := ⟨p, s.devtime, .commit n⟩
        let t0 := if ch then some (BitVec.ofNat 64 (newT0 p.param.toNat s.devtime.toNat (1000 * g.pus))) else none
        let s := (s.consume n).setRfld (cfgStage n) 1 1 1
        let s := s.modPart n (fun q => { q with commits := q.commits ++ [⟨g, t0, job⟩] })
        { s with jobs := s.jobs ++ [job] }

/-! ### Taking effect -/

/-- The registers of a program (R32, R52). -/
def State.progRegs (s : State) (n : Nat) (g : Program) : State :=
  let s := s.setReg (prt n 0x10) (BitVec.ofNat 64 (g.pus + g.bands.length * 2 ^ 20 + g.unitCyc * 2 ^ 32))
  let s := s.setReg (prt n 0x18) (BitVec.ofNat 64 g.bns)
  (List.range 16).foldl (fun s i =>
    let d := g.bands.getD i ⟨0, 0, 0⟩
    (s.setReg (prt n (0x200 + 16 * i)) (BitVec.ofNat 64 (d.occ + d.units * 65536))).setReg (prt n (0x208 + 16 * i))
      (BitVec.ofNat 64 d.ns)) s

/-- Every `CODE` range written (R445). -/
def State.putCode (s : State) (n : Nat) (g : Program) : State :=
  g.code.foldl (fun s c => (s.devWrite n c.1 c.2).1) s

/-- The partition may become `RUNNING`: no `WDOG_FIRED`, no hold (R445). -/
def State.noHold (s : State) (n : Nat) : Bool := !s.wdogFired n && !s.consHold n && !s.quarHold n

/-- `PENDING` of `CFG_STAGE`: another commit of partition `n` waits. -/
def State.commitsWait (s : State) (n : Nat) : Nat := if (s.part n).commits.isEmpty then 0 else 1

/-- A commit takes effect (R445): its program comes into force for the checks that its staged values must pass, then
the host's staged values, then its `REGS` pairs. -/
def State.commitEffect (s : State) (n : Nat) (c : Commit) : State :=
  let g := c.prog
  let s := (s.modPart n (fun p => { p with prog := some g, traceMax := g.traceMax })).progRegs n g
  let s := match c.t0 with
    | some t => ((s.setReg (prt n 0x20) t).setReg (prt n 0x28) 0).modPart n (fun p => { p with nextK := 0 })
    | none => s
  let s := (g.pairs.foldl State.stagePair (s.applyStaged n)).applyStaged n
  let s := s.putCode n g
  let s := if (s.absentBad g).isNone then s.setRfld (0x80400 + 32 * n) 9 1 0 else s
  let s := (s.partCores n).foldl (fun (s : State) d => s.startCore d g.entry) s
  let s := match c.t0 with
    | some _ =>
      let go : Bool := g.start && s.noHold n
      let s := s.modPart n (fun p => { p with startWait := go && s.dstate != dsRun })
      s.setPstate n (if go && s.dstate == dsRun then psRunning else psHeld)
    | none => if g.start then s else s.modPart n (fun p => { p with startWait := false })
  let s := ([0, 1] : List Nat).foldl (fun (s : State) h =>
    if s.holdsHalf n h then s.stageReq h (s.declPoint h) else s) s
  let s := ((s.setRfld (cfgStage n) 1 1 (s.commitsWait n)).setRfld (cfgStage n) 2 1 1).setRfld (cfgStage n + 8) 0 32 g.serial
  let s := { s with jobs := s.jobs.filter (fun j => j.pkt.id != c.job.pkt.id) }
  s.post (c.job.reply stOk (s.reg (prt n 0x20)))

/-- The commits of partition `n` that wait for a boundary, in order, take effect there. -/
def State.commitBoundary (s : State) (n : Nat) : State :=
  let cs := (s.part n).commits.filter (fun c => c.t0.isNone)
  let s := s.modPart n (fun p => { p with commits := p.commits.filter (fun c => c.t0.isSome) })
  cs.foldl (fun s c => s.commitEffect n c) s

/-- A commit whose instant has come while hard work is admitted is refused, and the previous configuration stays live (R37,
R445). -/
def State.commitLate (s : State) (n : Nat) (c : Commit) : State :=
  let s := s.setRfld (cfgStage n) 1 1 (s.commitsWait n)
  { s with jobs := s.jobs.filter (fun j => j.pkt.id != c.job.pkt.id) }.post
    (c.job.reply stState (BitVec.ofNat 64 (s.pstate n)))

/-- `COMMIT_TAKES_EFFECT` (R445): the commit whose T0 has come. One that waits for a boundary takes effect in
`STEP_BOUNDARY`. -/
def execCommitTakesEffect (target : BitVec 3) (s : State) : Out :=
  let n := target.toNat
  let p := s.part n
  match p.commits.find? (fun c => match c.t0 with | some t => t ≤ s.devtime | none => false) with
  | some c =>
    if p.step.isSome then .next s
    else
      let t := s.setPart n { p with commits := p.commits.erase c }
      .next (if s.hardWork n then t.commitLate n c else t.commitEffect n c)
  | none => .next s

end Sys2Proof.Machine
end

