-- ==== Sys2Proof/Machine/Steps.lean ====
section
/-!
DEFINITION. Steps (R29-R37, R52-R55): boundaries, the audit (R407-R412), counter snapshots (R401-R404), the watchdog,
and the end of a step.
-/
namespace Sys2Proof.Machine

/-! ### Counters of a core (R177-R178, R198, R221, R401) -/

/-- The channels that hold ranges (R221). -/
def Core.chRange (k : Core) : Nat :=
  ((List.range 8).map (fun i =>
    let h := k.ch.toList.getD i Channel.reset
    if h.active && h.didx < h.store.length then 2 ^ i else 0)).foldl (· + ·) 0

/-- The scoreboard word (R221). -/
def Core.scoreWord (k : Core) : W64 := BitVec.ofNat 64 (k.mem.accs.length % 32 + k.mem.peak % 32 * 256 + k.chRange * 65536)

/-- The stream counters, message counters and performance counters of a core, in the order of R403. -/
def Core.strWords (k : Core) : List W64 := [k.cnt.srcEl, k.cnt.dstEl, k.cnt.dropEl, k.cnt.dstBytes]
def Core.msgWords (k : Core) : List W64 :=
  let c := k.mu.counts
  [c.out, c.inn, c.refused, c.wordsIn, c.wordsPop, c.wordsGone]
def Core.perfWords (k : Core) : List W64 :=
  let c := k.cnt
  [c.pcTmma, c.pcReissue, c.pcArray, c.pcVinstr, c.pcNird, c.pcNiwr, c.pcNirem, c.pcNiidle]

/-- Words as bytes. -/
def wordBytes (ws : List W64) : List Byte := ws.flatMap (fun w => toLE 8 w.toNat)

/-! ### Snapshots (R402-R404) -/

/-- A core block of a snapshot. -/
def State.coreBlock (s : State) (c : Nat) : List Byte :=
  if s.present c then
    let k := s.core c
    wordBytes (k.stall.toList ++ k.strWords ++ k.msgWords ++ [k.scoreWord, 0] ++ k.perfWords ++ [0, 0, 0, 0])
  else toLE 600 0 ++ toLE 8 1 ++ toLE 96 0

/-- The bytes of a snapshot of partition `n`, with its bytes 8-23. -/
def State.snapBytes (s : State) (n : Nat) (stepno time : W64) : List Byte :=
  let cs := s.sectCores n
  toLE 4 1 ++ toLE 2 n ++ toLE 2 cs.length ++
    wordBytes ([stepno, time, s.reg (prt n 0x70)] ++ (List.range 8).map (fun k => s.reg (0x20100 + n * 0x40 + 8 * k)) ++
      [s.reg (prt n 0xC0), s.reg (prt n 0xC8), s.reg (prt n 0xD0), s.reg (trc n 0x20)]) ++ toLE 128 0 ++
    cs.flatMap s.coreBlock

/-- The counters are latched at a boundary that is taken, or the boundary's snapshot is skipped. The snapshot of R35 step 1 is
latched as R402 settles it, in the cycle in which pennant 30 is set, with what the boundary has put in force (DEDUCED, log
124). -/
def State.latch (s : State) (n : Nat) (time : W64) : State :=
  if !(s.reg (trc n 0x28)).getLsbD 63 then s
  else if (s.part n).snap.isSome then s.satInc (trc n 0x30) 16 16
  else
    let no := s.reg (prt n 0x28)
    let b := s.snapBytes n no time
    s.modPart n (fun p => { p with snap := some (no.toNat, b) })

/-- Where snapshot buffer `j` of `size` bytes of partition `n` lies (R397). -/
def State.snapAddr (s : State) (n j size : Nat) : Nat := s.rfld (trc n 0x28) 0 43 + j * ((size + 4095) / 4096 * 4096)

/-- `SNAPSHOT_COMPLETE` (R402). -/
def execSnapshotComplete (part : BitVec 3) (s : State) : Out :=
  let n := part.toNat
  match (s.part n).snap with
  | some (no, b) =>
    let j := 1 - s.rfld (trc n 0x30) 0 1
    let s := (s.putBytes (s.snapAddr n j b.length) b).setReg (trc n 0x30)
      (BitVec.ofNat 64 (j + 2 + s.rfld (trc n 0x30) 16 16 * 65536 + no % 2 ^ 32 * 2 ^ 32))
    .next (s.modPart n (fun p => { p with snap := none }))
  | none => .next s

/-! ### The audit (R407-R411) -/

/-- The relations of one core that the model's counts decide: codes 1-3. -/
def State.auditCore (s : State) (c code : Nat) : Option Mismatch :=
  let k := s.core c
  let bad (want found : W64) : Option Mismatch :=
    if want = found then none else some ⟨BitVec.ofNat 8 code, BitVec.ofNat 10 c, want, found, 0⟩
  if code = 1 then
    bad (k.cnt.srcEl - k.cnt.dstEl - k.cnt.dropEl) (BitVec.ofNat 64 ((k.ch.toList.map Channel.held).foldl (· + ·) 0))
  else if code = 2 then
    bad (k.mu.counts.wordsIn - k.mu.counts.wordsPop - k.mu.counts.wordsGone) (BitVec.ofNat 64 (s.heldWords c))
  else bad (k.mx.ftIn - k.mx.ftOut) (BitVec.ofNat 64 k.mx.ftq.length)

/-- A relation between two numbers, of no one core: its failure, where they differ. -/
def differ (code want found ix : Nat) : Option Mismatch :=
  if want = found then none else some ⟨BitVec.ofNat 8 code, 0x3FF, BitVec.ofNat 64 want, BitVec.ofNat 64 found, BitVec.ofNat 16 ix⟩

/-- What the section nodes have counted for a barrier. -/
def State.nodeSum (s : State) (n b : Nat) : Nat :=
  ((List.range 8).map (fun k => AMap.get 0 s.tally.nodes (nodeKey n b k))).foldl (· + ·) 0

/-- The relation of code 4: what an `ARMED` barrier has counted is what its section nodes have, and the arrivals that wait for its
generation. -/
def State.auditBar (s : State) (n b : Nat) : Option Mismatch :=
  if s.barState n b ≠ 1 then none
  else
    match differ 4 (s.barArrived n b) (s.nodeSum n b) b with
    | some m => some m
    | none => differ 4 (s.barArrived n b) ((s.part n).bars.countP (fun a => a.bar == b && a.counted)) b

/-- The relation of code 5, per class. -/
def State.auditBerth (s : State) (n c : Nat) : Option Mismatch := differ 5 (AMap.get 0 s.tally.held (4 * n + c)) (s.heldBy n c) c

/-- The relation of code 6. -/
def State.auditMoor (s : State) (n : Nat) : Option Mismatch :=
  let want := s.reg (prt n 0xC0) - s.reg (prt n 0xC8) - s.reg (prt n 0xD0)
  let held := ((List.range (s.idxCount n)).filter (fun i =>
    s.idxState (s.idxBase n + i) == ixMoored || s.idxState (s.idxBase n + i) == ixRestoring)).length
  if want = BitVec.ofNat 64 held then none else some ⟨6, 0x3FF, want, BitVec.ofNat 64 held, 0⟩

/-- The relation of code 7, for a class and each step of the Sluice's window, from the step after the last boundary on. -/
def State.auditWeight (s : State) (n c : Nat) : Option Mismatch :=
  let cur := (s.part n).nextK
  let ws := AMap.get [] s.tally.weights n
  if ws.isEmpty && (s.part n).items.isEmpty then none
  else
    (List.range 256).findSome? (fun j =>
      let want := ((ws.filter (fun w => w.cls == c && w.weighs cur (cur + 1 + j) (cur + 256))).map (·.weight)).foldl (· + ·) 0
      differ 7 want (s.committed n c cur (cur + 1 + j)) (j + 1))

/-- The relations of codes 8 and 9. -/
def State.auditItems (s : State) (n : Nat) : Option Mismatch :=
  differ 8 (AMap.get 0 s.tally.out n)
    ((s.part n).items.length + s.compl.countP (fun c => c.ring / 64 == n && c.item && c.final)) 0
def State.auditEntries (s : State) (n : Nat) : Option Mismatch := differ 9 (AMap.get 0 s.tally.pend n) (s.entriesUsed n) 0

/-- The first failure of the audit of partition `n`: of the relations that two sides of the state decide, and of what the
audit finds elsewhere. No rule gives the sizes of the buffers of the routers, and no row moves an item from one to the next, so the
relation of code 10 is the operand's (DESIGN CHOICE, log 20). -/
def State.audit (s : State) (n : Nat) (found : Option Mismatch) : Option Mismatch :=
  let cs := s.partCores n
  let own := [([1, 2, 3] : List Nat).findSome? (fun code => cs.findSome? (fun c => s.auditCore c code)),
    (List.range 80).findSome? (s.auditBar n), (List.range 4).findSome? (s.auditBerth n), s.auditMoor n,
    (List.range 4).findSome? (s.auditWeight n), s.auditItems n, s.auditEntries n].findSome? id
  match own, found with
  | some m, some f => if f.check < m.check ∧ 1 ≤ f.check then some f else some m
  | some m, none => some m
  | none, some f => if 1 ≤ f.check ∧ f.check ≤ 10 then some f else none
  | none, none => none

/-- The seam queues (R407, R412): the free credits of each, and the lines that hold one, are 16. -/
def State.auditSeam (s : State) : Option Mismatch :=
  let lines := (List.range 8).flatMap (fun n => (s.part n).lines)
  (List.range 128).findSome? (fun k =>
    differ 0x81 16 (s.seamFree k + lines.countP (fun l => l.credit && seamKey l.src l.dir == k)) k)

/-- The words of `ERR_PART` or `ERR_DCONS` at an offset, but for bits 8-15 of the first. -/
def State.putMismatch (s : State) (o : Nat) (m : Mismatch) (step : Nat) : State :=
  let w := m.check.toNat + s.rfld o 8 8 * 256 + m.core.toNat * 65536 + step % 2 ^ 32 * 2 ^ 32
  (((s.setReg o (BitVec.ofNat 64 w)).setReg (o + 8) m.expect).setReg (o + 16) m.found).setReg (o + 24)
    (m.index.setWidth 64)

/-- The core of a failed relation: a core's counts, and a router, have one, be it core 1,023; no other relation has (R412). -/
def coreOf (m : Mismatch) : Option Nat :=
  if m.core ≠ 0x3FF ∨ ([1, 2, 3, 10, 0x84] : List Nat).contains m.check.toNat then some m.core.toNat else none

/-- A failed relation of state that no partition owns takes the device to `FAULT` (R412). -/
def State.devMismatch (s : State) (m : Mismatch) : State :=
  let core := coreOf m
  let s := (s.putMismatch 0x80300 m 0).errLog
    ⟨0xFE, 9, none, m.check.toNat, core, 0, 0, if m.check = 0x84 then m.index.toNat else 0⟩
  s.fault 9

/-- The partition becomes `HELD`, and the holds that wait for that complete (R339). -/
def State.becomeHeld (s : State) (n : Nat) : State :=
  let s := s.setPstate n psHeld
  let waiting := s.jobs.filter (fun j => j.kind == .hold n)
  let s := waiting.foldl (fun s j => s.post (j.reply stOk)) s
  { s with jobs := s.jobs.filter (fun j => j.kind != .hold n) }

/-- What a failed audit does (R411). -/
def State.consMismatch (s : State) (n : Nat) (m : Mismatch) : State :=
  let o := 0x80400 + 32 * n
  let s := (s.putMismatch o m (s.reg (prt n 0x28)).toNat).setRfld o 8 1 1
  let s := (s.becomeHeld n).breakCond n 2
  let core := coreOf m
  let s := s.errLog ⟨0xFE, 1, some n, m.check.toNat, core, 0, 0, if m.check = 4 ∨ m.check = 1 ∨ m.check = 10 then m.index.toNat else 0⟩
  (s.partCores n).foldl (fun s c => s.setPenn c 31) s

/-! ### Items at a boundary (R326-R327, R53-R55) -/

/-- Virtual address of the record of berth `b`. -/
def State.recAddr (s : State) (n b : Nat) : Nat := s.rfld (prt n 0xE0) 0 48 + (b - s.berthBase n) * 128

/-- The record of an item as it starts in step `k`. -/
def Item.record (i : Item) (k : Nat) : List Byte :=
  toLE 4 i.pkt.tag ++ toLE 1 i.cls ++ toLE 1 (i.pkt.num 1 1) ++ toLE 2 0 ++ toLE 8 (if i.cls = 3 then k else i.k0) ++
    toLE 4 i.steps ++ toLE 4 0 ++ toLE 8 i.promise.toNat ++ toLE 32 (i.pkt.num 32 32) ++ toLE 32 (i.pkt.num 64 32) ++
    toLE 32 0

/-- The exception code of a device write of partition `n` that fails at an address. -/
def State.devExc (s : State) (n va : Nat) : Nat :=
  if !(s.reg (prt n 0x88)).getLsbD 0 then excPage
  else match s.walk false n va with | .error e => e | .ok _ => excAccess

/-- An item starts in step `k`: its record is written and its berth runs; the flag says that it did (R326-R327). -/
def State.launch (s : State) (n k : Nat) (i : Item) : State × Bool :=
  match i.berth with
  | none => (s, false)
  | some b =>
    let a := s.recAddr n b
    let (s', ok) := s.devWrite n a (i.record k)
    if ok then ((s'.setItem { i with started := true, running := true }).setBerth n b ⟨.running, i.cls, none⟩, true)
    else
      let s := (((s'.giveBack i).finalItem i stAborted caRecord false).dropItem i).countErr 20 true
      (s.errLog ⟨20, 1, some n, s.devExc n a, none, 0, BitVec.ofNat 64 a, 0⟩, false)

/-- An item that has started goes on: `DONE` of its record is written. -/
def State.goOn (s : State) (n : Nat) (i : Item) : State :=
  let s := match i.berth with
    | some b => (s.devWrite n (s.recAddr n b + 20) (toLE 4 i.done)).1
    | none => s
  s.setItem { i with running := true }

/-- A hard item has a step at the boundary of step `k`. -/
def Item.due (i : Item) (k : Nat) : Bool := i.cls != 3 && !i.broken && (i.started || i.k0 ≤ k)

/-- A hard item at the boundary of step `k` (R35 step 5, R37). A restore that is not complete is a miss of the item
(R51 `T2_RESERVE`). -/
def State.hardStart (s : State) (n k : Nat) (i : Item) : State :=
  if i.cls = 3 ∨ i.broken then s
  else if i.started then s.goOn n i
  else if i.k0 ≤ k then
    match i.rest with
    | some r => if r.ended then (s.launch n k i).1 else s.setItem { i with causes := i.causes.set 4 0 }
    | none => (s.launch n k i).1
  else s

/-- Insertion in deadline order, behind equal deadlines. -/
def insItem (i : Item) : List Item → List Item
  | [] => [i]
  | j :: js => if i.deadline < j.deadline then i :: j :: js else j :: insItem i js

/-- The `BULK` queue in its order (R40, R53). -/
def State.bulkQueue (s : State) (n : Nat) : List Item :=
  ((s.part n).items.filter (fun i => i.cls == 3 && !i.broken)).foldl (fun l i => insItem i l) []

/-- Weight in the step so far, of all items and of `BULK` ones. -/
def State.stepWeight (s : State) (n : Nat) (bulk : Bool) : Nat :=
  (((s.part n).items.filter (fun i => i.running && (!bulk || i.cls == 3))).map (·.weight)).foldl (· + ·) 0

/-- A `BULK` item is placed in step `k`, or passed over (R54-R55). -/
def State.placeBulk (s : State) (n k : Nat) (i : Item) : State :=
  let ready := match i.rest with | some r => r.ended | none => true
  if !ready ∨ s.maxUnits n 3 < s.stepWeight n true + i.weight ∨ s.lastUnits n < s.stepWeight n false + i.weight then s
  else if i.started then s.goOn n i
  else
    match i.berth with
    | some _ => (s.launch n k i).1
    | none =>
      if s.maxBerths n 3 ≤ s.heldBy n 3 ∨ s.sharedBerths n < s.sharedUsed n + 1 then s
      else
        match s.freeBerth? n with
        | some b => (s.launch n k { i with berth := some b }).1
        | none => s

/-! ### Berths at a boundary (R35 step 4, R334, R285) -/

/-- An `OPEN_BERTH` takes effect. -/
def State.openNow (s : State) (n b : Nat) : State :=
  let x := s.berth n b
  let app := x.opening.getD []
  let s := s.setBerth n b ⟨.opened, x.cls, none⟩
  let a := s.blockAddr n b
  let s := (s.devWrite n (a + 2) (toLE 2 0)).1
  let s := (s.devWrite n (a + 8) (toLE 8 0)).1
  (s.devWrite n (a + 32) app).1

/-- Openings and closings take effect, and the accepted `MOOR`s begin their records. -/
def State.berthBoundary (s : State) (n : Nat) : State :=
  let mine := s.jobs.filter (fun j => j.pkt.part == n)
  let s := mine.foldl (fun (s : State) j =>
    match j.kind with
    | .openB b => (s.openNow n b).post { j.reply stOk with berth := b, kind := (s.berth n b).cls }
    | .closeB b => (s.moveBerth n b .free).post { j.reply stOk with berth := b, kind := (s.berth n b).cls }
    | _ => s) s
  let s := { s with jobs := s.jobs.filter (fun j => j.pkt.part != n || (match j.kind with
    | .openB _ => false
    | .closeB _ => false
    | _ => true)) }
  s.modPart n (fun p => { p with moors := p.moors.map (fun m => (m.1, true)) })

/-! ### The boundary (R30, R35) -/

/-- Index of boundary at its time. -/
def State.boundTime (s : State) (n k : Nat) : Nat := s.t0 n + k * s.period n

/-- Half `h` at boundary time `t`, an instant with a boundary of one of its partitions (R256): the pending change is
applied where it `may` be, or `DEFER` counts the instant once. The flag says that it was deferred. -/
def State.halfBoundary (s : State) (h : Nat) (t : W64) (may : Bool) : State × Bool :=
  let s := if s.halfBusy h || !may then s else s.applyPoint h
  if s.target h = s.live h then (s, false)
  else if (s.half h).deferAt = some t then (s, true)
  else ((s.satInc (halfop h) 16 16).setHalf h { s.half h with deferAt := some t }, true)

/-- Both halves of partition `n`. -/
def State.pointBoundary (s : State) (n : Nat) (t : W64) (may : Bool := true) : State × Bool :=
  ([0, 1] : List Nat).foldl (fun (r : State × Bool) h =>
    if r.1.holdsHalf n h then let q := r.1.halfBoundary h t may; (q.1, r.2 || q.2) else r) (s, false)

/-- The `BOUNDARY` record (R395). -/
def State.traceBoundary (s : State) (n k : Nat) (t : W64) (band : Nat) (started defer : Bool) : State :=
  s.traceUnitAt t (8 + n) [n] 0x12 (n + k % 2 ^ 64 * 2 ^ 8 + band * 2 ^ 72 + started.toNat * 2 ^ 80 + defer.toNat * 2 ^ 81)

/-- The lowest band that holds an occupancy and a weight (R34). -/
def bandFor (bs : List Band) (occ w : Nat) : Nat :=
  (bs.findIdx? (fun b => occ ≤ b.occ && w ≤ b.units)).getD (bs.length - 1)

/-- Step `k` starts at time `t` (R35 steps 5 and 6): its items, its band, its watchdog, pennant 30. The spec ties pennant 30 to
every boundary taken (R35, R173, R402) and to the start of a step (R34, R239, R395): the model sets it where a step starts (DESIGN
CHOICE, log 138). -/
def State.startStep (s : State) (n k : Nat) (t : W64) : State :=
  let s := (s.part n).items.foldl (fun s i => s.hardStart n k i) s
  let s := (s.bulkQueue n).foldl (fun s i => s.placeBulk n k i) s
  let run := (s.part n).items.filter (·.running)
  let w := (run.map (·.weight)).foldl (· + ·) 0
  let bands := match (s.part n).prog with | some g => g.bands | none => []
  let band := bandFor bands run.length w
  let s := s.modPart n (fun p => { p with
    step := some ⟨k, t, s.elapsed - (s.devtime - t), band, false, false, false, false⟩
    finalDone := false, finalSeen := [], link := LinkRun.reset, lateHold := false })
  let s := s.setReg (prt n 0x28) (BitVec.ofNat 64 k)
  let s := { s with ports := s.ports.map (fun (p : Nat × Port) => (p.1, { p.2 with stepRetrains := AMap.put p.2.stepRetrains n 0 })) }
  (s.partCores n).foldl (fun s c =>
    let s := s.modCore c (fun k => { k with traced := 0, mx := { k.mx with reissues := 0 } })
    (s.setPenn c 30).traceCore c 0 0x01 (k % 2 ^ 32 + band * 2 ^ 32)) s

/-- Step 2 of R35: the translation caches are emptied, staged values and commits take effect, and a partition that
waited for `RUN` becomes `RUNNING` (R446). -/
def State.configBoundary (s : State) (n : Nat) : State :=
  let s := (s.partCores n).foldl (fun s c => s.modCore c (fun k => { k with mem := { k.mem with tlb := [] } })) s
  let s := (s.applyStaged n).commitBoundary n
  if (s.part n).startWait ∧ s.dstate = dsRun then
    let s := s.modPart n (fun p => { p with startWait := false })
    if s.noHold n then s.setPstate n psRunning else s
  else s

/-- No step starts at boundary `k` that is taken. For the hard items that have one there condition 3 of R50 fails where a half is
not at its declared point, a restore that is not complete is a miss, and a hold after an overrun delays them (R51). -/
def State.noStart (s : State) (n k : Nat) (t : W64) (defer : Bool) : State :=
  let mark (b : Bool) (c : Nat) (l : List Nat) : List Nat := if b then l.set c 0 else l
  let off := !s.meetsDecl n
  let s := s.modPart n (fun p => { p with items := p.items.map (fun i =>
    if i.due k then
      let missed := !i.started && (match i.rest with | some r => !r.ended | none => false)
      { i with causes := mark p.lateHold 5 (mark missed 4 (mark off 3 i.causes)) }
    else i) })
  (s.latch n t).traceBoundary n k t 0 false defer

/-- A boundary that is taken. Where the audit fails nothing of steps 2-6 of R35 is done, so a change of a half waits (R411,
R256); a partition that such a hold keeps has boundaries all the same (DEDUCED, log 109). The seam queues are audited at every
boundary (R412). -/
def State.takeBoundary (s : State) (n k : Nat) (t : W64) (found : Option Mismatch) : State :=
  if let some m := s.auditSeam then s.devMismatch m
  else if s.consHold n then
    let (s, defer) := s.pointBoundary n t
    s.noStart n k t defer
  else
    match s.audit n found with
    | some m =>
      let (s, defer) := (s.consMismatch n m).pointBoundary n t false
      s.noStart n k t defer
    | none =>
      let (s, defer) := (s.configBoundary n).pointBoundary n t
      let s := s.berthBoundary n
      if s.pstate n ≠ psRunning ∨ s.dstate ≠ dsRun ∨ !s.meetsDecl n then s.noStart n k t defer
      else
        let s := (s.startStep n k t).latch n t
        s.traceBoundary n k t (match (s.part n).step with | some r => r.band | none => 0) true defer

/-- `STEP_BOUNDARY` (R29-R37): the next boundary of a partition that is not `EMPTY`, once `DEVTIME` has reached it. -/
def execStepBoundary (part : BitVec 3) (found : Option Mismatch) (s : State) : Out :=
  let n := part.toNat
  let k := (s.part n).nextK
  let t := BitVec.ofNat 64 (s.boundTime n k)
  if s.pstate n = psEmpty ∨ s.dstate = dsFault ∨ s.devtime.toNat < s.boundTime n k then .next s
  else
    let s := s.modPart n (fun p => { p with nextK := k + 1 })
    if (s.part n).step.isSome then
      let (s, defer) := s.pointBoundary n t
      .next (s.traceBoundary n k t 0 false defer)
    else .next (s.takeBoundary n k t found)

/-! ### The end of a step (R30, R49, R52, R425) -/

/-- The step of partition `n` is over: `PRT_WDOG` holds its duration and band. -/
def State.stepOver (s : State) (n : Nat) (r : StepRun) : State :=
  let s := (s.setRfld (prt n 0x70) 0 32 (min (s.elapsed - r.began).toNat (2 ^ 32 - 1))).setRfld (prt n 0x70) 32 4 r.band
  s.modPart n (fun p => { p with step := none })

/-- An item whose step has ended at the final barrier. -/
def State.itemStepDone (s : State) (i : Item) : State :=
  if i.cancelled ∨ i.steps ≤ i.done + 1 then s.endItem i
  else s.setItem { i with done := i.done + 1, running := false }

/-- An item of a step that no final barrier ended stays admitted, and never runs again (R52, R425); one that was cancelled
while the step ran completes at the step's end (R328; DEDUCED, log 91). -/
def State.breakItem (n : Nat) (s : State) (i : Item) : State :=
  if i.cancelled then
    let s := (s.finalItem i stAborted caCancel true).dropItem i
    match i.berth with | some b => s.moveBerth n b .opened | none => s
  else s.setItem { i with running := false, broken := true }

/-- The items of a step that no final barrier ended. -/
def State.breakItems (s : State) (n : Nat) : State := ((s.part n).items.filter (·.running)).foldl (State.breakItem n) s

/-- A step in which a core was quarantined has ended: the partition becomes `HELD`, with `QUAR_HOLD` (R425). -/
def State.quarEnd (s : State) (n : Nat) (r : StepRun) : State :=
  if r.quar then s.setRfld (0x80400 + 32 * n) 9 1 1 else s

/-- `STEP_END` (R30, R425): the final barrier has been released; or a quarantine broke the step, and every present core
has reached the final barrier or observed its `BROKEN` outcome. -/
def execStepEnd (part : BitVec 3) (s : State) : Out :=
  let n := part.toNat
  let p := s.part n
  match p.step with
  | none => .next s
  | some r =>
    if r.broken then
      if (s.partCores n).all p.finalSeen.contains then .next ((((s.stepOver n r).breakItems n).becomeHeld n).quarEnd n r) else .next s
    else if p.finalDone then
      let s := s.stepOver n r
      let s := ((s.part n).items.filter (·.running)).foldl (fun s i => s.itemStepDone i) s
      let s := s.modPart n (fun p => { p with lateHold := r.late })
      if r.late ∨ s.pstate n = psDraining ∨ r.quar then .next ((s.becomeHeld n).quarEnd n r) else .next s
    else .next s

/-! ### The watchdog (R52) -/

/-- The step in progress that has not ended `ns` ns after its boundary. -/
def State.passed (s : State) (n ns : Nat) : Option StepRun :=
  match (s.part n).step with
  | some r => if (s.part n).finalDone ∨ (s.elapsed - r.began).toNat < ns then none else some r
  | none => none

/-- The `OVERRUN` record of a threshold (R395). -/
def State.traceOverrun (s : State) (n k code : Nat) : State :=
  s.traceUnit (8 + n) [n] 0x13 (n + code * 2 ^ 8 + k % 2 ^ 64 * 2 ^ 16)

/-- `BAND_OVERRUN`. -/
def execBandOverrun (part : BitVec 3) (s : State) : Out :=
  let n := part.toNat
  let ns := match (s.part n).step, (s.part n).prog with
    | some r, some g => (g.bands.getD r.band ⟨0, 0, 0⟩).ns
    | _, _ => 0
  match s.passed n ns with
  | some r =>
    if r.banded then .next s
    else
      let s := (s.satInc (prt n 0x70) 40 16).modPart n (fun p => { p with step := some { r with banded := true } })
      .next (s.traceOverrun n r.k 0)
  | none => .next s

/-- `OVERRUN`: the Sluice refuses the partition from here, and it is held when the step ends. The step of its items overran B
(R51). -/
def execOverrun (part : BitVec 3) (s : State) : Out :=
  let n := part.toNat
  match s.passed n (s.declB n) with
  | some r =>
    if r.late then .next s
    else
      let s := (s.setRfld (prt n 0x70) 56 1 1).modPart n (fun p => { p with step := some { r with late := true } })
      let s := s.modPart n (fun p => { p with items := p.items.map (fun i =>
        if i.running then { i with causes := i.causes.set 5 0 } else i) })
      .next (s.traceOverrun n r.k 1)
  | none => .next s

/-- A thread of partition `n` that runs and has not arrived at the final barrier is to take `WATCHDOG` (R52, R99): where it
waits, at once (R102). One that is stopped or halted takes none, then or later: the spec does not say (DESIGN CHOICE,
log 104). -/
def State.wdogThread (s : State) (fb c : Nat) (t : BitVec 2) : State :=
  let k := s.ctl c t
  if k.stopped ∨ k.halted ∨ (s.thread c t).barPend.getLsbD fb then s
  else
    let s := s.modThread c t (fun x => { x with wdog := true })
    if (s.thread c t).waitsOpen && s.coreRuns c then (s.takeEvent c t).getD s else s

def State.wdogCore (s : State) (n c : Nat) : State :=
  let fb := match (s.part n).prog with | some g => g.finalBar | none => 0
  ([0, 1, 2, 3] : List (BitVec 2)).foldl (fun (s : State) t => s.wdogThread fb c t) s

/-- `WDOG_FIRED`: the step counts as ended. -/
def execWdogFired (part : BitVec 3) (s : State) : Out :=
  let n := part.toNat
  match s.passed n (s.period n) with
  | some r =>
    let s := ((s.setRfld (prt n 0x70) 57 1 1).modPart n (fun p => { p with wdogHold := true })).traceOverrun n r.k 2
    let s := (s.partCores n).foldl (fun s c => s.wdogCore n c) s
    .next ((((s.stepOver n r).breakItems n).becomeHeld n).quarEnd n r)
  | none => .next s

end Sys2Proof.Machine
end

