-- ==== Sys2Proof/Machine/Moorings.lean ====
section
/-!
DEFINITION. Moorings (R281-R291): the checks of `MOOR`, records, restores, `UNMOOR`.
-/
namespace Sys2Proof.Machine

/-! ### The page list of a berth (R280) -/

/-- Address of entry `i` of the page list of berth `b`; the entries in use, none where the block cannot be read. -/
def State.pageEntryAt (s : State) (n b i : Nat) : Nat := s.blockAddr n b + 64 + 16 * i
def State.pageList (s : State) (n b : Nat) : Option (List (BitVec 128)) :=
  match s.devRead n (s.blockAddr n b + 2) 2 with
  | some w =>
    let es := (List.range (ofLE w)).map (fun i => s.devRead n (s.pageEntryAt n b i) 16)
    if es.all (·.isSome) then some (es.map (fun e => BitVec.ofNat 128 (ofLE (e.getD [])))) else none
  | none => none

/-- A page-list entry obeys the field rules of R285. -/
def pageEntryOk (e : BitVec 128) : Bool :=
  fld e 49 15 == 0 && fld e 96 32 == 0 && eLen e % 64 == 0 && eLen e ≤ 65536 && !(eZero e && eAddr e != 0)

/-- The address that the third check of R285 reports for entry `i`, if it fails. -/
def State.pageBad (s : State) (n b i : Nat) (e : BitVec 128) : Option Nat :=
  if !pageEntryOk e then some (s.pageEntryAt n b i)
  else if eZero e then none
  else s.devBad n (eAddr e) (eLen e) .read true

/-- The address that the third check of R285 reports. A block that cannot be read fails at its byte 2. -/
def State.moorBad (s : State) (n b : Nat) : Option Nat :=
  match s.pageList n b with
  | none => some (s.blockAddr n b + 2)
  | some es =>
    if s.bpages n < es.length then some (s.blockAddr n b + 2)
    else es.zipIdx.findSome? (fun (e, i) => s.pageBad n b i e)

/-! ### Records (R284) -/

/-- 4 KiB units of a page. -/
def pageUnits (e : BitVec 128) : Nat := if eZero e then 0 else (eLen e + 4095) / 4096
def recUnits (es : List (BitVec 128)) : Nat := 1 + (es.map pageUnits).foldl (· + ·) 0

/-- The length table of a record. -/
def lenTable (es : List (BitVec 128)) : List Byte :=
  es.flatMap (fun e => toLE 4 (eLen e + if eZero e then 2 ^ 31 else 0))

/-- The bytes of the pages, none where one cannot be read from tier 1 any longer (R290). -/
def State.pageData (s : State) (n : Nat) (es : List (BitVec 128)) : Option (List (List Byte)) :=
  let ds := es.map (fun e =>
    if eZero e then some []
    else if (s.devBad n (eAddr e) (eLen e) .read true).isSome then none
    else s.devRead n (eAddr e) (eLen e))
  if ds.all (·.isSome) then some (ds.map (·.getD [])) else none

/-- The header unit of a record. -/
def recHeader (n cls : Nat) (now : W64) (blk : List Byte) (es : List (BitVec 128)) (data : List Byte) : List Byte :=
  let head := toLE 4 0x524F4F4D ++ toLE 2 1 ++ toLE 2 es.length ++ toLE 4 (recUnits es) ++ toLE 1 cls ++ toLE 1 n ++ toLE 2 0 ++
    (blk.drop 8).take 8 ++ toLE 8 now.toNat ++ (blk.drop 32).take 32
  let tab := lenTable es
  let all := head ++ toLE 4 (crc32c (head ++ tab)).toNat ++ toLE 4 (crc32c data).toNat ++ toLE 56 0 ++ tab
  all ++ toLE (4096 - all.length) 0

/-- Page data padded to whole units. -/
def padUnits (d : List Byte) : List Byte := d ++ toLE ((4096 - d.length % 4096) % 4096) 0

/-- Every line of a range of device physical addresses has its home in service. -/
def State.rangeUp (s : State) (pa len : Nat) : Bool := (spans pa len).all (fun x => s.homeUp x.1)

/-- The `MOOR` ends: its berth becomes `FREE`, and its final completion is formed (R285, R290). -/
def State.moorEnd (s : State) (n b i : Nat) (j : Job) (units : Nat) (ok : Bool) : State :=
  let s := if ok then ({ (s.setIdx i ixMoored) with moorUnits := AMap.put s.moorUnits i units }).countRec n 0xC0
    else s.recLost n i
  let cls := (s.berth n b).cls
  let s := s.moveBerth n b .free
  s.post { j.reply (if ok then stOk else stAborted) (BitVec.ofNat 64 units) (if ok then 0 else caMoor) with
    moved := units
    berth := b, kind := cls }

/-- The first line of pages whose data is uncorrectable. -/
def State.pagePoison (s : State) (n : Nat) (es : List (BitVec 128)) : Option Nat :=
  es.findSome? (fun e =>
    if eZero e then none
    else (spans (eAddr e) (eLen e)).findSome? (fun x =>
      match s.devAddr n x.1 .read with
      | some pa => if inTier1 pa && s.poisoned pa x.2 then some pa else none
      | none => none))

/-- Page reads of a `MOOR` met uncorrectable data: counted, logged, and a fault of the partition (R290, R413, R415). -/
def State.pageFault (s : State) (n : Nat) (es : List (BitVec 128)) : State :=
  match s.pagePoison n es with
  | some pa => ((s.countErr 11 true).errLog ⟨11, 1, some n, excEcc, none, 0, BitVec.ofNat 64 pa, pa / 4096 % 8⟩).breakCond n 1
  | none => s

/-- `MOOR_RECORD_COMPLETE` (R285, R290): the oldest record that the partition writes is complete, or failed. -/
def execMoorRecordComplete (part : BitVec 3) (s : State) : Out :=
  let n := part.toNat
  match (s.part n).moors.find? (·.2) with
  | some (j, m) =>
    let s := s.modPart n (fun p => { p with moors := p.moors.erase (j, m) })
    match j.kind with
    | .moor b i =>
      let units := s.moorSize n b
      let es := s.pageList n b
      let data := es.bind (s.pageData n)
      match es, data, s.devRead n (s.blockAddr n b) 64 with
      | some es, some ds, some blk =>
        let a := s.slotAddr n i
        let body := ds.flatMap padUnits
        if s.rangeUp a (4096 + body.length) then
          let s := s.putBytes (a + 4096) body
          let s := s.putBytes a (recHeader n (s.berth n b).cls s.devtime blk es (ds.flatMap id))
          .next (s.moorEnd n b i j (recUnits es) true)
        else .next (s.moorEnd n b i j units false)
      | _, _, _ => .next ((s.pageFault n (es.getD [])).moorEnd n b i j units false)
    | _ => .next s
  | none => .next s

/-! ### Restores (R287-R290) -/

/-- Bytes of tier 2, none where the home fails or the data is uncorrectable. -/
def State.tierRead (s : State) (pa len : Nat) : Option (List Byte) :=
  if s.rangeUp pa len && !s.poisoned pa len then some (Memory.readBytes s.mem pa len) else none

/-- Length of page `i` and whether it is `ZERO`, from a header unit. -/
def recLen (h : List Byte) (i : Nat) : Nat := ofLE ((h.drop (128 + 4 * i)).take 4) % 2 ^ 17
def recZero (h : List Byte) (i : Nat) : Bool := (ofLE ((h.drop (128 + 4 * i)).take 4)).testBit 31
def recPageUnits (h : List Byte) (i : Nat) : Nat := if recZero h i then 0 else (recLen h i + 4095) / 4096

/-- The header checks of R287 step 2. -/
def recHeadOk (n bpages units : Nat) (h : List Byte) : Bool :=
  let np := img h 6 2
  img h 0 4 == 0x524F4F4D && img h 4 2 == 1 && img h 13 1 == n && np ≤ bpages &&
    img h 64 4 == (crc32c (h.take 64 ++ (h.drop 128).take (4 * np))).toNat &&
    img h 8 4 == units && img h 8 4 == 1 + ((List.range np).map (recPageUnits h)).foldl (· + ·) 0

/-- The pages of a record, in order: offset of its data in the slot, and its length. -/
def recPages (h : List Byte) : List (Nat × Nat × Bool) :=
  ((List.range (img h 6 2)).foldl (fun (r : List (Nat × Nat × Bool) × Nat) i =>
    (r.1 ++ [(r.2, recLen h i, recZero h i)], r.2 + 4096 * recPageUnits h i)) ([], 4096)).1

/-- The page-list entry of page `i` (R287 step 5). -/
def restEntry (frame i len : Nat) (zero : Bool) : List Byte :=
  toLE 8 ((if zero then 0 else frame + i * 65536) + if zero then 2 ^ 48 else 0) ++ toLE 8 len

/-- How a restore fails: a check or a translation, or a read of tier 2 that returns uncorrectable data, with its first line
(R290). -/
inductive RestFail where
  | check
  | poison (pa : Nat)
deriving DecidableEq, Repr

/-- The first line of a range of tier 2 whose read returns uncorrectable data: its port is out of service, or it is poisoned
(R278, R413). -/
def State.badLine (s : State) (pa len : Nat) : Nat :=
  match (spans pa len).find? (fun x => !s.homeUp x.1 || s.poisoned x.1 x.2) with
  | some x => x.1
  | none => pa

/-- Pages of a record, each with its number, copied into a frame: the data so far (R287 step 3). Frames map to tier 1 with `R`
and `W` (R279). -/
def State.restPages (s : State) (n a frame : Nat) (data : List Byte) : List ((Nat × Nat × Bool) × Nat) →
    State × Except RestFail (List Byte)
  | [] => (s, .ok data)
  | ((off, len, zero), i) :: ps =>
    if zero then s.restPages n a frame data ps
    else
      let f := frame + i * 65536
      match s.tierRead (a + off) len with
      | none => (s, .error (.poison (s.badLine (a + off) len)))
      | some d =>
        if (s.devBad n f len .write true).isSome || (s.devBad n f len .read true).isSome then (s, .error .check)
        else
          match s.devWrite n f d with
          | (t, true) => t.restPages n a frame (data ++ d) ps
          | (t, false) => (t, .error .check)

/-- Writes of the device to a partition in order, up to the first that fails. -/
def State.devWrites (s : State) (n : Nat) : List (Nat × List Byte) → State × Bool
  | [] => (s, true)
  | (va, bs) :: ws =>
    match s.devWrite n va bs with
    | (t, true) => t.devWrites n ws
    | (t, false) => (t, false)

/-- Steps 2-6 of a restore into berth `b`: the state, and how it failed. -/
def State.restoreInto (s : State) (n b idx : Nat) : State × Option RestFail :=
  let a := s.slotAddr n idx
  match s.tierRead a 4096 with
  | none => (s, some (.poison (s.badLine a 4096)))
  | some h =>
    if !recHeadOk n (s.bpages n) (AMap.get 1 s.moorUnits idx) h then (s, some .check)
    else
      let frame := s.frameAddr n b
      match s.restPages n a frame [] (recPages h).zipIdx with
      | (t, .error e) => (t, some e)
      | (t, .ok data) =>
        if img h 68 4 ≠ (crc32c data).toNat then (t, some .check)
        else
          let blk := t.blockAddr n b
          let list := (recPages h).zipIdx.flatMap (fun p => restEntry frame p.2 p.1.2.1 p.1.2.2)
          match t.devWrites n [(blk + 64, list), (blk + 2, toLE 2 (img h 6 2)), (blk + 8, (h.drop 16).take 8),
              (blk + 32, (h.drop 32).take 32)] with
          | (u, true) => (u, none)
          | (u, false) => (u, some .check)

/-- Uncorrectable data that a restore read is counted and logged, and is a fault of the partition (R290, R413, R415). -/
def State.recordFault (s : State) (n : Nat) : RestFail → State
  | .poison pa => ((s.countErr 12 true).errLog ⟨12, 1, some n, excEcc, none, 0, BitVec.ofNat 64 pa, tier2Port pa⟩).breakCond n 1
  | .check => s

/-- The item of partition `n` whose restore is first in commitment order among those that have not ended. -/
def State.restItem (s : State) (n : Nat) : Option (Item × Restore) :=
  (s.part n).items.findSome? (fun i => match i.rest with
    | some r => if r.ended then none else some (i, r)
    | none => none)

/-- `RESTORE_START` (R288): one at a time, in commitment order, not before its planned start. -/
def execRestoreStart (part : BitVec 3) (s : State) : Out :=
  match s.restItem part.toNat with
  | some (i, r) =>
    if r.started ∨ s.devtime < r.startAt then .next s
    else .next (s.setItem { i with rest := some { r with started := true } })
  | none => .next s

/-- `RESTORE_END` (R287, R290). -/
def execRestoreEnd (part : BitVec 3) (s : State) : Out :=
  let n := part.toNat
  match s.restItem n with
  | some (i, r) =>
    match i.berth with
    | some b =>
      if !r.started then .next s
      else
        match s.restoreInto n b r.idx with
        | (s, none) => .next (((s.setIdx r.idx ixEmpty).countRec n 0xC8).setItem { i with rest := some { r with ended := true } })
        | (s, some e) =>
          let s := ((s.recordFault n e).setIdx r.idx ixMoored).moveBerth n b .free
          .next ((s.finalItem i stAborted caRestore true).dropItem i)
    | none => .next s
  | none => .next s

/-! ### Commands (R285, R286) -/

/-- `MOOR`, in the order of its checks. -/
def State.moorCmd (s : State) (p : Packet) : State :=
  let n := p.part
  let b := p.num 16 2
  let i := p.num 20 2
  let x := s.berth n b
  let fail (st : Nat) (d : Nat) : State := s.post (s.replyTo p st s.devtime (BitVec.ofNat 64 d))
  if !s.inBerths n b then s.post (p.reply stBounds s.devtime 16)
  else if !s.inIdx n i then fail stBounds 20
  else if x.st ≠ .opened then fail stState (if x.opening.isSome then 1 else x.st.num)
  else if s.idxState i ≠ ixEmpty then fail stState (s.idxState i)
  else
    match s.moorBad n b with
    | some a => fail stBounds (16 + a % 2 ^ 48 * 65536)
    | none =>
      let j : Job := ⟨p, s.devtime, .moor b i⟩
      let s := (s.setBerth n b { x with st := .closing }).setIdx i ixWriting
      let s := s.modPart n (fun q => { q with moors := q.moors ++ [(j, false)] })
      s.post { j.reply stOk with final := false, berth := b, kind := x.cls }

/-- `UNMOOR`. -/
def State.unmoorCmd (s : State) (p : Packet) : State :=
  let n := p.part
  let i := p.num 20 2
  if !s.inIdx n i then s.post (p.reply stBounds s.devtime 20)
  else if s.idxState i ≠ ixMoored then s.post (p.reply stState s.devtime (BitVec.ofNat 64 (s.idxState i)))
  else ((s.setIdx i ixEmpty).countRec n 0xD0).post (p.reply stOk s.devtime)

end Sys2Proof.Machine
end

