-- ==== Sys2Proof/Machine/Timebase.lean ====
section
/-!
DEFINITION. The time base (R383-R389): ticks, sets, `PPS_IN` and `PPS_OUT`; the trace writer (R397-R398); the audit of
shared state (R412); scrubbing (R278).
-/
namespace Sys2Proof.Machine

/-! ### `DEVTIME` (R383-R384) -/

/-- The rate adjustment in force, in parts per 10^9 (`TIM_RATE`). -/
def State.ppb (s : State) : Int := (BitVec.ofNat 32 (s.rfld 0x60030 0 32)).toInt

/-- What one `CLK_TB` cycle adds, in units of 2^-32 ns. -/
def tickAdd (ppb : Int) : Nat := (2 ^ 32 + ppb * 2 ^ 32 / 1000000000).toNat

/-- A half whose partitions are all `EMPTY` takes the point that waited for `VGOOD`, once the 4 µs are over (R457). -/
def State.goodPoint (s : State) (h : Nat) : State :=
  if (s.half h).window ∧ s.elapsed.toNat = (s.half h).vselAt.toNat + 4000 then s.settleHalf h else s

/-- `DEVTIME_TICK`: one `CLK_TB` cycle, in every state but `OFF`. -/
def execDevtimeTick (s : State) : Out :=
  if s.dstate = dsOff then .next s
  else
    let f := s.frac.toNat + tickAdd s.ppb
    let s : State := { s with
      devtime := s.devtime + BitVec.ofNat 64 (f / 2 ^ 32), frac := BitVec.ofNat 32 f, elapsed := s.elapsed + 1 }
    .next ((s.goodPoint 0).goodPoint 1)

/-- The first boundary of partition `n` that a value of `DEVTIME` has not passed. -/
def State.firstK (s : State) (n t : Nat) : Nat := (t - s.t0 n + s.period n - 1) / s.period n

/-- `DEVTIME` is moved (R384): boundaries up to the new value are passed, those ahead of it lie ahead, and the
acceptance of `PPS_IN` edges restarts. -/
def State.setTime (s : State) (v : W64) : State :=
  let s := { s with devtime := v, frac := 0, sync := { s.sync with
    ppsEdge := none, ppsGood := none, ppsRun := 0, set := some (s.elapsed, s.devtime) } }
  (List.range 8).foldl (fun s n =>
    if s.pstate n = psEmpty then s else s.modPart n (fun p => { p with nextK := s.firstK n v.toNat })) s

/-! ### Records of the time base (R395-R396) -/

/-- A record of the time base for every ring that takes its type. -/
def State.traceTime (s : State) : State :=
  s.traceUnit 3 (List.range 8) 0x15 (s.rfld 0x50020 4 2 + s.rfld 0x60008 3 1 * 4 + s.rfld 0x50020 32 32 * 2 ^ 8)

/-! ### `PPS_IN` (R387-R388) -/

/-- `PPS_LOCKED` takes a value; a change is traced. -/
def State.setPpsLocked (s : State) (b : Bool) : State :=
  if s.rfld 0x60008 3 1 = b.toNat then s else (s.setRfld 0x60008 3 1 b.toNat).traceTime

/-- The error of an edge, in (-5 * 10^8, 5 * 10^8]. -/
def ppsError (edge offset : Nat) : Int :=
  let m := (edge % 1000000000 + 1000000000 - offset % 1000000000) % 1000000000
  if 500000000 < m then (m : Int) - 1000000000 else m

/-- The rate that removes an error within a second, within ±50,000 (DEDUCED, log 21). -/
def ppsRate (e : Int) : Int := max (-50000) (min 50000 (-e))

/-- An edge is accepted. -/
def State.ppsAccept (s : State) : State :=
  let e := ppsError s.devtime.toNat (s.rfld 0x60028 0 30)
  let run := if e.natAbs ≤ 20 then s.sync.ppsRun + 1 else 0
  let s := { s with sync := { s.sync with ppsGood := some s.devtime, ppsGoodAt := s.elapsed, ppsRun := run } }
  let s := (s.setRfld 0x60020 0 32 (BitVec.ofInt 32 e).toNat).traceUnit 3 (List.range 8) 0x16 (BitVec.ofInt 32 e).toNat
  let s := if s.isSource ∧ s.rfld 0x60008 0 1 = 1 then s.setRfld 0x60030 0 32 (BitVec.ofInt 32 (ppsRate e)).toNat else s
  if 3 ≤ run then s.setPpsLocked true else if 100 < e.natAbs then s.setPpsLocked false else s

/-- `DEVTIME` before a set in the present `CLK_TB` cycle. -/
def State.setNow (s : State) : Option W64 := s.sync.set.bind (fun x => if x.1 = s.elapsed then some x.2 else none)

/-- An edge of `PPS_IN` is latched with a value of `DEVTIME`. -/
def State.ppsLatch (s : State) (v : W64) : State :=
  { s.setReg 0x60018 v with sync := { s.sync with ppsEdge := some s.elapsed } }

/-- `PPS_IN_EDGE`. One in the cycle of a set is latched with the value from before it, and not accepted (R388). -/
def execPpsInEdge (s : State) : Out :=
  if s.rfld 0x60008 1 1 = 0 then .next s
  else if let some v := s.setNow then .next ((s.ppsLatch v).satInc 0x60020 32 16)
  else
    let early : Bool := match s.sync.ppsEdge with
      | some t => s.elapsed.toNat < t.toNat + 500000000
      | none => false
    if early then .next (s.satInc 0x60020 32 16)
    else
      let s := s.ppsLatch s.devtime
      let ok : Bool := match s.sync.ppsGood with
        | some g => g.toNat + 999000000 ≤ s.devtime.toNat && s.devtime.toNat ≤ g.toNat + 1001000000
        | none => true
      if ok then .next s.ppsAccept else .next (s.satInc 0x60020 32 16)

/-- `PPS_LOCK_TIMEOUT`: 3 s with no accepted edge. -/
def execPpsLockTimeout (s : State) : Out :=
  if s.sync.ppsGoodAt.toNat + 3000000000 ≤ s.elapsed.toNat then .next ({ s with sync := { s.sync with ppsRun := 0 } }.setPpsLocked false) else .next s

/-- `PPS_OUT_EDGE` (R389): the pin rises as `DEVTIME` passes the phase of the second, for `WIDTH_US`. -/
def execPpsOutEdge (s : State) : Out :=
  let m := (s.devtime.toNat % 1000000000 + 1000000000 - s.rfld 0x60028 0 30) % 1000000000
  if s.rfld 0x60008 2 1 = 1 ∧ (s.dstate = dsHold ∨ s.dstate = dsRun) ∧ m ≤ 1 then
    .next { s with pins := { s.pins with ppsUntil := some (s.elapsed + BitVec.ofNat 64 (1000 * s.rfld 0x60028 32 16)) } }
  else .next s

/-- The level of `PPS_OUT`. -/
def State.ppsOut (s : State) : Bool :=
  s.rfld 0x60008 2 1 == 1 && (s.dstate == dsHold || s.dstate == dsRun) &&
    (match s.pins.ppsUntil with | some t => s.elapsed < t | none => false)

/-! ### The trace writer (R398) -/

/-- Record `r` of partition `n` is written to its ring. -/
def State.traceWrite (s : State) (n : Nat) (r : BitVec 256) : State :=
  let prod := (s.reg (trc n 0x10)).toNat
  let s := s.putBytes (s.rfld (trc n 0) 0 43 + 32 * (prod % 2 ^ s.rfld (trc n 8) 0 5)) (toLE 32 r.toNat)
  s.setReg (trc n 0x10) (BitVec.ofNat 64 (prod + 1))

/-- The ring has space, and its memory takes a write. -/
def State.traceRoom (s : State) (n : Nat) : Bool :=
  let log := s.rfld (trc n 8) 0 5
  let prod := (s.reg (trc n 0x10)).toNat
  let a := s.rfld (trc n 0) 0 43 + 32 * (prod % 2 ^ log)
  prod - (s.reg (trc n 0x18)).toNat < 2 ^ log && inTiers a 32 && s.homeUp a

/-- The `TRACE_LOST` record that is due in the ring of partition `n` (R395, R398). -/
def State.traceLost (s : State) (n : Nat) : State :=
  let q := AMap.get 0 s.unitSeq 4
  let x := traceRecord s.devtime s.devid 4 true 0 q 0x18 (s.part n).trcLost
  let s := { s with unitSeq := AMap.put s.unitSeq 4 (q + 1) }
  (s.traceWrite n x).modPart n (fun p => { p with trcLost := 0 })

/-- `TRACE_RECORD_WRITE`: the writer takes the oldest record of a partition, after the `TRACE_LOST` that is due. -/
def execTraceRecordWrite (part : BitVec 3) (s : State) : Out :=
  let n := part.toNat
  let p := s.part n
  match p.trcPend with
  | [] => if p.trcLost ≠ 0 ∧ s.rfld (trc n 8) 5 1 = 1 ∧ s.traceRoom n then .next (s.traceLost n) else .next s
  | r :: rest =>
    if !s.traceRoom n then .next ((s.modPart n (fun p => { p with trcPend := rest })).traceLose n)
    else if p.trcLost ≠ 0 then .next (s.traceLost n)
    else .next ((s.modPart n (fun p => { p with trcPend := rest })).traceWrite n r)

/-! ### Shared state (R412) and scrubbing (R278) -/

/-- `DEVICE_CONSERVATION_AUDIT`: CP1 audits the seam queues; what it finds in the routers, the hub attachments and the Towpath root
is the operand's (DESIGN CHOICE, log 20). -/
def execDeviceConservationAudit (found : Option Mismatch) (s : State) : Out :=
  if !s.boot.held ∨ s.dstate = dsFault then .next s
  else
    match s.auditSeam, found with
    | some m, _ => .next (s.devMismatch m)
    | none, some m => if 0x81 ≤ m.check ∧ m.check ≤ 0x84 then .next (s.devMismatch m) else .next s
    | none, none => .next s

/-- `SCRUB_ACCESS`: one word of tier 1 or line of tier 2; `last` ends the pass. -/
def execScrubAccess (pa : W64) (ecc : Ecc) (last : Bool) (s : State) : Out :=
  let a := pa.toNat
  if (inTier1 a ∨ inTier2 a) ∧ s.homeUp a ∧ dsBoot ≤ s.dstate ∧ s.dstate ≠ dsFault then
    let s := if s.poisoned (unitBase a) 1 then s else s.eccEvent a ecc
    if last then
      let lo := if inTier1 a then 32 else 48
      .next (s.setRfld 0x40010 lo 16 (s.rfld 0x40010 lo 16 + 1))
    else .next s
  else .next s

end Sys2Proof.Machine
end

