-- ==== Sys2Proof/Machine/Remote.lean ====
section
/-!
DEFINITION. What arrives from other devices: remote accesses (R366-R369), messages, posts (R371-R373), barrier items
(R375), and items in transit (R364).
-/
namespace Sys2Proof.Machine

/-! ### Export checks (R366, R367) -/

/-- The permission that a remote access needs of an export entry, as a mask of its bits. -/
def needR : Nat := 2
def needW : Nat := 4
def needRWA : Nat := 14

/-- Export entry `e` of partition `n` admits a range. -/
def State.exportOk (s : State) (n e pa len need : Nat) : Bool :=
  let o := 0x54000 + n * 0x100 + e * 0x10
  s.rfld o 0 1 == 1 && (s.rfld o 0 4 &&& need) == need && s.rfld o 12 31 * 4096 ≤ pa &&
    pa + len ≤ (s.rfld (o + 8) 12 31 + 1) * 4096

/-- Partition `n` takes part in remote traffic. -/
def State.fabOpen (s : State) (n : Nat) : Bool := (s.reg (prt n 0x88)).getLsbD 1 && s.pstate n != psEmpty

/-- The range lies in one memory: a tier, or the populated half of an LM window. -/
def inMemory (pa len : Nat) : Bool :=
  inTiers pa len || (inLm pa && (pa - lmBase) % 0x100000 + len ≤ 0x80000)

/-- The checks of a remote access to `len` bytes: the device physical address, or the code of the `ERR`. -/
def State.remCheck (s : State) (off len need : Nat) : Except (BitVec 4) Nat :=
  if s.dstate ≠ dsRun then .error errNotrun
  else if off / 2 ^ 43 % 16 ≠ 0 then .error errPerm
  else
    let pa := off % 2 ^ 43
    if inLm pa ∧ !s.present (lmCore pa) then .error errAbsent
    else if inMemory pa len &&
        (List.range 8).any (fun n => s.fabOpen n && (!inLm pa || s.partOf (lmCore pa) == some n) &&
          (List.range 16).any (fun e => s.exportOk n e pa len need)) then .ok pa
    else .error errPerm

/-- An access that its home refuses: the spec names no code for it (`Config.errCode`). -/
def State.homeErr (s : State) (r : RemIn) : State :=
  let s : State := { s with free := s.free + 1 }
  s.fabSend (.err r (Config.errCode s.free))

/-- `REMOTE_READ` (R367, R368). One that reaches the LM of a parked core waits until that is clocked (R26). -/
def execRemoteRead (r : RemIn) (len : Nat) (ecc : Ecc) (s : State) : Out :=
  match s.remCheck r.off.toNat len needR with
  | .error e => .next (s.fabSend (.err r e))
  | .ok pa =>
    let y := s.homeRead pa len ecc
    if !s.memRuns pa then .next s
    else if y.2.2 then .next (y.1.fabSend (.err r errPoison)) else .next (y.1.fabSend (.data r y.2.1))

/-- `REMOTE_WRITE` (R367, R368). -/
def execRemoteWrite (r : RemIn) (bytes : List Byte) (s : State) : Out :=
  match s.remCheck r.off.toNat bytes.length needW with
  | .error e => .next (s.fabSend (.err r e))
  | .ok pa => if !s.memRuns pa then .next s else if s.homeUp pa then .next ((s.homeWrite pa bytes).fabSend (.ack r)) else .next (s.homeErr r)

/-- `REMOTE_AMO` (R229, R367, R368). -/
def execRemoteAmo (r : RemIn) (op : BitVec 4) (w32 : Bool) (opnd exp : W64) (ecc : Ecc) (s : State) : Out :=
  let n := if w32 then 4 else 8
  if 9 < op.toNat then .next s
  else
    match s.remCheck r.off.toNat n needRWA with
    | .error e => .next (s.fabSend (.err r e))
    | .ok pa =>
      let y := s.homeRead pa n ecc
      if !s.memRuns pa then .next s
      else if y.2.2 then .next (y.1.fabSend (.err r errPoison))
      else
        let old := ofLE y.2.1
        .next ((y.1.homeWrite pa (toLE n (amoNew op w32 old opnd exp))).fabSend (.data r y.2.1))

/-- `REMOTE_MSG` (R367): the message goes on over the Towpath, and `MESSAGE_ARRIVAL` answers it. -/
def execRemoteMsg (r : RemIn) (dst : BitVec 10) (tag : BitVec 16) (time : W64) (words : List W32) (s : State) : Out :=
  let d := dst.toNat
  let open_ := match s.partOf d with | some n => s.fabOpen n | none => false
  if s.dstate ≠ dsRun then .next (s.fabSend (.err r errNotrun))
  else if !s.present d then .next (s.fabSend (.err r errAbsent))
  else if !open_ then .next (s.fabSend (.err r errPerm))
  else
    let ws := words.take 8
    let m : Msg := ⟨deliveredHeader r.core.toNat r.dev.toNat r.thr.toNat true false tag.toNat ws.length, time, ws⟩
    .next { s with msgs := s.msgs ++ [⟨s.nextMsg, .fabric r, d, m⟩], nextMsg := s.nextMsg + 1 }

/-! ### Posts (R372, R373) -/

/-- Offset of post ring `i`'s register. -/
def prng (i o : Nat) : Nat := 0x58000 + 0x20 * i + o

/-- The header slot of a post's record, and its payload, padded to whole slots. -/
def postRecord (r : RemIn) (chan : BitVec 3) (tag : W32) (time : W64) (bytes : List Byte) : List Byte :=
  let slots := 1 + (bytes.length + 63) / 64
  toLE 1 1 ++ toLE 1 0 ++ toLE 2 slots ++ toLE 4 bytes.length ++ toLE 8 time.toNat ++ toLE 4 r.dev.toNat ++
    toLE 2 r.core.toNat ++ toLE 1 chan.toNat ++ toLE 1 0 ++ toLE 4 tag.toNat ++ toLE 36 0 ++ bytes ++
    toLE (64 * (slots - 1) - bytes.length) 0

/-- A `PAD` record over `n` slots. -/
def postPad (n : Nat) : List Byte := toLE 2 0 ++ toLE 2 n ++ toLE (64 * n - 4) 0

/-- The post unit of ring `i` places a post, or refuses it. -/
def State.placePost (s : State) (i : Nat) (r : RemIn) (chan : BitVec 3) (tag : W32) (time : W64) (bytes : List Byte) : State :=
  let base := s.rfld (prng i 0) 0 43
  let size := 2 ^ s.rfld (prng i 0) 48 5
  let ctl := s.rfld (prng i 8) 0 43
  let y := s.homeRead ctl 16 .good
  if y.2.2 then s.fabSend (.err r errPoison)
  else
    let prod := ofLE (y.2.1.take 8)
    let cons := ofLE (y.2.1.drop 8)
    let rec_ := postRecord r chan tag time bytes
    let slots := rec_.length / 64
    let tail := size - prod % size
    let pad := if slots ≤ tail then 0 else tail
    if size < (prod + 2 ^ 64 - cons) % 2 ^ 64 + pad + slots then
      (s.setRfld (prng i 0x10) 32 32 (s.rfld (prng i 0x10) 32 32 + 1)).fabSend (.answer r false)
    else
      let a := base + 64 * ((prod + pad) % size)
      let up := ((spans (base + 64 * (prod % size)) (64 * pad)) ++ spans a rec_.length).all (fun p => s.homeUp p.1)
      if !up then s.homeErr r
      else
        let s := if pad = 0 then s else s.putBytes (base + 64 * (prod % size)) (postPad pad)
        let s := (s.putBytes a rec_).homeWrite ctl (toLE 8 (prod + pad + slots))
        (s.setRfld (prng i 0x10) 0 32 (s.rfld (prng i 0x10) 0 32 + 1)).fabSend (.answer r true)

/-- `POST_PLACEMENT` (R366, R373). -/
def execPostPlacement (r : RemIn) (chan : BitVec 3) (tag : W32) (time : W64) (bytes : List Byte) (s : State) : Out :=
  let off := r.off.toNat
  let i := off / 4096 % 64
  if s.dstate ≠ dsRun then .next (s.fabSend (.err r errNotrun))
  else if off / 2 ^ 43 % 16 ≠ 1 ∨ off / 2 ^ 18 % 2 ^ 25 ≠ 0 ∨ off % 4096 ≠ 0 ∨ s.rfld (prng i 0) 56 1 = 0 then
    .next (s.fabSend (.err r errPerm))
  else .next (s.placePost i r chan tag time (bytes.take 4032))

/-! ### Fabric barriers (R374, R375) -/

/-- The fabric barriers with a group tag: partition and barrier. -/
def State.groupBars (s : State) (group : Nat) : List (Nat × Nat) :=
  (List.range 8).flatMap (fun n => ((List.range 16).map (64 + ·)).filterMap (fun b =>
    if s.fbarOn n b && s.rfld (fbarOff n b) 0 16 == group then some (n, b) else none))

/-- A child has reported its share of the present generation complete: noted, whether or not this device has armed the barrier
yet. -/
def State.barReport (s : State) (n b dev : Nat) : State :=
  let known := (b, s.rfld (fbarOff n b) 0 16, dev)
  s.modPart n (fun p => { p with
    barKnown := if p.barKnown.contains known then p.barKnown else p.barKnown ++ [known]
    barKids := AMap.put p.barKids b (s.fbarKids n b ++ [dev]) })

/-- A `BAR` item from a device reaches barrier `b` of partition `n` (R375). What the root sends to every device passes down the
tree, also where this device has applied the outcome already. -/
def State.barItem (s : State) (n b dev : Nat) (kind : BarKind) (par : Bool) : State :=
  let now := s.barGen n b % 2 == 1
  let up := !s.fbarRoot n b && s.rfld (fbarOff n b + 8) 0 17 == dev
  match kind with
  | .complete => if par = now ∧ !(s.fbarKids n b).contains dev then (s.barReport n b dev).barCheck n b else s
  | .release => if up ∧ par = now ∧ s.barState n b = 1 then (s.sendKids n b (s.fbarKids n b) .release).barRelease n b else s
  | k =>
    let state := match k with | .timeout => 2 | _ => 3
    let open_ : Bool := s.barState n b == 1 || (s.barState n b == 2 && state == 3)
    if s.fbarRoot n b then (if open_ then s.barFail n b state else s)
    else if up then
      let s := s.sendKids n b (s.fbarAll n b) k
      if open_ then s.barEnd n b state else s
    else if open_ then s.sendParent n b k
    else s

/-- `FABRIC_BARRIER_EVENT` (R375). -/
def execFabricBarrierEvent (dev : BitVec 17) (group : BitVec 16) (kind : BarKind) (par : Bool) (s : State) : Out :=
  .next ((s.groupBars group.toNat).foldl (fun s p => s.barItem p.1 p.2 dev.toNat kind par) s)

/-! ### Transit (R361-R364) -/

/-- The item expects an answer, so that an error is answered to its origin. -/
def transitAsks (t : Transit) : Bool := 1 ≤ t.ty.toNat && t.ty.toNat ≤ 5

/-- The header of a request in transit, as its answer needs it. -/
def transitHead (t : Transit) : RemIn := ⟨t.req, t.org, t.core, t.thr, t.off, t.chan == 4, t.cc, t.stream⟩

/-- The dimension of a port's direction, if it has one. -/
def State.portDim (s : State) (p : Nat) : Option Nat :=
  ((List.range 8).find? (fun d => (s.dirMask d).contains p)).map (· / 2)

/-- An item leaves the receive buffers of a port, which owes its credits and returns them (R353). -/
def State.rxLeave (s : State) (p : Nat) (t : Transit) : State :=
  match (s.port p).rx.find? (fun r => r.item.ty == t.ty && r.item.req == t.req && r.item.org == t.org && r.item.dst == t.dst) with
  | none => s
  | some r =>
    let n := credits r.item.size
    let o := fabp p (0x40 + 8 * r.cls)
    ((s.modPort p (fun x => { x with rx := x.rx.erase r, owed := AMap.put x.owed r.cls (AMap.get 0 x.owed r.cls + n) })).setRfld
      o 16 16 (s.rfld o 16 16 - n)).pumpAll p

/-- Two items are of one flow: one channel, from one origin core to one destination (R365). -/
def sameFlow (a b : Transit) : Bool := a.chan == b.chan && a.org == b.org && a.core == b.core && a.dst == b.dst

/-- No item of the flow of an item stands before it in the receive buffers of the port (R365). -/
def Port.mayLeave (x : Port) (t : Transit) : Bool := (x.rx.find? (fun r => sameFlow r.item t)).all (fun r => r.item == t)

/-- `TRANSIT_FORWARD`: the item goes on in dimension order, or the device finds that it cannot. It leaves the receive buffer
that holds it, not before those of its flow that arrived earlier (R353, R361-R365). -/
def execTransitForward (port : BitVec 4) (item : Transit) (s : State) : Out :=
  if s.pstat port.toNat ≠ pUp ∨ item.dst.toNat = s.devid ∨ !(s.port port.toNat).mayLeave item then .next s
  else
    match s.route item.dst.toNat item.core.toNat item.off.toNat with
    | some (p, d) =>
      let late := s.crosses d || (item.dl && s.portDim port.toNat == some (d / 2))
      .next ((s.portTake p (.transit item) [{ item with dl := late }]).rxLeave port.toNat item)
    | none =>
      .next ((if transitAsks item then s.fabSend (.err (transitHead item) errNoroute) else s).rxLeave port.toNat item)

end Sys2Proof.Machine
end

