-- ==== Sys2Proof/Machine/Ports.lean ====
section
/-!
DEFINITION. Fabric ports (R344-R359, R379): states, link-level retry, retrains, training, credits, failure; time
across the fabric (R377-R378).
-/
namespace Sys2Proof

/-- The fields of a flit, and its check. -/
def Flit.half (f : Flit) (i : Nat) : Nat := Machine.ofLE ((f.bytes.drop (2 * i)).take 2)
def Flit.seq (f : Flit) : Nat := f.half 0 % 4096
def Flit.ctl (f : Flit) : Bool := (f.half 0).testBit 12
def Flit.ack (f : Flit) : Nat := f.half 1 % 4096
def Flit.nak (f : Flit) : Bool := (f.half 1).testBit 12
def Flit.cls (f : Flit) : Nat := f.half 2 % 16
def Flit.cret (f : Flit) : Nat := f.half 2 / 16 % 1024
def Flit.items (f : Flit) : List Byte := (f.bytes.drop 8).take 244
def Flit.crcOk (f : Flit) : Bool := f.bytes.length == 256 && Machine.ofLE (f.bytes.drop 252) == (Machine.crc32c (f.bytes.take 252)).toNat

end Sys2Proof

namespace Sys2Proof.Machine

/-- A field of a register, `k` higher, no further than its largest value. -/
def State.satAdd (s : State) (off lo w k : Nat) : State := s.setRfld off lo w (min (s.rfld off lo w + k) (2 ^ w - 1))

/-! ### Modes and lanes (R345, R357) -/

/-- The lanes of the widest mode, up to a limit, whose lanes are all good; of equal ones the lowest. -/
def pickLanes (good : BitVec 4) (limit : Nat) : BitVec 4 :=
  (([0b1111, 0b0011, 0b1100, 0b0001, 0b0010, 0b0100, 0b1000] : List (BitVec 4)).find?
    (fun l => laneMode l ≤ limit && good &&& l == l)).getD 0

def State.maxMode (s : State) (p : Nat) : Nat := s.rfld (fabp p 8) 0 2
def State.portEn (s : State) (p : Nat) : Bool := s.rfld (fabp p 8) 2 1 == 1
def State.light (s : State) (p : Nat) : Bool := s.rfld (fabp p 0) 9 1 == 1

/-! ### Port states (R348) -/

/-- A dark or disabled port, or one without a peer, trains once R348 lets it; in the first `TRAIN` pass, with a device section in hand (R428). -/
def State.tryTrain (s : State) (p : Nat) : State :=
  if s.pstat p = pDown ∧ s.portEn p ∧ s.light p ∧
      ((s.dstate = dsTrain ∧ (s.boot.held ∨ s.boot.trained.isSome)) ∨ s.dstate = dsRun) then s.portState p pTraining 0
  else s

/-! ### Failure (R379) -/

/-- An item of this device is lost. A request is answered with `PORTDOWN`, with pennant 31, once the clock of its core runs
(R26); the `SEND` of a `MSG` that is discarded is unanswered (R185). -/
def State.lostOwn (s : State) (i : FabItem) : State :=
  match i.req?.bind (fun q => s.remReqs.find? (fun r => r.id == q)) with
  | some r =>
    match r.org with
    | .send c t => s.modThread c t (fun y => match y.wait with
      | some (.send _ _ _ .flying ev) => y.sendPhase .lost ev
      | _ => y)
    | o =>
      if s.halfRuns (coreHalf o.core) then (s.answer r (.err errPortdown)).setPenn o.core 31
      else { s with unrouted := s.unrouted ++ [(r.id, errPortdown)] }
  | none => s

/-- An item lost in a port. -/
def State.lostItem (s : State) (i : PortItem) : State :=
  match i with
  | .own i => s.lostOwn i
  | .transit t => if 1 ≤ t.ty.toNat ∧ t.ty.toNat ≤ 4 then s.fabSend (.err (transitHead t) errPortdown) else s

/-- Port `p` carries an edge of the tree of barrier `b` of partition `n`: to the parent, or to a child (R375). -/
def State.edgeOn (s : State) (p n b : Nat) : Bool :=
  s.fbarOn n b && (s.barState n b == 1 || s.barState n b == 2) &&
    ((if s.fbarRoot n b then [] else [s.rfld (fbarOff n b + 8) 0 17]) ++ s.fbarAll n b).any (fun d =>
      match s.route d 0 0 with | some (q, _) => q == p | none => false)

/-- The barriers, by partition, whose tree has an edge on a port. -/
def State.edges (s : State) (p : Nat) : List (Nat × Nat) :=
  (List.range 8).flatMap (fun n => ((List.range 16).filter (fun b => s.edgeOn p n (64 + b))).map (fun b => (n, 64 + b)))

/-- An end of a failed tree edge sends a break to the root; the root breaks the group (R375). -/
def State.edgeBreak (s : State) (x : Nat × Nat) : State :=
  if s.fbarRoot x.1 x.2 then s.barFail x.1 x.2 3 else s.sendParent x.1 x.2 .broken

/-- The items that a port holds: those to be sent or acknowledged, and those in its receive buffers, which are all in
transit. -/
def Port.held (x : Port) : List PortItem := x.begun.map (·.item) ++ x.queue.map (·.item) ++ x.rx.map (fun r => .transit r.item)

/-- The port as it leaves service: it holds nothing. -/
def Port.emptied (x : Port) : Port :=
  { x with
    queue := [], begun := [], out := [], kept := [], rx := [], rxPart := [], owed := []
    retrainAt := none, nakAt := none, trained := false }

/-- The port leaves service into a state, and every item that it holds is answered or discarded; the trees that it carried
are broken. -/
def State.portLost (s : State) (p st cause : Nat) : State :=
  let held := (s.port p).held
  let cut := s.edges p
  let s := (List.range 9).foldl (fun (s : State) v => s.setRfld (fabp p (0x40 + 8 * v)) 16 16 0) (s.modPort p Port.emptied)
  let s := (s.portState p st cause).countErr 15 true
  let s := s.errLog ⟨15, 1, none, (Config.portCause cause).toNat, none, 0, 0, p⟩
  cut.foldl State.edgeBreak (held.foldl State.lostItem s)

/-- The kinds of failure of R379. -/
def failRetrains : Nat := 1
def failTimeout : Nat := 2
def failLanes : Nat := 3
def failConservation : Nat := 4
def failDisable : Nat := 5

/-- The loss of its light, by which a port goes `DOWN` (R348). -/
def failLight : Nat := 6

def State.portFail (s : State) (p cause : Nat) : State := s.portLost p pFailed cause

/-- A write of `ENABLE` = 0. -/
def State.portDisable (s : State) (p : Nat) : State :=
  if s.pstat p = pDown ∧ (s.port p).held = [] then s else s.portLost p pDown failDisable

/-! ### Retrain (R356, R359) -/

/-- A retrain counts in every partition's step: a second one in one step breaks condition 1 for a program that uses the
port. -/
def State.countRetrain (s : State) (p : Nat) : State :=
  let s := (s.satInc (fabp p 0) 32 16).countErr 15 false
  (List.range 8).foldl (fun (s : State) n =>
    if (s.part n).step.isNone then s
    else
      let k := AMap.get 0 (s.port p).stepRetrains n + 1
      let s := s.modPort p (fun x => { x with stepRetrains := AMap.put x.stepRetrains n k })
      if 2 ≤ k ∧ s.portUse n p ≠ 0 then s.breakCond n 1 else s) s

/-- An `UP` port enters `RETRAIN`; `wide` for one that software asked for. -/
def State.startRetrain (s : State) (p : Nat) (wide : Bool) : State :=
  if s.pstat p ≠ pUp then s
  else
    let s := s.modPort p (fun x => { x with retrainAt := some s.elapsed, retrainWide := wide, nakAt := none, naks := [] })
    (s.countRetrain p).portState p pRetrain 0

/-- A flit number lies in the window of those sent and not acknowledged, its end included. -/
def Port.inWindow (x : Port) (n : Nat) : Bool := (n + 4096 - x.txAck) % 4096 ≤ x.unacked

/-- A number lies before `n` in the window. -/
def Port.before (x : Port) (k n : Nat) : Bool := (k + 4096 - x.txAck) % 4096 < (n + 4096 - x.txAck) % 4096

/-- Every flit before number `n` is acknowledged: it leaves the replay buffer, and items wholly in such flits the port. -/
def Port.ackTo (x : Port) (n : Nat) : Port :=
  if x.inWindow n then
    { x with
      begun := x.begun.filter (fun q => match q.last with | some l => !x.before l n | none => true)
      kept := x.kept.filter (fun k => !x.before k.seq n)
      txAck := n % 4096 }
  else x

/-- A replay starts, if anything is to be sent again: the flits of the replay buffer leave again, in order. -/
def State.replay (s : State) (p : Nat) : State :=
  if (s.port p).kept = [] then s
  else (s.port p).kept.foldl (fun s k => s.sendKept p k) ((s.satInc (fabp p 0x18) 0 32).countErr 15 false)

/-- Credits of a class in use in the receive buffer: `RXUSED` (R350). -/
def State.rxUsed (s : State) (p v : Nat) : Nat := s.rfld (fabp p (0x40 + 8 * v)) 16 16

/-- The credits of every class agree, in both directions (R358): what may be spent, what the buffer holds, and what is in
flight make the class's `SIZE`; credits that a port owes are in flight. -/
def State.creditsAgree (s : State) (p : Nat) (v : CreditView) : Bool :=
  (List.range 9).all (fun k =>
    s.avail p k + v.tx.held.getD k 0 + v.tx.moving.getD k 0 == s.credSize p k &&
      v.rx.held.getD k 0 + s.rxUsed p k + AMap.get 0 (s.port p).owed k + v.rx.moving.getD k 0 == s.credSize p k)

/-- `RETRAIN_COMPLETE` (R356-R358): the lanes that are good, the number that the peer expects next, and the peer's view of
the credits, which the two ends exchange in link-control flits. A number that the replay buffer does not hold is a retrain
that failed (DEDUCED, log 23). -/
def execRetrainComplete (port : BitVec 4) (good : BitVec 4) (expect : BitVec 12) (view : CreditView) (s : State) : Out :=
  let p := port.toNat
  if s.pstat p ≠ pRetrain then .next s
  else
    let x := s.port p
    let limit := if x.retrainWide then s.maxMode p else min (s.maxMode p) (laneMode x.lanes)
    let lanes := pickLanes good limit
    let s := s.setRfld (fabp p 0) 5 4 good.toNat
    if lanes = 0 then .next (s.portFail p failLanes)
    else if !s.creditsAgree p view then .next (s.portFail p failConservation)
    else if !x.inWindow expect.toNat then
      if 4 ≤ x.fails + 1 then .next (s.portFail p failRetrains)
      else .next (s.setPort p { x with fails := x.fails + 1, retrainAt := some s.elapsed })
    else
      let s := s.setPort p { x.ackTo expect.toNat with
        lanes := lanes, fails := 0, retrainAt := none, nakSent := false, nakAt := none, naks := [] }
      .next ((((s.sendControl p false).portState p pUp 0).replay p).pumpAll p)

/-- `RETRAIN_TIMEOUT` (R379): a retrain exceeds 100 µs. -/
def execRetrainTimeout (port : BitVec 4) (s : State) : Out :=
  let p := port.toNat
  match (s.port p).retrainAt with
  | some t => if s.pstat p = pRetrain ∧ t.toNat + 100000 ≤ s.elapsed.toNat then .next (s.portFail p failTimeout) else .next s
  | none => .next s

/-- `LANE_LOCK_LOSS` (R356): a lane of the mode in an `UP` port; a lane that drops during a retrain narrows it (R382). -/
def execLaneLockLoss (port : BitVec 4) (lane : BitVec 2) (s : State) : Out :=
  let p := port.toNat
  let t := s.setRfld (fabp p 0) (5 + lane.toNat) 1 0
  if !s.portLit p then .next s
  else if s.pstat p = pUp ∧ (s.port p).lanes.getLsbD lane.toNat then .next (t.startRetrain p false)
  else .next t

/-! ### Link-level retry (R346, R347, R351) -/

/-- Bytes of the item that begins a list of bytes, by its header. -/
def itemLen (b : List Byte) : Nat :=
  let ty := (b.headD 0).toNat % 16
  16 + (if 1 ≤ ty ∧ ty ≤ 5 then 16 else 0) + ofLE ((b.drop 2).take 2)

/-- The item that begins a list of bytes (R354). -/
def itemOf (b : List Byte) : Transit :=
  let num (i n : Nat) : Nat := ofLE ((b.drop i).take n)
  let ty := num 0 1 % 16
  let ext := 1 ≤ ty ∧ ty ≤ 5
  { ty := BitVec.ofNat 4 ty
    chan := BitVec.ofNat 3 (num 1 1)
    dl := (num 1 1).testBit 3
    dst := BitVec.ofNat 17 (num 4 3)
    org := BitVec.ofNat 17 (num 7 3)
    core := BitVec.ofNat 10 (num 10 2)
    cc := (num 10 2).testBit 10
    thr := BitVec.ofNat 2 (num 10 2 / 2 ^ 11)
    stream := BitVec.ofNat 3 (num 10 2 / 2 ^ 13)
    req := BitVec.ofNat 32 (num 12 4)
    off := if ext then BitVec.ofNat 64 (num 16 8 % 2 ^ 47) else 0
    op := if ext then BitVec.ofNat 17 (num 16 8 / 2 ^ 47) else 0
    time := if ext then BitVec.ofNat 64 (num 24 8) else 0
    payload := (b.drop (if ext then 32 else 16)).take (num 2 2) }

/-- The whole items of the bytes that have arrived, `fuel` at most, and the bytes left of one that goes on in the next flit. A
byte 0 in place of a header begins the rest of a flit that holds no more items (DESIGN CHOICE, log 121). -/
def takeItems : Nat → List Byte → List Transit × List Byte
  | 0, b => ([], b)
  | fuel + 1, b =>
    if b.headD 0 = 0 then ([], [])
    else if b.length < 16 ∨ b.length < itemLen b then ([], b)
    else
      let r := takeItems fuel (b.drop (itemLen b))
      (itemOf b :: r.1, r.2)

/-- An item has arrived: one that passes through takes its credits in the receive buffer; one for this device enters the mesh
at once, and its credits are owed (R353, R355, R364; DESIGN CHOICE, log 122). -/
def State.rxArrive (s : State) (p : Nat) (t : Transit) : State :=
  let n := credits t.size
  if t.dst.toNat = s.devid then s.modPort p (fun x => { x with owed := AMap.put x.owed t.cls (AMap.get 0 x.owed t.cls + n) })
  else (s.modPort p (fun x => { x with rx := x.rx ++ [⟨t.cls, t⟩] })).setRfld (fabp p (0x40 + 8 * t.cls)) 16 16 (s.rxUsed p t.cls + n)

/-- A flit that cannot be accepted: it is counted, and a `NAK` is sent once per gap. -/
def State.flitBad (s : State) (p : Nat) : State :=
  let s := s.satInc (fabp p 0x18) 32 32
  if (s.port p).nakSent then s
  else (s.modPort p (fun x => { x with nakSent := true, nakAt := some s.elapsed })).sendControl p true

/-- A good flit in sequence is accepted: its credits may be spent, its items arrive. -/
def State.flitGood (s : State) (p : Nat) (f : Flit) : State :=
  let x := s.port p
  let r := takeItems 64 (x.rxPart ++ f.items)
  let s := s.setPort p { x with rxSeq := (x.rxSeq + 1) % 4096, nakSent := false, nakAt := none, rxPart := r.2 }
  let s := if f.cls ≤ 8 then s.setAvail p f.cls (min (s.credSize p f.cls) (s.avail p f.cls + f.cret)) else s
  r.1.foldl (fun s t => s.rxArrive p t) s

/-- What the `ACK` and `NAK` of a good flit say. -/
def State.flitAck (s : State) (p : Nat) (f : Flit) : State :=
  let s := s.modPort p (fun x => x.ackTo ((f.ack + 1) % 4096))
  if f.nak then
    let s := s.modPort p (fun x => { x with naks := x.naks.filter (fun t => s.elapsed.toNat < t.toNat + 10000) ++ [s.elapsed] })
    if 16 ≤ (s.port p).naks.length then s.startRetrain p false else s.replay p
  else s

/-- The codewords of what a port receives are counted (R346, R350). -/
def State.fecCount (s : State) (p : Nat) (f : Flit) : State :=
  ((s.satAdd (fabp p 0x10) 0 32 f.fecCorr).satAdd (fabp p 0x10) 32 32 f.fecUnc).satAdd (0x80100 + 8 * 15) 0 32 f.fecCorr

/-- `KFL_FLIT_RECEIVE` (R346, R347, R351): a port that receives counts codewords; one in `UP` takes the flit. -/
def execKflFlitReceive (port : BitVec 4) (flit : Flit) (s : State) : Out :=
  let p := port.toNat
  if !s.portLit p then .next s
  else
    let s := s.fecCount p flit
    if s.pstat p ≠ pUp then .next s
    else if flit.fecUnc ≠ 0 ∨ !flit.crcOk ∨ (!flit.ctl ∧ flit.seq ≠ (s.port p).rxSeq) then .next (s.flitBad p)
    else .next (((if flit.ctl then s else s.flitGood p flit).flitAck p flit).pumpAll p)

/-- `LINK_ACK_TIMER` (R351): nothing else has been sent for 200 ns; a link-control flit carries the acknowledgement. -/
def execLinkAckTimer (port : BitVec 4) (s : State) : Out :=
  let p := port.toNat
  if s.pstat p = pUp ∧ (s.port p).lastTx.toNat + 200 ≤ s.elapsed.toNat then .next (s.sendControl p false) else .next s

/-- `NAK_UNANSWERED` (R356): for 2 µs. -/
def execNakUnanswered (port : BitVec 4) (s : State) : Out :=
  let p := port.toNat
  match (s.port p).nakAt with
  | some t => if t.toNat + 2000 ≤ s.elapsed.toNat then .next (s.startRetrain p false) else .next s
  | none => .next s

/-- `CREDIT_CHECK` (R358). -/
def execCreditCheck (port : BitVec 4) (tx rx : CreditSide) (s : State) : Out :=
  let p := port.toNat
  if s.pstat p = pUp ∧ !s.creditsAgree p ⟨tx, rx⟩ then .next (s.portFail p failConservation) else .next s

/-! ### Training and light (R348, R349) -/

/-- The identity check of R349. -/
def State.identityOk (s : State) (p peer peerDir : Nat) : Bool :=
  match (List.range 8).find? (fun d => (s.dirMask d).contains p) with
  | none => false
  | some d =>
    let i := d / 2
    let n := s.dimSize i
    let want := if d % 2 = 0 then (devCoord s.devid i + 1) % n else (devCoord s.devid i + n - 1) % n
    peerDir == (if d % 2 = 0 then d + 1 else d - 1) && devCoord peer i == want &&
      (List.range 4).all (fun j => j == i || devCoord peer j == devCoord s.devid j)

/-- The port as training leaves it in `UP`: numbers begin anew, and items that had started begin again. -/
def Port.fresh (x : Port) (lanes : BitVec 4) : Port :=
  { x with
    queue := x.begun.map (fun q => { q with todo := 0, last := none }) ++ x.queue
    begun := [], out := [], kept := [], txSeq := 0, txAck := 0, rxSeq := 0, rxPart := [], rx := [], owed := []
    nakSent := false, nakAt := none, naks := [], fails := 0, lanes := lanes, trained := true, timeTx := none }

/-- `PORT_TRAINING_COMPLETE` (R348, R349). -/
def execPortTrainingComplete (port : BitVec 4) (good : BitVec 4) (peer : BitVec 17) (peerPort : BitVec 4) (peerDir : BitVec 3)
    (s : State) : Out :=
  let p := port.toNat
  let lanes := pickLanes good (s.maxMode p)
  if s.pstat p ≠ pTraining ∨ lanes = 0 then .next s
  else
    let s := ((s.setRfld (fabp p 0) 5 4 good.toNat).setRfld (fabp p 0) 10 17 peer.toNat).setRfld (fabp p 0) 27 4 peerPort.toNat
    if !s.identityOk p peer.toNat peerDir.toNat then .next (s.portState p pMiswired 0)
    else
      let s := (List.range 9).foldl (fun (s : State) v => (s.setAvail p v (s.credSize p v)).setRfld (fabp p (0x40 + 8 * v)) 16 16 0) s
      .next ((((s.modPort p (fun x => x.fresh lanes)).sendControl p false).portState p pUp 0).pumpAll p)

/-- `PORT_TRAINING_RETRY` (R348): 5 ms have passed without `UP`. A port with a peer trains, its lanes not yet locked; one
without a peer is `DOWN` (DESIGN CHOICE, log 123). -/
def execPortTrainingRetry (port : PortPeer) (s : State) : Out :=
  let p := port.port.toNat
  if s.pstat p = pTraining then
    let s := s.setRfld (fabp p 0) 5 4 0
    .next (if port.peer then s else s.portState p pDown 0)
  else .next (if port.peer then s.tryTrain p else s)

/-- `LIGHT_CHANGE` (R348, R350): a port without light is `DOWN`, and what it holds is answered as R379 says (DEDUCED, log
123). -/
def execLightChange (port : BitVec 4) (on : Bool) (s : State) : Out :=
  let p := port.toNat
  let t := s.setRfld (fabp p 0) 9 1 on.toNat
  if on then .next (t.tryTrain p)
  else if s.portLit p then .next (t.portLost p pDown failLight)
  else .next t

/-! ### Device states (R348) -/

/-- The device enters `TRAIN`. -/
def State.portsTrain (s : State) : State := (List.range 16).foldl State.tryTrain s

/-- The device enters `RUN`: ports that have trained retrain, with no count; others train. -/
def State.portsRun (s : State) : State :=
  (List.range 16).foldl (fun (s : State) p =>
    if s.pstat p = pDown ∧ s.portEn p ∧ s.light p ∧ (s.port p).trained then
      (s.modPort p (fun x => { x with retrainAt := some s.elapsed, retrainWide := false })).portState p pRetrain 0
    else s.tryTrain p) s

/-- The device enters `HOLD`: every transmitter is dark. -/
def State.portsHold (s : State) : State :=
  (List.range 16).foldl (fun (s : State) p =>
    if s.portLit p then s.portState p pDown 0 else s) s

/-- A write moves ports between direction masks: a `MISWIRED` one trains again, and is checked again (R349, R382). -/
def State.portsMoved (s : State) (old new : W64) : State :=
  (List.range 16).foldl (fun (s : State) p =>
    if old.getLsbD p != new.getLsbD p && s.pstat p == pMiswired then (s.portState p pDown 0).tryTrain p else s) s

/-! ### Time across the fabric (R377, R378) -/

/-- `LOCKED` and `HOLDOVER` take values; a change is traced. -/
def State.setSync (s : State) (locked hold : Bool) : State :=
  let new := locked.toNat + 2 * hold.toNat
  if s.rfld 0x50020 4 2 = new then s else (s.setRfld 0x50020 4 2 new).traceTime

/-- The rate that an offset makes: within 50 parts per million. -/
def slewRate (offset : BitVec 32) : Int := max (-50000) (min 50000 (Config.slew offset).toInt)

/-- Of the four times of an exchange, the child's flit sent and received at the parent, the parent's sent and received at the
child: twice the child's offset from the parent, and twice the link delay, in ns (R377; DEDUCED, log 24). -/
def timeOffset2 (t1 t2 t3 t4 : W64) : Int := (t1 - t2).toInt + (t4 - t3).toInt
def timeDelay2 (t1 t2 t3 t4 : W64) : Int := (t4 - t1).toInt - (t3 - t2).toInt

/-- The offset in ps as `OFFSET` holds it: a larger one reads as the largest (DESIGN CHOICE, log 24). -/
def offsetPs (o2 : Int) : W32 := BitVec.ofInt 32 (max (-2147483648) (min 2147483647 (500 * o2)))

/-- The child has the four times of an exchange with its parent at `depth`: its offset, its rate, and, once in `TRAIN`, its time.
`LOCKED` holds while the offset is within 2 ns times the depth (DEDUCED, log 24). -/
def State.timeChild (s : State) (t1 t2 t3 : W64) (depth : BitVec 16) : State :=
  let d := depth.toNat + 1
  let o2 := timeOffset2 t1 t2 t3 s.devtime
  let s1 := ((s.setRfld 0x50020 32 32 (offsetPs o2).toNat).setRfld 0x50020 16 16 d).reparent
  let s1 : State := { s1 with sync := { s1.sync with last := s.elapsed } }
  let s1 := s1.setSync (500 * o2.natAbs ≤ 2000 * d) false
  let s1 := s1.setRfld 0x60030 0 32 (BitVec.ofInt 32 (slewRate (offsetPs o2))).toNat
  if s.dstate = dsTrain ∧ s.rfld 0x10 4 1 = 0 then
    (s1.setTime (t3 + BitVec.ofInt 64 (timeDelay2 t1 t2 t3 s.devtime / 2))).setRfld 0x10 4 1 1
  else s1

/-- `TIME_EXCHANGE` (R377-R378): a `TIME` flit of the peer arrives at an `UP` port, with the times at which it was sent and at
which the peer received this device's last one, and the peer's depth; one from the parent completes an exchange. This device's
`TIME` flit follows. -/
def execTimeExchange (port : BitVec 4) (peerRx peerTx : W64) (depth : BitVec 16) (s : State) : Out :=
  let p := port.toNat
  if s.pstat p ≠ pUp then .next s
  else
    match (s.port p).timeTx with
    | some t1 =>
      if s.parentPort = some p then .next ((s.timeChild t1 peerRx peerTx depth).sendTime p) else .next (s.sendTime p)
    | none => .next (s.sendTime p)

/-- `TIME_HOLDOVER` (R378): 10 ms without an exchange with the parent, once the device has had its first `TRAIN` pass. -/
def execTimeHoldover (s : State) : Out :=
  if !s.isSource ∧ s.sync.last.toNat + 10000000 ≤ s.elapsed.toNat ∧ dsTrain ≤ s.dstate then
    .next ((s.setSync false true).setRfld 0x60030 0 32 0)
  else .next s

end Sys2Proof.Machine
end

