-- ==== Sys2Proof/Machine/RegWrite.lean ====
section
/-!
DEFINITION. Writes of BAR0 registers by their access codes (R4-R7, R469), and what each register's own rule makes of a
write: the fields that it keeps, and its effects.
-/
namespace Sys2Proof.Machine

/-- The bits that an access covers (R469). -/
def coverMask : RegHalf → W64
  | .all => 0xFFFFFFFFFFFFFFFF
  | .low => 0x00000000FFFFFFFF
  | .high => 0xFFFFFFFF00000000
  | .other => 0

/-! ### Fields that a rule keeps -/

/-- A field of `new` back at its old value, where a test says so. -/
def keepFld (old new : W64) (lo w : Nat) (bad : Bool) : W64 := if bad then setFld new lo w (fld old lo w) else new

/-- The ring pair of an offset in the ring register sets, and the offset in its set. -/
def ringOff (o : Nat) : Option (Nat × Nat) := if 0x18000 ≤ o ∧ o < 0x20000 then some ((o - 0x18000) / 0x40, (o - 0x18000) % 0x40) else none

/-- `EN` = 1 is refused for a ring: the PF serves its partition, and its pair is above 31 (R295). -/
def State.enRefused (s : State) (g : Nat) : Bool := s.fnOf (g / 64) == 0 && 32 ≤ g % 64

/-- `LOG` and `EN` of `HST_SQCFG` or `HST_CQCFG` (R300). -/
def State.ringCfg (s : State) (g : Nat) (old new : W64) : W64 :=
  let new' := keepFld old new 0 5 (old.getLsbD 6 || fld new 0 5 < 6 || 16 < fld new 0 5)
  keepFld old new' 6 1 (!old.getLsbD 6 && s.enRefused g)

/-- Writes of `FAB_TORUS` and `FAB_DIR` are taken with these values (R360). -/
def State.torusOk (s : State) (torus : Nat) (dirs : List Nat) : Bool :=
  dirsOk torus dirs && devFits torus s.devid &&
    !(s.dstate == dsRun && (List.range 8).any (fun n => (s.reg (prt n 0x88)).getLsbD 1))

def State.dirRegs (s : State) : List Nat := (List.range 8).map (fun d => s.rfld (0x50040 + 8 * d) 0 16)

/-- What is written where `new` is asked for: the fields that the register's own rule ignores keep their values. A VF may
not set a vector above 127 (`vf`). -/
def State.regKeep (s : State) (o : Nat) (vf : Bool) (old new : W64) : W64 :=
  match ringOff o with
  | some (g, r) =>
    if r = 0x00 then (if s.sqEn g then old else new)
    else if r = 0x18 then (if s.cqEn g then old else new)
    else if r = 0x08 then s.ringCfg g old new
    else if r = 0x20 then keepFld old (s.ringCfg g old new) 8 11 (vf && 127 < fld new 8 11)
    else new
  | none =>
    if inArr o 0x200 0x8 32 then
      keepFld old (keepFld old new 7 5 (17 ≤ fld new 7 5 && fld new 7 5 ≠ 31)) 39 5 (17 ≤ fld new 39 5 && fld new 39 5 ≠ 31)
    else if o = 0x10010 then (if fld new 0 43 % 2 ^ s.link.barLog = 0 then new else old)
    else if o = 0x20000 then (if fld new 0 16 < 2000 then old else new)
    else if o = 0x40010 then keepFld old (keepFld old new 0 8 (fld new 0 8 == 0)) 8 8 (fld new 8 8 == 0)
    else if o = 0x50008 then (if s.torusOk (fld new 0 17) s.dirRegs then new else old)
    else if inArr o 0x50040 8 8 then
      (if s.torusOk (s.rfld 0x50008 0 17) (s.dirRegs.set ((o - 0x50040) / 8) (fld new 0 16)) then new else old)
    else if o = 0x50010 then
      (List.range 16).foldl (fun w p => keepFld old w p 1 ([pUp, pRetrain, pMiswired].contains (s.pstat p))) new
    else if o = 0x50018 then keepFld old new 0 32 (fld new 0 32 < 10)
    else if inArr o 0x51008 0x100 16 then keepFld old new 0 2 (fld new 0 2 == 0)
    else if inArr o 0x58000 0x20 64 then
      let en := old.getLsbD 56
      keepFld old (keepFld old (keepFld old new 0 43 en) 48 5 (en || fld new 48 5 < 7 || 18 < fld new 48 5)) 53 3 en
    else if inArr o 0x58008 0x20 64 then (if (s.reg (o - 8)).getLsbD 56 then old else new)
    else if o = 0x60028 then
      keepFld old (keepFld old new 0 30 (1000000000 ≤ fld new 0 30)) 32 16 (fld new 32 16 == 0)
    else if inArr o 0x70000 0x100 8 then (if (s.reg (o + 8)).getLsbD 5 then old else new)
    else if inArr o 0x70008 0x100 8 then keepFld old new 0 5 (old.getLsbD 5 || fld new 0 5 < 10 || 24 < fld new 0 5)
    else if inArr o 0x70018 0x100 8 then (if new < old ∨ s.reg (o - 8) < new then old else new)
    else if o = 0x80020 then (if new < old ∨ s.reg 0x80018 < new then old else new)
    else if o = 0x80030 then keepFld old new 16 16 (fld new 16 16 == 0)
    else if inArr o 0x90000 8 2 then keepFld old new 4 2 (fld new 4 2 == 3)
    else if o = 0x90010 then keepFld old new 16 8 (fld new 16 8 < 80 || 104 < fld new 16 8)
    else new

/-! ### Effects -/

/-- The time source with `SRC` = 0 runs on its 25 MHz reference, unadjusted (R386). -/
def State.freeRun (s : State) : State := if s.isSource ∧ s.rfld 0x60008 0 1 = 0 then s.setRfld 0x60030 0 32 0 else s

/-- A pending message is sent once its vector is unmasked and its function may send (R311, R313). -/
def State.msixRelease (s : State) (fn vec : Nat) : State :=
  let b := fn * 0x100000000
  if (s.reg (b + msixPba vec)).getLsbD (vec % 64) ∧ !(s.reg (b + msixEntry vec + 8)).getLsbD 32 ∧ s.fnSends fn ∧
      s.pins.perst then
    (s.setReg (b + msixPba vec) (setBit (s.reg (b + msixPba vec)) (vec % 64) false)).msix fn vec
  else s

/-- The vectors of a function whose message is pending. -/
def State.msixPending (s : State) (fn : Nat) : List Nat :=
  (List.range 2048).filter (fun v => (s.reg (fn * 0x100000000 + msixPba v)).getLsbD (v % 64))

/-- What a register does when its RW fields have gone from `old` to `new` and the bits `w` of its WO fields are
written as 1. -/
def State.regEffect (s : State) (o : Nat) (old new w : W64) : State :=
  let rose (i : Nat) : Bool := !old.getLsbD i && new.getLsbD i
  let fell (i : Nat) : Bool := old.getLsbD i && !new.getLsbD i
  match ringOff o with
  | some (g, r) =>
    if r = 0x08 ∧ rose 6 then
      let s := (s.setReg (rg g 0x10) 0).setRfld o 7 1 0
      { s with link := { s.link with
          bells := s.link.bells.filter (fun x => x.1 != g), framed := s.link.framed.filter (· != g) } }
    else if r = 0x20 ∧ rose 6 then s.setReg (rg g 0x28) 0
    else s
  | none =>
    if inArr o 0x200 0x8 32 then
      let h := (o - 0x200) / 4
      let s := if fld old 7 5 = fld new 7 5 then s else s.askPos h (fld new 7 5)
      if fld old 39 5 = fld new 39 5 then s else s.askPos (h + 1) (fld new 39 5)
    else if inArr o 0x30090 0x1000 8 then (if w.getLsbD 0 then s.setRfld o 1 1 1 else s)
    else if o = 0x50008 then s.reparent
    else if inArr o 0x50040 8 8 then (s.portsMoved old new).reparent
    else if o = 0x50028 then (if s.isSource then ((s.setRfld 0x10 4 1 1).setRfld 0x50020 16 16 0).freeRun else s).reparent
    else if inArr o 0x51008 0x100 16 then
      let p := (o - 0x51008) / 0x100
      let s := if fell 2 then s.portDisable p else if rose 2 then s.tryTrain p else s
      if w.getLsbD 3 then s.startRetrain p true else s
    else if o = 0x60008 then
      let s := if fell 2 then { s with pins := { s.pins with ppsUntil := none } } else s
      let s := s.freeRun
      if rose 1 then { s with sync := { s.sync with ppsEdge := none, ppsGood := none, ppsRun := 0 } } else s
    else if inArr o 0x70008 0x100 8 ∧ rose 5 then (s.setReg (o + 8) 0).setReg (o + 16) 0
    else if o = 0x80038 then
      if w.getLsbD 10 ∧ s.present (fld w 0 10) then s.quarantine (fld w 0 10) 0xFD else s
    else if 0x100000 ≤ o % 0x100000000 ∧ o % 0x100000000 < 0x108000 ∧ fell 32 then
      s.msixRelease (o / 0x100000000) ((o % 0x100000000 - 0x100000) / 16)
    else s

/-- WO bits of a register word (R4). -/
def regWo (o : Nat) : W64 :=
  if inArr o 0x30090 0x1000 8 then 0x1
  else if inArr o 0x51008 0x100 16 then 0x8
  else if o = 0x60010 then 0xFFFFFFFFFFFFFFFF
  else if o = 0x80038 then 0x7FF
  else 0

/-- A write of the covered bits `m` of the register word at an offset, whose fields act by their codes. `REQ` and `CAP` of
a half act by R255, as one change of its target (R264). A set of the time by an access that covers a part takes the rest as zero (DEDUCED, log 26). -/
def State.regWrite (s : State) (o : Nat) (vf : Bool) (m v : W64) : State :=
  let i := regInfo o
  if o % 8 ≠ 0 then s
  else if o = 0x60010 then
    if s.dstate ≠ dsRun ∧ s.rfld 0x50020 0 4 = 0xF then s.setTime (v &&& m) else s
  else if inArr o 0x90000 8 2 then
    let h := (o - 0x90000) / 8
    let req := m.getLsbD 2 && !s.reqRefused h (fld v 2 2)
    let cap := m.getLsbD 4 && fld v 4 2 != 3
    let s := if req then s.stageBits o 0xC (v &&& 0xC) else s
    let s := if cap then s.setRfld o 4 2 (fld v 4 2) else s
    if req || cap then s.settleHalf h else s
  else
    let old := s.reg o
    let new := s.regKeep o vf old ((old &&& ~~~(m &&& i.rw)) ||| (v &&& m &&& i.rw))
    let s := if new = old then s else s.setReg o new
    let s := if v &&& m &&& i.w1c = 0 then s else s.setReg o (s.reg o &&& ~~~(v &&& m &&& i.w1c))
    let s := if m &&& i.st = 0 then s else s.stageBits o (m &&& i.st) v
    s.regEffect o old new (v &&& m &&& regWo o)

/-- The register's own rule would ignore a write of a whole word: some RW field would not take its value, or the write of
`REQ` or `CAP` is ignored (R380, R406; DEDUCED, log 25: a field written with the value that it holds is not ignored). -/
def State.regIgnores (s : State) (o : Nat) (v : W64) : Bool :=
  let i := regInfo o
  let old := s.reg o
  let new := (old &&& ~~~i.rw) ||| (v &&& i.rw)
  s.regKeep o false old new != new

/-- Words written in order; none where one of them would be ignored. -/
def State.regWrites (s : State) : List (Nat × W64) → Option State
  | [] => some s
  | (o, v) :: rest => if s.regIgnores o v then none else (s.regWrite o false 0xFFFFFFFFFFFFFFFF v).regWrites rest

/-! ### Host accesses (R294, R429, R469) -/

/-- Neither reset is low; `WARMRST_N` is ignored while `THERMTRIP_N` is low (R464). -/
def State.awake (s : State) : Bool := s.pins.porst && (s.pins.warm || s.pins.therm)

/-- No reset is in effect: a warm reset takes effect once `WARMRST_N` has been low for 10 µs (R455). -/
def State.outOfReset (s : State) : Bool := s.pins.porst && !s.pins.inReset

/-- Both resets have been high for 20 ms, and the block is open before the first `HOLD` (R429). -/
def State.barOpen (s : State) (o : Nat) : Bool :=
  s.awake && s.dstate != dsOff && s.boot.highAt.toNat + 20000000 ≤ s.elapsed.toNat &&
    (s.boot.held || o < 0x10000 || (0x80000 ≤ o && o < 0x90000)) && s.pins.perst

/-- The SR-IOV capability of the PF (R293). -/
structure Sriov where
  totalVfs : Nat
  initialVfs : Nat
  firstVfOffset : Nat
  vfStride : Nat
  vfDeviceId : Nat
deriving DecidableEq, Repr

def sriov : Sriov := ⟨8, 8, 1, 1, 0x0E11⟩

/-- The function number of the VF that serves partition `n` (R293). -/
def vfOf (n : Nat) : Nat := sriov.firstVfOffset + n * sriov.vfStride

/-- VF `fn` is enabled (R293). -/
def State.vfOn (s : State) (fn : Nat) : Bool := s.rfld 0x10008 4 1 == 1 && 1 ≤ fn && fn ≤ s.rfld 0x10008 0 4

/-- What a function says of itself in its configuration space (R292). No row reads that space (log 118). -/
structure PciIdentity where
  vendor : Nat
  device : Nat
  classCode : Nat
  subsystem : Nat
deriving DecidableEq, Repr

/-- The identity of a function: 0 the PF. The subsystem IDs are the device image's. -/
def State.identity (s : State) (fn : Nat) : PciIdentity :=
  ⟨0x1F3C, if fn = 0 then 0x0E10 else sriov.vfDeviceId, 0x120000, match s.devImg with | some d => d.subsys | none => 0⟩

/-- Where a write through a function's BAR0 lands: the PF's own offset, a ring register set or the MSI-X table of a VF;
none for what only reads, and for a
function in D3hot (R292, R294, R300). -/
def State.barTarget (s : State) (fn o : Nat) : Option Nat :=
  if s.link.d3hot.getLsbD fn then none
  else if fn = 0 then (if o < 0x1000000 then some o else none)
  else if !s.vfOn fn then none
  else if 0x1000 ≤ o ∧ o < 0x2000 then some (rg ((fn - 1) * 64 + (o - 0x1000) / 0x40) ((o - 0x1000) % 0x40))
  else if 0x2000 ≤ o ∧ o < 0x2800 then some (fn * 0x100000000 + 0x100000 + (o - 0x2000))
  else none

/-- What a read through a function's BAR0 reaches: as a write, or the view of its partition's `PRT_` page and the pending-bit
array of a VF (R294). -/
def State.barSource (s : State) (fn o : Nat) : Option Nat :=
  if fn ≠ 0 ∧ s.vfOn fn ∧ o < 0x1000 then some (prt (fn - 1) o)
  else if fn ≠ 0 ∧ s.vfOn fn ∧ 0x3000 ≤ o ∧ o < 0x3010 then some (fn * 0x100000000 + 0x108000 + (o - 0x3000))
  else s.barTarget fn o

/-- A host write to BAR0. One of another size or alignment is ignored. -/
def State.hostWrite (s : State) (fn o : Nat) (h : RegHalf) (v : W64) : State :=
  match s.barTarget fn o with
  | some t => if s.barOpen (t % 0x100000000) && h != .other then s.regWrite t (fn != 0) (coverMask h) v else s
  | none => s

/-- `TIM_SET` (R384): taken only outside `RUN` and without a parent, as a write of BAR0 that is not ignored (R429). -/
def execTimSet (v : W64) (s : State) : Out :=
  if s.dstate ≠ dsRun ∧ s.barOpen 0x60010 ∧ s.rfld 0x50020 0 4 = 0xF then .next (s.setTime v) else .next s

end Sys2Proof.Machine
end

