-- ==== Sys2Proof/Machine/Packets.lean ====
section
/-!
DEFINITION. Command packets (R305-R308, R315-R319): how the decoder reads them, the checks of fields, the fast opcodes
`NOP` and `SIGNAL`, and how CP0 takes firmware packets (R320, R331).
-/
namespace Sys2Proof.Machine

/-! ### Opcodes (R316) -/

def opSubmit : Nat := 0x21
def opCancel : Nat := 0x22
def opReset : Nat := 0x60
def opHold : Nat := 0x61

/-- Slots that an opcode admits: least and most; none for an opcode that R316 does not list. -/
def opSlots (op : Nat) : Option (Nat × Nat) :=
  if op = 0x00 ∨ op = 0x70 then some (1, 16)
  else if op = opSubmit then some (1, 2)
  else if [0x01, 0x02, 0x03, 0x10, 0x11, 0x20, 0x22, 0x23, 0x24, 0x25, 0x30, 0x31, 0x32, 0x40, 0x50, 0x51, 0x60, 0x61, 0x62].contains op then
    some (1, 1)
  else none

/-- Handled in hardware. -/
def opFast (op : Nat) : Bool := op == 0x01 || op == opSubmit || op == opCancel || op == 0x40

/-- Completions that a packet can produce. -/
def opEntries (op : Nat) : Nat := if op = opSubmit ∨ op = 0x24 then 2 else 1

/-! ### Field checks (R317, R323) -/

/-- A field of a layout: its offset and length, and whether its value is allowed. -/
structure PField where
  off : Nat
  len : Nat
  ok : Bool

/-- A byte of the packet. -/
def Packet.byte (p : Packet) (i : Nat) : Byte := p.bytes.getD i 0
def Packet.slots (p : Packet) : Nat := p.num 2 1

/-- The offset of the first failing field of a packet, in byte order: a field that is out of its range, or a reserved byte
that is not zero (DEDUCED, log 27). -/
def Packet.bad (p : Packet) (fs : List PField) : Option Nat :=
  (List.range (64 * p.slots)).find? (fun i =>
    match fs.find? (fun f => f.off == i && f.len != 0) with
    | some f => !f.ok
    | none =>
      !(i == 0 || i == 2 || (4 ≤ i && i < 8)) && !fs.any (fun f => f.off < i && i < f.off + f.len) && p.byte i != 0)

/-- A field of any value. -/
def anyVal (off len : Nat) : PField := ⟨off, len, true⟩

/-- `E_BOUNDS` at an offset. -/
def State.eBounds (s : State) (p : Packet) (off : Nat) : State := s.post (s.replyTo p stBounds s.devtime (BitVec.ofNat 64 off))

/-- `E_STATE` with a state code. -/
def State.eState (s : State) (p : Packet) (code : Nat) : State := s.post (s.replyTo p stState s.devtime (BitVec.ofNat 64 code))

/-- The layout of `SUBMIT` (R325). -/
def State.submitFields (s : State) (p : Packet) : List PField :=
  [⟨1, 1, p.num 1 1 < 4⟩, ⟨3, 1, p.cls < 4⟩, anyVal 8 8, ⟨16, 2, p.sBerth == berthAny || s.inBerths p.part p.sBerth⟩, anyVal 20 4,
    anyVal 24 1, ⟨28, 2, if p.moored then s.inIdx p.part p.sIdx else p.sIdx == 0⟩, anyVal 32 32, anyVal 64 32]

/-- The layout of `CANCEL` (R328). -/
def State.cancelFields (s : State) (p : Packet) : List PField :=
  [anyVal 16 4, ⟨20, 2, p.num 20 2 == berthAny || s.inBerths p.part (p.num 20 2)⟩]

/-! ### The rate condition (R44) -/

/-- Of packets with these arrivals, those with more than 8 in the interval (a - 1,000 ns, a] of their own arrival a. -/
def overRate (l : List W64) : Nat :=
  (l.filter (fun a => 9 ≤ (l.filter (fun t => t.toNat ≤ a.toNat && a.toNat < t.toNat + 1000)).length)).length

/-- The earliest arrival that a packet to come after the present one before the Sluice can have: of the doorbells whose packets are not all
read, and of the `OPEN_BERTH` packets that CP0 has not handed over. -/
def State.arrivalFloor (s : State) (n : Nat) : Nat :=
  let bells := (s.link.bells.filter (fun x => x.1 / 64 == n)).flatMap (fun x => x.2.map (fun b => b.2.toNat))
  let opens := (s.fwq.filter (fun p => p.part == n && p.op == 0x20)).map (fun p => p.arrival.toNat)
  (bells ++ opens).foldl min s.devtime.toNat

/-- A packet comes before the Sluice: `OVERRATE` counts the packets that it puts outside the rate condition, itself and
those of the same arrival included. -/
def State.arrives (s : State) (p : Packet) : State :=
  let n := p.part
  let kept := (s.part n).arrivals.filter (fun t => min (s.arrivalFloor n) p.arrival.toNat < t.toNat + 1000)
  let s := s.modPart n (fun q => { q with arrivals := kept ++ [p.arrival] })
  s.setRfld 0x20008 16 16 (min (s.rfld 0x20008 16 16 + (overRate (kept ++ [p.arrival]) - overRate kept)) 0xFFFF)

/-! ### The decoder (R305-R308) -/

/-- `HEAD` of ring pair `g`, which has had its turn, advances by `n` slots; doorbells whose slots are all read are
forgotten. -/
def State.advance (s : State) (g n : Nat) : State :=
  let h := s.sqHead g + n
  let s := s.setRfld (rg g 0x10) 32 32 h
  let left := (AMap.get [] s.link.bells g).filter (fun b => 0 < cdiff b.1 h && cdiff b.1 h ≤ 65536)
  { s with link := { s.link with bells := AMap.put s.link.bells g left, lastSq := g } }

/-- The arrival of the doorbell that published `n` slots from `HEAD`. -/
def State.arrivalOf (s : State) (g n : Nat) : W64 :=
  match (AMap.get [] s.link.bells g).find? (fun b => n ≤ cdiff b.1 (s.sqHead g)) with
  | some b => b.2
  | none => s.reg (rg g 0x30)

/-- A packet read takes its number and its completion entries. -/
def State.take (s : State) (p : Packet) (entries : Nat) : State :=
  ({ s with nextPkt := s.nextPkt + 1 } : State).setOwed (p.ring / 64) (s.owed ++ [(⟨p.id, p.ring, entries, false⟩ : Owed)])

/-- A packet that has passed checks 1 and 2 goes on. -/
def State.routePacket (s : State) (p : Packet) : State :=
  if p.op = opSubmit then
    match p.bad (s.submitFields p) with
    | some off => s.eBounds p off
    | none => { (s.arrives p) with sluice := s.sluice ++ [p] }
  else if p.op = opCancel then
    match p.bad (s.cancelFields p) with
    | some off => s.eBounds p off
    | none => { (s.arrives p) with sluice := s.sluice ++ [p] }
  else if opFast p.op then { s with fast := s.fast ++ [p] }
  else { s with fwq := s.fwq ++ [p] }

/-- The next packet of ring pair `g` may be read but for conditions 1, 3 and 4 of R305 (R313, R417, R428). -/
def State.mayRead (s : State) (g : Nat) : Bool :=
  s.boot.held && s.dstate != dsFault && s.sqEn g && s.rfld (rg g 8) 7 1 == 0 && s.hostUp g && s.cqEn g && 4 ≤ s.cqFree g &&
    0 < cdiff (s.sqTail g) (s.sqHead g)

/-- The packet at `HEAD` of ring pair `g`, of this opcode and slot count, waits: it is not whole, or the entries, the Sluice's
queue or the firmware queue have no room for it (conditions 1, 3 and 4 of R305, R44). -/
def State.packetWaits (s : State) (g op n : Nat) : Bool :=
  let avail := cdiff (s.sqTail g) (s.sqHead g)
  let left := s.sqSize g - s.sqHead g % s.sqSize g
  if s.link.framed.contains g then avail < left
  else if n = 0 ∨ 16 < n ∨ left < n then 8192 ≤ s.entriesUsed (g / 64)
  else
    avail < n || (op != 0 && (8192 < s.entriesUsed (g / 64) + opEntries op ||
      ((op == opSubmit || op == opCancel) && 64 ≤ s.sluice.length) ||
      (match opSlots op with | some (lo, hi) => lo ≤ n && n ≤ hi && !opFast op && 128 ≤ s.fwq.length | none => false)))

/-- It is ring pair `g`'s turn: no pair that comes before it, in ascending order from the pair read last and back to 0, has
a packet that may be read (R305). The headers of those pairs stand in host memory, so the command brings them, and a pair whose
header it does not bring has its turn first (DEDUCED, log 119). -/
def State.inTurn (s : State) (g : Nat) (heads : List (BitVec 9 × Byte × Byte)) : Bool :=
  let after (h : Nat) : Nat := (h + 511 - s.link.lastSq) % 512
  !(List.range 512).any (fun h => after h < after g && s.mayRead h &&
    (match heads.find? (fun x => x.1.toNat == h) with
      | some x => !s.packetWaits h x.2.1.toNat x.2.2.toNat
      | none => !s.packetWaits h 0 0))

/-- A header with a framing error (R307): one `E_LENGTH`, and `HEAD` past what cannot be trusted. -/
def State.framing (s : State) (g : Nat) (p : Packet) (skip : Nat) : State :=
  if 8192 ≤ s.entriesUsed (g / 64) then s
  else
    let s := ((s.take p 1).setRfld (rg g 0x38) 3 1 1).advance g skip
    s.post (p.reply stLength s.devtime 2)

/-- A framing error whose slots to the ring's end are not all published: `HEAD` waits for them. -/
def State.markFramed (s : State) (g : Nat) : State :=
  if 8192 ≤ s.entriesUsed (g / 64) then s else { s with link := { s.link with framed := s.link.framed ++ [g] } }

/-- `PACKET_READ`: the decoder reads the packet at `HEAD` of a ring, whose slots hold these bytes, unless the read
fails. -/
def execPacketRead (ring : BitVec 9) (bytes : List Byte) (ok : HostFetch) (s : State) : Out :=
  let g := ring.toNat
  let avail := cdiff (s.sqTail g) (s.sqHead g)
  let left := s.sqSize g - s.sqHead g % s.sqSize g
  if !s.mayRead g || !s.inTurn g ok.heads then .next s
  else if s.link.framed.contains g then
    if avail < left then .next s
    else .next ({ s with link := { s.link with framed := s.link.framed.filter (· != g) } }.advance g left)
  else if !ok.ok then .next (((s.setRfld (rg g 8) 7 1 1).setRfld (rg g 0x38) 4 1 1).pcieError)
  else
    let n := ofLE ((bytes.drop 2).take 1)
    let op := ofLE (bytes.take 1)
    let p : Packet := ⟨s.nextPkt, g, op, (bytes.take (64 * max 1 n)), s.arrivalOf g (max 1 n), s.devtime⟩
    if n = 0 ∨ 16 < n then .next (s.framing g p 1)
    else if left < n then (if avail < left then .next ((s.markFramed g).framing g p 0) else .next (s.framing g p left))
    else if s.packetWaits g op n then .next s
    else if op = 0 then .next (s.advance g n)
    else
      match opSlots op with
      | none => .next (((s.take p 1).advance g n).post (p.reply stOpcode s.devtime))
      | some (lo, hi) =>
        if n < lo ∨ hi < n then .next (((s.take p 1).advance g n).post (s.replyTo p stLength s.devtime 2))
        else .next (((s.take p (opEntries op)).advance g n).routePacket p)

/-! ### Fast opcodes (R329, R330) -/

/-- The oldest packet of an opcode that a ring's hardware handler holds. -/
def State.fastHead (s : State) (g op : Nat) : Option Packet := s.fast.find? (fun p => p.ring == g && p.op == op)
def State.dropFast (s : State) (p : Packet) : State := { s with fast := s.fast.filter (fun q => q.id != p.id) }

/-- `NOP`. -/
def execNopCmd (ring : BitVec 9) (s : State) : Out :=
  match s.fastHead ring.toNat 0x01 with
  | some p =>
    let s := s.dropFast p
    match p.bad [] with
    | some off => .next (s.post (p.reply stBounds p.read (BitVec.ofNat 64 off)))
    | none => .next (s.post (p.reply stOk p.read s.devtime))
  | none => .next s

/-- Fields of `SIGNAL`. -/
def Packet.gCore (p : Packet) : Nat := p.num 16 2
def Packet.gLen (p : Packet) : Nat := p.num 18 1 / 4 % 16
def Packet.gWord (p : Packet) (i : Nat) : Nat := p.num (32 + 4 * i) 4

/-- The layout of `SIGNAL`. -/
def State.signalFields (s : State) (p : Packet) : List PField :=
  [⟨16, 2, p.gCore < 1024 && (s.sects p.part).testBit (coreSect p.gCore)⟩, ⟨18, 1, p.num 18 1 < 64 && p.gLen ≤ 8⟩, anyVal 20 2] ++
    (List.range 8).map (fun i => ⟨32 + 4 * i, 4, i < p.gLen || p.gWord i == 0⟩)

/-- `SIGNAL`. -/
def execSignal (ring : BitVec 9) (s : State) : Out :=
  match s.fastHead ring.toNat 0x40 with
  | some p =>
    let n := p.part
    let s := s.dropFast p
    let fail (st d : Nat) : State := s.post (p.reply st p.read (BitVec.ofNat 64 d))
    match p.bad (s.signalFields p) with
    | some off => .next (fail stBounds off)
    | none =>
      if s.dstate ≠ dsRun then .next (fail stState 0xFF)
      else if !s.present p.gCore then .next (fail stState 0xFF)
      else if s.pstate n = psEmpty then .next (fail stState 0)
      else
        let words := (List.range p.gLen).map (fun i => BitVec.ofNat 32 (p.gWord i))
        let m : Msg := ⟨deliveredHeader 0 s.devid 0 false true (p.num 20 2) p.gLen, s.devtime, words⟩
        let g : HostSignal := ⟨p, p.gCore, p.num 18 1 % 4, m, false⟩
        .next ((s.modPart n (fun q => { q with signals := q.signals ++ [g] })).signalSend n g)
  | none => .next s

/-! ### Firmware packets (R319, R320, R331) -/

/-- The ring pair is privileged. -/
def State.privileged (s : State) (g : Nat) : Bool := s.rfld 0x10028 9 1 == 1 && s.rfld 0x10028 0 9 == g

/-- A packet of ring pair `g` that waits, or has waited, holds back the later ones: it has not written its first
completion. -/
def State.heldBack (s : State) (g : Nat) : Bool :=
  s.jobs.any (fun j => j.pkt.ring == g && j.kind != .fence) ||
    s.compl.any (fun c => c.ring == g && c.waited && s.owed.any (fun o => o.id == c.pkt && !o.first))

/-- The completions of a packet are those of one that has waited. -/
def State.markWaited (s : State) (id : Nat) : State :=
  { s with compl := s.compl.map (fun c => if c.pkt = id then { c with waited := true } else c) }

/-- A partition's earlier reset has not written its completion (R343). -/
def State.resetting (s : State) (n : Nat) : Bool := (s.part n).resetPkt != 0 && s.owed.any (fun o => o.id == (s.part n).resetPkt)

/-- The packet that CP0 starts next for ring pair `g`, if it has an opcode: in ring order, but for `RESET_PARTITION` and
`HOLD_PARTITION`, which pass the others. -/
def State.fwNext (s : State) (g op : Nat) : Option Packet :=
  if op = opReset ∨ op = opHold then
    s.fwq.find? (fun p => p.ring == g && p.op == op && !(op == opReset && p.num 16 1 < 8 && s.resetting (p.num 16 1)))
  else if s.heldBack g then none
  else
    match s.fwq.find? (fun p => p.ring == g && p.op != opReset && p.op != opHold) with
    | some p => if p.op = op then some p else none
    | none => none

/-- Opcodes that run outside `RUN`. -/
def opAnyState (op : Nat) : Bool := [0x02, 0x03, 0x10, 0x11, 0x50, 0x51].contains op

/-- CP0 starts a packet of ring pair `g` whose opcode and selector are those of the command: what the code of its slots
finds (R413 index 19, R324), checks 3 and 4 of R317, the fields first and then an address range, which gives the `DETAIL` of
its failure, then R320, then what the opcode does. -/
def State.firmware (s : State) (ecc : Ecc) (g op : Nat) (sel scope : Packet → Bool) (fields : State → Packet → List PField)
    (act : State → Packet → State) (range : State → Packet → Option Nat := fun _ _ => none) : Out :=
  match s.fwNext g op with
  | none => .next s
  | some p =>
    if !sel p ∨ s.dstate = dsFault then .next s
    else
      let s : State := { s with fwq := s.fwq.filter (fun q => q.id != p.id) }
      if ecc = .uncorrectable then
        .next (((s.countErr 19 true).errLog ⟨19, 1, none, 0, none, 0, 0, 0⟩).post (s.replyTo p stInternal s.devtime))
      else
        let s := if ecc = .corrected then s.countErr 19 false else s
        if !scope p then .next (s.post (p.reply stPerm s.devtime))
        else
          match (p.bad (fields s p)).orElse (fun _ => range s p) with
          | some off => .next (s.eBounds p off)
          | none => if s.dstate ≠ dsRun ∧ !opAnyState op then .next (s.eState p 0xFF) else .next (act s p)

/-- A selector in byte 16: the row's own value, or one that no row has. -/
def selIs (v last : Nat) (p : Packet) : Bool := p.num 16 1 == v || last < p.num 16 1

/-- Scope own; scope priv for another partition; scope priv. -/
def ownScope : Packet → Bool := fun _ => true
def State.otherScope (s : State) (p : Packet) : Bool := p.num 16 1 == p.part || s.privileged p.ring
def State.privScope (s : State) (p : Packet) : Bool := s.privileged p.ring

end Sys2Proof.Machine
end

