-- ==== Sys2Proof/Machine/Commands.lean ====
section
/-!
DEFINITION. The firmware-interpreted commands (R331-R343, R380, R405, R406), but for the commit of the device image.
-/
namespace Sys2Proof.Machine

/-- `OK` with a `DETAIL`. -/
def State.ok (s : State) (p : Packet) (detail : W64 := 0) : State := s.post (p.reply stOk s.devtime detail)

/-! ### `QUERY` (R332) -/

/-- The layout of `QUERY`: `ARG` is a berth or an index of the partition, or reserved. -/
def State.queryFields (s : State) (p : Packet) : List PField :=
  let arg := p.num 20 4
  [⟨16, 1, p.num 16 1 < 4⟩,
    ⟨20, 4, match p.num 16 1 with | 2 => s.inBerths p.part arg | 3 => s.inIdx p.part arg | _ => arg == 0⟩]

/-- What `QUERY` of the device reports. -/
def State.queryDevice (s : State) (p : Packet) : State :=
  s.ok p (BitVec.ofNat 64 (s.dstate + s.devid * 8 + s.rfld 0x10 16 16 * 2 ^ 24))

/-- What `QUERY` of the partition reports. -/
def State.queryPartition (s : State) (p : Packet) : State :=
  let n := p.part
  let held := (List.range 4).foldl (fun v c => v + s.heldBy n c * 2 ^ (16 * c)) 0
  let words := [BitVec.ofNat 64 held, BitVec.ofNat 64 (s.sharedUsed n), BitVec.ofNat 64 (s.bulkCount n), s.reg (prt n 0xD8),
    s.reg (prt n 0xC0), s.reg (prt n 0xC8), s.reg (prt n 0xD0)]
  s.post { p.reply stOk s.devtime (s.reg (prt n 0x28)) with extra := [wordBytes words] }

/-- What `QUERY` of a berth reports. -/
def State.queryBerth (s : State) (p : Packet) : State :=
  let n := p.part
  let b := p.num 20 4
  let x := s.berth n b
  let c := { p.reply stOk s.devtime with berth := b, kind := if x.held then x.cls else 0xFF }
  match (s.part n).items.find? (fun i => i.berth == some b) with
  | some i => s.post { c with
      promised := i.promise, start := if i.cls = 3 then ones64 else BitVec.ofNat 64 i.k0
      detail := BitVec.ofNat 64 (x.st.num + i.pkt.tag * 2 ^ 32) }
  | none => s.post { c with detail := BitVec.ofNat 64 x.st.num }

/-- What `QUERY` of an index reports. -/
def State.queryIndex (s : State) (p : Packet) : State :=
  let i := p.num 20 4
  let st := s.idxState i
  s.ok p (BitVec.ofNat 64 (st + if st = ixMoored then AMap.get 1 s.moorUnits i * 2 ^ 32 else 0))

def execQueryDevice (ring : BitVec 9) (ecc : Ecc) (s : State) : Out :=
  s.firmware ecc ring.toNat 0x02 (selIs 0 3) ownScope State.queryFields State.queryDevice
def execQueryPartition (ring : BitVec 9) (ecc : Ecc) (s : State) : Out :=
  s.firmware ecc ring.toNat 0x02 (selIs 1 3) ownScope State.queryFields State.queryPartition
def execQueryBerth (ring : BitVec 9) (ecc : Ecc) (s : State) : Out :=
  s.firmware ecc ring.toNat 0x02 (selIs 2 3) ownScope State.queryFields State.queryBerth
def execQueryIndex (ring : BitVec 9) (ecc : Ecc) (s : State) : Out :=
  s.firmware ecc ring.toNat 0x02 (selIs 3 3) ownScope State.queryFields State.queryIndex

/-! ### `FENCE` (R333) -/

/-- What a `FENCE` waits for has been written. -/
def State.fenceOpen (s : State) (p : Packet) : Bool :=
  s.owed.all (fun o => !(o.ring == p.ring && o.id < p.id) || (o.first && p.num 16 1 == 0))

/-- A `FENCE` waits. -/
def State.fenceCmd (s : State) (p : Packet) : State := { s with jobs := s.jobs ++ [⟨p, s.devtime, .fence⟩] }

/-- `FENCE`: one that waits completes once it may; else CP0 starts the next. -/
def execFence (ring : BitVec 9) (ecc : Ecc) (s : State) : Out :=
  match s.jobs.find? (fun j => j.pkt.ring == ring.toNat && j.kind == .fence && s.fenceOpen j.pkt) with
  | some j => .next ({ s with jobs := s.jobs.erase j }.post (j.pkt.reply stOk j.accepted))
  | none => s.firmware ecc ring.toNat 0x03 (fun _ => true) ownScope (fun _ p => [⟨16, 1, p.num 16 1 ≤ 1⟩]) State.fenceCmd

/-! ### Images (R337) -/

/-- The head of the image that a `STAGE_CONFIG` reads, its scope, and its `LEN`. -/
def State.stageStart (s : State) (p : Packet) (head : List Byte) : State :=
  let len := p.num 24 4
  if len = 0 then s.ok p
  else if s.stageMib * 2 ^ 20 < len then s.eBounds p 24
  else { s with jobs := s.jobs ++ [⟨p, s.devtime, .stage (head.take (min 64 len)) len⟩] }

/-- The scope of a `STAGE_CONFIG` whose head has been read. -/
def State.stageScope (s : State) (head : List Byte) (p : Packet) : Bool :=
  let t := ofLE ((head.drop 12).take 1)
  p.num 24 4 < 13 || 8 < t || t == p.part || s.privileged p.ring

/-- A packet that starts with a read of host memory has waited for it. -/
def readFirst (p : Packet) : Out → Out
  | .next t => if p.num 24 4 = 0 then .next t else .next (t.markWaited p.id)
  | o => o

/-- `STAGE_CONFIG` starts with a read of the image's first bytes, which may fail. -/
def State.stageConfig (s : State) (ring : BitVec 9) (ecc : Ecc) (head : List Byte) (ok : Bool) : Out :=
  let fields : State → Packet → List PField := fun _ _ => [anyVal 8 8, anyVal 24 4]
  if ok ∨ ecc = .uncorrectable then s.firmware ecc ring.toNat 0x10 (fun _ => true) (s.stageScope head) fields (fun s p => s.stageStart p head)
  else
    match s.fwNext ring.toNat 0x10 with
    | some p =>
      if p.num 24 4 = 0 ∨ s.dstate = dsFault then s.firmware ecc ring.toNat 0x10 (fun _ => true) ownScope fields State.ok
      else
        let s := if ecc = .corrected then s.countErr 19 false else s
        let s : State := { s with fwq := s.fwq.filter (fun q => q.id != p.id) }
        .next (s.pcieError.post (p.reply stAborted s.devtime (BitVec.ofNat 64 head.length) caHost))
    | none => .next s

def execStageConfig (ring : BitVec 9) (ecc : Ecc) (head : List Byte) (ok : Bool) (s : State) : Out :=
  match s.fwNext ring.toNat 0x10 with
  | some p => readFirst p (s.stageConfig ring ecc head ok)
  | none => .next s

/-- `COMMIT_CONFIG` of a partition image. -/
def execCommitConfig (ring : BitVec 9) (ecc : Ecc) (s : State) : Out :=
  s.firmware ecc ring.toNat 0x11 (fun p => p.num 16 1 != 8) s.otherScope (fun _ p => [anyVal 8 8, ⟨16, 1, p.num 16 1 ≤ 8⟩])
    (fun s p => s.commitPart p (p.num 16 1))

/-! ### Berths (R334, R335) -/

/-- The berth decision of `OPEN_BERTH`. -/
def State.openDecide (s : State) (p : Packet) : State :=
  let n := p.part
  let c := p.cls
  let b := p.num 16 2
  let x := s.berth n b
  let s : State := { (s.arrives p) with decided := some s.devtime }
  let fail (st d : Nat) : State := s.post (s.replyTo p st s.devtime (BitVec.ofNat 64 d))
  if !s.clsOpen n c then fail stClosed 0
  else if x.held then fail stState (if x.opening.isSome then 1 else x.st.num)
  else if s.maxBerths n c ≤ s.heldBy n c then fail stQuota 0
  else if s.rsvBerths n c ≤ s.heldBy n c ∧ s.sharedBerths n < s.sharedUsed n + 1 then fail stNoBerth 0
  else
    let s := s.putBerth n b ⟨.free, c, some ((p.bytes.drop 32).take 32)⟩
    { s with jobs := s.jobs ++ [⟨p, s.devtime, .openB b⟩] }

/-- `OPEN_BERTH`: CP0 hands it to the Sluice, which has room and may decide. -/
def execOpenBerth (ring : BitVec 9) (ecc : Ecc) (s : State) : Out :=
  if s.mayDecide ∧ s.sluice.length < 64 then
    s.firmware ecc ring.toNat 0x20 (fun _ => true) ownScope
      (fun s p => [⟨3, 1, p.cls < 4⟩, ⟨16, 2, s.inBerths p.part (p.num 16 2)⟩, anyVal 32 32])
      (fun s p => if s.pstate p.part = psEmpty then s.post (s.replyTo p stState s.devtime 0) else s.openDecide p)
  else .next s

/-- `CLOSE_BERTH`. -/
def execCloseBerth (ring : BitVec 9) (ecc : Ecc) (s : State) : Out :=
  s.firmware ecc ring.toNat 0x23 (fun _ => true) ownScope (fun s p => [⟨16, 2, s.inBerths p.part (p.num 16 2)⟩])
    (fun s p =>
      let n := p.part
      let b := p.num 16 2
      let x := s.berth n b
      if s.pstate n = psEmpty then s.post (s.replyTo p stState s.devtime 0)
      else if x.st ≠ .opened then
        s.post (s.replyTo p stState s.devtime (BitVec.ofNat 64 (if x.opening.isSome then 1 else x.st.num)))
      else
        let s := s.setBerth n b { x with st := .closing }
        { s with jobs := s.jobs ++ [⟨p, s.devtime, .closeB b⟩] })

/-- `MOOR` (R285). -/
def execMoor (ring : BitVec 9) (ecc : Ecc) (s : State) : Out :=
  s.firmware ecc ring.toNat 0x24 (fun _ => true) ownScope
    (fun s p => [⟨16, 2, s.inBerths p.part (p.num 16 2)⟩, ⟨20, 2, s.inIdx p.part (p.num 20 2)⟩]) State.moorCmd

/-- `UNMOOR` (R286). -/
def execUnmoor (ring : BitVec 9) (ecc : Ecc) (s : State) : Out :=
  s.firmware ecc ring.toNat 0x25 (fun _ => true) ownScope (fun s p => [⟨20, 2, s.inIdx p.part (p.num 20 2)⟩]) State.unmoorCmd

/-! ### Copies (R336) -/

/-- The lines of a copy, translated before any byte moves; or the first address that does not translate. -/
def State.copyLines (s : State) (n va len : Nat) (need : Need) : Except Nat (List (Nat × Nat)) :=
  match s.devBad n va len need false with
  | some a => .error a
  | none => .ok ((spans va len).map (fun x => ((s.devAddr n x.1 need).getD 0, x.2)))

/-- The lines of a copy's range; no lines for no bytes. -/
def State.copyRange (s : State) (p : Packet) : Except Nat (List (Nat × Nat)) :=
  s.copyLines p.part (p.num 16 8) (p.num 24 4) (if p.op = 0x31 then .read else .write)

/-- The `DETAIL` of a range that does not translate (R323). -/
def State.copyBad (s : State) (p : Packet) : Option Nat :=
  match s.copyRange p with
  | .error a => some (16 + a % 2 ^ 48 * 65536)
  | .ok _ => none

/-- A copy starts. -/
def State.copyStart (s : State) (p : Packet) : State :=
  if p.num 24 4 = 0 then s.ok p
  else
    match s.copyRange p with
    | .error _ => s
    | .ok ls => { s with jobs := s.jobs ++ [⟨p, s.devtime, .copy ls⟩] }

/-- The layout of a copy; `DADDR` and `LEN` of `FILL` are multiples of 8. -/
def copyFields (fill : Bool) (p : Packet) : List PField :=
  [anyVal 8 8, ⟨16, 8, !fill || p.num 16 8 % 8 == 0⟩, ⟨24, 4, !fill || p.num 24 4 % 8 == 0⟩]

def execCopyIn (ring : BitVec 9) (ecc : Ecc) (s : State) : Out :=
  s.firmware ecc ring.toNat 0x30 (fun _ => true) ownScope (fun _ p => copyFields false p) State.copyStart State.copyBad
def execCopyOut (ring : BitVec 9) (ecc : Ecc) (s : State) : Out :=
  s.firmware ecc ring.toNat 0x31 (fun _ => true) ownScope (fun _ p => copyFields false p) State.copyStart State.copyBad
def execFill (ring : BitVec 9) (ecc : Ecc) (s : State) : Out :=
  s.firmware ecc ring.toNat 0x32 (fun _ => true) ownScope (fun _ p => copyFields true p) State.copyStart State.copyBad

/-- A device-side access of partition `n`'s command fails: counted and logged; poison read breaks a condition (R413,
R415). -/
def State.deviceFailed (s : State) (n pa : Nat) (read : Bool) : State :=
  let src := if inTier1 pa then 11 else 12
  let s := (s.countErr src true).errLog ⟨src, 1, some n, excEcc, none, 0, BitVec.ofNat 64 pa,
    if inTier1 pa then pa / 4096 % 8 else tier2Port pa⟩
  if read then s.breakCond n 1 else s

/-- `FILL`'s bytes: its pattern, over and over. -/
def fillBytes (pattern : W64) (n : Nat) : List Byte := (List.replicate (n / 8) (toLE 8 pattern.toNat)).flatten

/-- Bytes written to lines in ascending order until they end or a home fails: the state, the bytes moved, and the address
that failed. -/
def State.copyWrite (s : State) (moved : Nat) (bytes : List Byte) : List (Nat × Nat) → State × Nat × Option Nat
  | [] => (s, moved, none)
  | (pa, k) :: rest =>
    let d := bytes.take k
    if d.isEmpty then (s, moved, none)
    else if !s.homeUp pa then (s, moved, some pa)
    else (s.homeWrite pa d).copyWrite (moved + d.length) (bytes.drop k) rest

/-- Bytes read from lines in ascending order until a home fails, or poison: the bytes, and the address that failed. -/
def State.copyRead (s : State) (got : List Byte) : List (Nat × Nat) → List Byte × Option Nat
  | [] => (got, none)
  | (pa, k) :: rest =>
    if !s.homeUp pa || s.poisoned pa k then (got, some pa)
    else s.copyRead (got ++ Memory.readBytes s.mem pa k) rest

/-- How a copy ends. -/
def State.copyEnd (s : State) (j : Job) (moved : Nat) (failed : Option Nat) : State :=
  match failed with
  | some pa => (s.deviceFailed j.pkt.part pa (j.pkt.op = 0x31)).post { j.reply stAborted (BitVec.ofNat 64 moved) caDevice with moved := moved }
  | none =>
    if moved < j.pkt.num 24 4 then
      s.post { j.reply stAborted (BitVec.ofNat 64 moved) caHost with moved := moved }
    else s.post { j.reply stOk with moved := moved }

/-- Bytes sent to host memory, where there are any. -/
def State.sendHost (s : State) (n : Nat) (a : W64) (bs : List Byte) : State :=
  if bs.isEmpty then s else { s with hostOut := s.hostOut ++ [.write n a.toNat bs] }

/-- A copy's bytes move (DESIGN CHOICE, log 28): `bytes` are what the host's memory gave for `COPY_IN`; where the host's side failed,
their number is the bytes moved before that. -/
def State.copyMove (s : State) (j : Job) (lines : List (Nat × Nat)) (bytes : List Byte) (ok : Bool) : State :=
  let len := j.pkt.num 24 4
  if j.pkt.op = 0x31 then
    let (got, failed) := s.copyRead [] lines
    if ok ∨ got.length ≤ bytes.length then (s.sendHost j.pkt.part j.pkt.param got).copyEnd j got.length failed
    else (s.sendHost j.pkt.part j.pkt.param (got.take bytes.length)).copyEnd j bytes.length none
  else
    let all := if j.pkt.op = 0x32 then fillBytes j.pkt.param len else bytes.take len
    let r := s.copyWrite 0 all lines
    (if r.2.2.isNone ∧ r.2.1 < len then r.1.pcieError else r.1).copyEnd j r.2.1 r.2.2

/-- Completions of a packet whose image has been read say so. -/
def State.markRead (s : State) (id n : Nat) : State :=
  { s with compl := s.compl.map (fun c => if c.pkt = id then { c with moved := n } else c) }

/-- A job that reads or writes host memory ends. The spec does not say what a read of an image that fails leaves in the free buffer:
the buffer stays as it was (DESIGN CHOICE, log 139). -/
def State.jobEnd (s : State) (j : Job) (bytes : List Byte) (ok : Bool) : State :=
  let p := j.pkt
  match j.kind with
  | .copy lines => s.copyMove j lines bytes ok
  | .stage head len =>
    let got := head.length + bytes.length
    if ok then ((s.stageImage p ((head ++ bytes ++ toLE (len - got) 0).take len)).markWaited p.id).markRead p.id len
    else s.pcieError.post { j.reply stAborted (BitVec.ofNat 64 got) caHost with moved := got }
  | .snapshot b =>
    if ok then
      (s.sendHost p.part p.param b).post (j.reply stOk (if p.num 16 1 = 0 then BitVec.ofNat 64 (img b 8 8) else 0))
    else s.post (j.reply stAborted 0 caHost)
  | _ => s

/-- `COPY_COMPLETE`: the oldest command of a ring pair that moves bytes to or from host memory has moved them. -/
def execCopyComplete (ring : BitVec 9) (bytes : List Byte) (ok : Bool) (s : State) : Out :=
  match s.jobs.find? (fun j => j.pkt.ring == ring.toNat && (match j.kind with
    | .copy _ => true
    | .stage _ _ => true
    | .snapshot _ => true
    | _ => false)) with
  | some j => .next ({ s with jobs := s.jobs.erase j }.jobEnd j bytes ok)
  | none => .next s

/-! ### Registers through packets (R380, R406) -/

/-- 64-bit word `i` of a packet's register words: 0-3 in slot 0, 4-10 in slot 1. -/
def Packet.word (p : Packet) (i : Nat) : W64 := BitVec.ofNat 64 (p.num (if i < 4 then 24 + 8 * i else 64 + 8 * (i - 4)) 8)

/-- Words written, or `E_STATE` with none written. -/
def State.putWords (s : State) (p : Packet) (ws : List (Nat × W64)) (f : State → State) : State :=
  match s.regWrites ws with
  | some t => f t
  | none => s.eState p 0xFF

/-- The words that a sub-operation of `TRACE_CONTROL` takes; every other byte is reserved (R315). -/
def traceSub (sub : Nat) : Nat := if sub = 0 then 2 else if sub ≤ 3 then 1 else 0

/-- The layout of `TRACE_CONTROL`. -/
def traceFields (p : Packet) : List PField := [⟨16, 1, p.num 16 1 ≤ 4⟩, anyVal 24 (8 * traceSub (p.num 16 1))]

def execTraceControlSetRing (ring : BitVec 9) (ecc : Ecc) (s : State) : Out :=
  s.firmware ecc ring.toNat 0x50 (selIs 0 4) ownScope (fun _ p => traceFields p) (fun s p =>
    s.putWords p [(trc p.part 0, p.word 0), (trc p.part 8, p.word 1)] (fun t => t.ok p (t.reg (trc p.part 8))))
def execTraceControlSetCfg (ring : BitVec 9) (ecc : Ecc) (s : State) : Out :=
  s.firmware ecc ring.toNat 0x50 (selIs 1 4) ownScope (fun _ p => traceFields p) (fun s p =>
    s.putWords p [(trc p.part 8, p.word 0)] (fun t => t.ok p (t.reg (trc p.part 8))))
def execTraceControlSetCons (ring : BitVec 9) (ecc : Ecc) (s : State) : Out :=
  s.firmware ecc ring.toNat 0x50 (selIs 2 4) ownScope (fun _ p => traceFields p) (fun s p =>
    s.putWords p [(trc p.part 0x18, p.word 0)] (fun t => t.ok p (t.reg (trc p.part 0x10))))
def execTraceControlSetSnapbase (ring : BitVec 9) (ecc : Ecc) (s : State) : Out :=
  s.firmware ecc ring.toNat 0x50 (selIs 3 4) ownScope (fun _ p => traceFields p) (fun s p =>
    s.putWords p [(trc p.part 0x28, p.word 0)] (fun t => t.ok p))
def execTraceControlRead (ring : BitVec 9) (ecc : Ecc) (s : State) : Out :=
  s.firmware ecc ring.toNat 0x50 (selIs 4 4) ownScope (fun _ p => traceFields p) (fun s p =>
    s.post { p.reply stOk s.devtime (s.reg (trc p.part 0x10)) with start := s.reg (trc p.part 0x20) })

/-! ### `COUNTER_SNAPSHOT` (R342, R405) -/

/-- The layout; a `LEN` that is not 0 and too small is checked by `snapshotCmd`. -/
def snapFields (p : Packet) : List PField := [⟨8, 8, p.param.toNat % 64 == 0⟩, ⟨16, 1, p.num 16 1 ≤ 1⟩, anyVal 24 4]

/-- Size of a snapshot of partition `n` (R403). -/
def State.snapSize (s : State) (n : Nat) : Nat := 256 + 704 * (s.sectCores n).length

/-- The bytes go to the host with the command's completion. -/
def State.snapshotJob (s : State) (p : Packet) (b : List Byte) : State :=
  { s with jobs := s.jobs ++ [⟨p, s.devtime, .snapshot b⟩] }

/-- Byte 8-15 of the latest complete snapshot. -/
def State.snapStep (s : State) (n : Nat) : W64 :=
  BitVec.ofNat 64 (ofLE (Memory.readBytes s.mem (s.snapAddr n (s.rfld (trc n 0x30) 0 1) (s.snapSize n) + 8) 8))

def State.snapshotLatest (s : State) (p : Packet) : State :=
  let n := p.part
  let len := p.num 24 4
  let size := s.snapSize n
  let valid := s.rfld (trc n 0x30) 1 1 = 1
  let a := s.snapAddr n (s.rfld (trc n 0x30) 0 1) size
  if len ≠ 0 ∧ len < size then s.eBounds p size
  else if len = 0 then s.ok p (if valid then s.snapStep n else 0)
  else if !valid then s.eState p 0xFF
  else if s.poisoned a size then (s.deviceFailed n a true).post (p.reply stAborted s.devtime 0 caDevice)
  else s.snapshotJob p (Memory.readBytes s.mem a size)

def State.snapshotNow (s : State) (p : Packet) : State :=
  let n := p.part
  let len := p.num 24 4
  if len ≠ 0 ∧ len < s.snapSize n then s.eBounds p (s.snapSize n)
  else if len = 0 then s.ok p
  else s.snapshotJob p (s.snapBytes n ones64 s.devtime)

def execCounterSnapshotLatest (ring : BitVec 9) (ecc : Ecc) (s : State) : Out :=
  s.firmware ecc ring.toNat 0x51 (selIs 0 1) ownScope (fun _ p => snapFields p) State.snapshotLatest
def execCounterSnapshotNow (ring : BitVec 9) (ecc : Ecc) (s : State) : Out :=
  s.firmware ecc ring.toNat 0x51 (selIs 1 1) ownScope (fun _ p => snapFields p) State.snapshotNow

/-! ### Partitions (R339, R340) -/

/-- `RESET_PARTITION`: an entry in the Sluice's order; its completion follows the `ABORTED` ones that it causes. -/
def State.resetCmd (s : State) (p : Packet) : State :=
  let n := p.num 16 1
  if s.pstate n = psEmpty then s.eState p psEmpty
  else
    let s : State := { s with decided := some s.devtime }
    let (t, k) := s.resetPart n p.id
    let gone := (t.compl.filter (fun c => c.status == stAborted && !s.compl.contains c)).map (·.pkt)
    (t.modPart n (fun q => { q with resetPkt := p.id })).post { p.reply stOk s.devtime (BitVec.ofNat 64 k) with after := gone }

def execResetPartition (ring : BitVec 9) (ecc : Ecc) (s : State) : Out :=
  if s.mayDecide then
    s.firmware ecc ring.toNat opReset (fun _ => true) s.otherScope (fun _ p => [⟨16, 1, p.num 16 1 ≤ 7⟩]) State.resetCmd
  else .next s

/-- The layout of `HOLD_PARTITION`. -/
def holdFields (p : Packet) : List PField := [⟨16, 1, p.num 16 1 ≤ 7⟩, ⟨17, 1, p.num 17 1 ≤ 1⟩]

/-- A hold: the partition is `HELD` when its step ends (R339). -/
def State.holdCmd (s : State) (p : Packet) : State :=
  let n := p.num 16 1
  let st := s.pstate n
  if st = psEmpty then s.eState p psEmpty
  else
    let s := (s.breakCond n 6).modPart n (fun q => { q with startWait := false })
    if (s.part n).step.isSome then
      let s := if st = psRunning then s.setPstate n psDraining else s
      if st = psHeld then s.ok p else { s with jobs := s.jobs ++ [⟨p, s.devtime, .hold n⟩] }
    else (s.becomeHeld n).ok p

/-- A release. -/
def State.releaseCmd (s : State) (p : Packet) : State :=
  let n := p.num 16 1
  let st := s.pstate n
  if st = psEmpty ∨ st = psDraining then s.eState p st
  else if st = psRunning then s.ok p
  else if !s.noHold n then s.eState p psHeld
  else ((s.setPstate n psRunning).modPart n (fun q => { q with lateHold := false })).ok p

def execHoldPartitionHold (ring : BitVec 9) (ecc : Ecc) (s : State) : Out :=
  s.firmware ecc ring.toNat opHold (fun p => p.num 17 1 != 1) s.otherScope (fun _ p => holdFields p) State.holdCmd
def execHoldPartitionRelease (ring : BitVec 9) (ecc : Ecc) (s : State) : Out :=
  s.firmware ecc ring.toNat opHold (fun p => p.num 17 1 != 0) s.otherScope (fun _ p => holdFields p) State.releaseCmd

/-! ### `SET_OPERATING_POINT` (R338) -/

def State.pointCmd (s : State) (p : Packet) : State :=
  let hs := ([0, 1] : List Nat).filter (fun h => (p.num 16 1).testBit h)
  let v := p.num 17 1
  if hs.any (fun h => s.reqRefused h v) then s.eState p 0xFF
  else
    let s := hs.foldl (fun (s : State) h => s.stageReq h v) s
    s.ok p (BitVec.ofNat 64 (s.live 0 + 4 * s.live 1))

def execSetOperatingPoint (ring : BitVec 9) (ecc : Ecc) (s : State) : Out :=
  s.firmware ecc ring.toNat 0x62 (fun _ => true) s.privScope
    (fun _ p => [⟨16, 1, 1 ≤ p.num 16 1 && p.num 16 1 ≤ 3⟩, ⟨17, 1, p.num 17 1 ≤ 2⟩]) State.pointCmd

/-! ### `FABRIC_CONTROL` (R380) -/

/-- Largest `INDEX`, the slots, and the words of a sub-operation. -/
def fabSub (sub : Nat) : Nat × Nat × Nat :=
  match sub with
  | 0 => (15, 1, 1)
  | 1 => (0, 2, 9)
  | 2 => (15, 1, 2)
  | 3 => (63, 1, 2)
  | 4 => (15, 1, 2)
  | 5 => (0, 1, 2)
  | _ => (15, 1, 0)

/-- The layout; a slot count that differs from the sub-operation's fails at the field `SLOTS`, and a byte that the
sub-operation assigns nothing to is reserved (R315). -/
def fabFields (p : Packet) : List PField :=
  [⟨2, 1, 6 < p.num 16 1 || p.slots == (fabSub (p.num 16 1)).2.1⟩, ⟨16, 1, p.num 16 1 ≤ 6⟩,
    ⟨17, 1, p.num 17 1 ≤ (fabSub (p.num 16 1)).1⟩, anyVal 24 (8 * min 4 (fabSub (p.num 16 1)).2.2),
    anyVal 64 (8 * ((fabSub (p.num 16 1)).2.2 - 4))]

/-- The registers that a sub-operation writes, with their words. -/
def fabWords (p : Packet) : List (Nat × W64) :=
  let i := p.num 17 1
  let n := p.part
  match p.num 16 1 with
  | 0 => [(fabp i 8, p.word 0)]
  | 1 => (0x50008, p.word 0) :: (List.range 8).map (fun d => (0x50040 + 8 * d, p.word (1 + d)))
  | 2 => [(0x54000 + n * 0x100 + i * 0x10, p.word 0), (0x54008 + n * 0x100 + i * 0x10, p.word 1)]
  | 3 => [(prng i 0, p.word 0), (prng i 8, p.word 1)]
  | 4 => [(0x56000 + n * 0x100 + i * 0x10, p.word 0), (0x56008 + n * 0x100 + i * 0x10, p.word 1)]
  | 5 => [(0x50028, p.word 0), (0x50018, p.word 1)]
  | _ => []

/-- A sub-operation: its words, then the first one read back, or `FAB_PSTAT`. -/
def State.fabCmd (s : State) (p : Packet) : State :=
  s.putWords p (fabWords p) (fun t => t.ok p (t.reg (match fabWords p with | (o, _) :: _ => o | [] => fabp (p.num 17 1) 0)))

/-- `FABRIC_CONTROL` with a sub-operation. -/
def State.fabricControl (s : State) (ecc : Ecc) (ring : BitVec 9) (sub : Nat) : Out :=
  s.firmware ecc ring.toNat 0x70 (selIs sub 6) s.privScope (fun _ p => fabFields p) State.fabCmd

def execFabricControlPort (ring : BitVec 9) (ecc : Ecc) (s : State) : Out := s.fabricControl ecc ring 0
def execFabricControlTorus (ring : BitVec 9) (ecc : Ecc) (s : State) : Out := s.fabricControl ecc ring 1
def execFabricControlExport (ring : BitVec 9) (ecc : Ecc) (s : State) : Out := s.fabricControl ecc ring 2
def execFabricControlPostRing (ring : BitVec 9) (ecc : Ecc) (s : State) : Out := s.fabricControl ecc ring 3
def execFabricControlBarrier (ring : BitVec 9) (ecc : Ecc) (s : State) : Out := s.fabricControl ecc ring 4
def execFabricControlTime (ring : BitVec 9) (ecc : Ecc) (s : State) : Out := s.fabricControl ecc ring 5
def execFabricControlReadPort (ring : BitVec 9) (ecc : Ecc) (s : State) : Out := s.fabricControl ecc ring 6

end Sys2Proof.Machine
end

