-- ==== Sys2Proof/Machine/Identity.lean ====
section
/-!
DEFINITION. The device image in force (R438, R444): its commit, and how the device enters `TRAIN` again and `RUN`.
-/
namespace Sys2Proof.Machine

/-! ### Identity -/

/-- The device section of an image gives the device its place in the fabric (R360, R377, R438). -/
def State.identify (s : State) (d : DevImage) : State :=
  let s := (s.setReg 0x50000 (BitVec.ofNat 64 (d.devid % 2 ^ 17))).setReg 0x50008 (BitVec.ofNat 64 d.torus)
  let s := (List.range 8).foldl (fun (s : State) i => s.setReg (0x50040 + 8 * i) (BitVec.ofNat 64 (d.dir.getD i 0))) s
  let s := s.setReg 0x50028 (BitVec.ofNat 64 d.gmid)
  (if s.isSource then s.setRfld 0x10 4 1 1 else s).reparent

/-- Two images name the same place in the fabric (R444). -/
def DevImage.sameIdentity (d e : DevImage) : Bool := d.devid == e.devid && d.torus == e.torus && d.dir == e.dir && d.gmid == e.gmid

/-- Two images differ in `PARTMAP` alone, their serials aside (R444). -/
def DevImage.tableOnly (d e : DevImage) : Bool :=
  d.sameIdentity e && d.slots == e.slots && d.auto == e.auto && d.subsys == e.subsys && d.stageBase == e.stageBase &&
    d.stageMib == e.stageMib

/-! ### Conditions (R444) -/

/-- A command of partition `n` other than packet `id` is outstanding (R341): its `FINAL` completion has not been written,
but for an undecided `SUBMIT` or `CANCEL` and a final completion of an item that has been formed. -/
def State.outstanding (s : State) (n id : Nat) : Bool :=
  s.owed.any (fun o => o.ring / 64 == n && o.id != id && !s.sluice.any (fun p => p.id == o.id) &&
      !s.compl.any (fun c => c.pkt == o.id && c.item && c.final)) ||
    s.jobs.any (fun j => j.concerns n && j.pkt.id != id)

/-- A partition whose mask changes meets the conditions of the partition-table row. -/
def State.tableOk (s : State) (n id : Nat) : Bool :=
  (s.part n).commits.isEmpty &&
    (s.pstate n == psEmpty ||
      (s.pstate n == psHeld && (s.part n).berths.all (fun b => !b.2.held) &&
        (List.range (s.idxCount n)).all (fun i => s.idxState (s.idxBase n + i) == ixEmpty) && !s.outstanding n id))

/-- The change is one of `PARTMAP` alone. -/
def State.tableChange (s : State) (d : DevImage) : Bool := match s.devImg with | some e => d.tableOnly e | none => false

/-- The mask of partition `n` changes. -/
def State.maskChanges (s : State) (d : DevImage) (n : Nat) : Bool := mapByte d.partmap n != s.sects n

/-- The first partition that fails its condition. -/
def State.deviceStop (s : State) (d : DevImage) (id : Nat) : Option Nat :=
  let quiet := s.dstate == dsRun && !s.tableChange d
  (List.range 8).find? (fun n =>
    (quiet && !(s.pstate n == psEmpty || (s.pstate n == psHeld && (s.part n).items.isEmpty))) ||
      (s.maskChanges d n && !s.tableOk n id))

/-- Every program, live or committed and waiting, was compiled for the new `SLOTS`. -/
def State.slotsOk (s : State) (d : DevImage) : Bool :=
  (List.range 8).all (fun n =>
    (match (s.part n).prog with | some g => g.cslots == d.slots | none => true) &&
      (s.part n).commits.all (fun c => c.prog.cslots == d.slots))

/-! ### Taking effect -/

/-- Partition `n` becomes `EMPTY`, and its program is discarded (R444, R448). -/
def State.emptyPart (s : State) (n : Nat) : State :=
  let s := (s.partCores n).foldl (fun (s : State) c => s.cutCore c) s
  let s := s.setPstate n psEmpty
  let s := ([0x10, 0x18, 0x20, 0x28] : List Nat).foldl (fun (s : State) o => s.setReg (prt n o) 0) s
  let s := (List.range 32).foldl (fun (s : State) i => s.setReg (prt n (0x200 + 8 * i)) 0) s
  let s := (s.setRfld (cfgStage n) 2 1 0).setRfld (cfgStage n + 8) 0 32 0
  let s : State := { s with tally := { s.tally with held := s.tally.held.filter (fun x => x.1 / 4 != n) } }
  (s.dropLines n).modPart n (fun p => { p with
    prog := none, traceMax := 0, commits := [], startWait := false, nextK := 0, step := none, finalDone := false
    finalSeen := [], barDue := [], berths := [], snap := none })

/-- The image takes effect. -/
def State.applyDevice (s : State) (d : DevImage) : State :=
  let s := ((List.range 8).filter (s.maskChanges d)).foldl State.emptyPart s
  let s : State := { s with partmap := BitVec.ofNat 64 d.partmap, devImg := some d }
  let s := ((s.identify d).setRfld 0x40000 0 7 d.slots).setRfld 0x10 3 1 1
  let s := (s.setRfld (cfgStage 8) 2 1 1).setRfld (cfgStage 8 + 8) 0 32 d.serial
  (s.settleHalf 0).settleHalf 1

/-- The device enters `RUN`, and the device commit that waits for it completes. -/
def State.enterRun (s : State) : State :=
  let s := (s.setDstate dsRun).portsRun
  match s.jobs.find? (fun j => j.kind == .commit 8) with
  | some j => { s with jobs := s.jobs.erase j }.post (j.reply stOk)
  | none => s

/-- A later pass of `TRAIN` is over (R444). -/
def State.trainDone (s : State) : Bool := s.isSource || ((s.parentPort).isSome && s.rfld 0x10 4 1 == 1)

/-- The first `TRAIN` pass used a device section of the same identity (R444). -/
def State.trainedAs (s : State) (d : DevImage) : Bool := match s.boot.trained with | some e => d.sameIdentity e | none => false

/-- From `HOLD` with an image in force: to `RUN` where the first `TRAIN` pass had its identity, else by way of `TRAIN`. -/
def State.leaveHold (s : State) (d : DevImage) : State :=
  if s.trainedAs d ∧ s.rfld 0x10 4 1 = 1 then s.enterRun
  else
    let s := (s.setDstate dsTrain).portsTrain
    if s.isSource then s.enterRun else s

/-- The image takes effect in the state that the device is in; `job` waits for `RUN`. -/
def State.installDevice (s : State) (d : DevImage) (job : List Job) : State :=
  let run := s.dstate = dsRun
  if run ∧ s.tableChange d then
    let s := s.applyDevice d
    job.foldl (fun (s : State) j => s.post (j.reply stOk)) s
  else
    let s := if run then (s.setDstate dsHold).portsHold else s
    let s := s.applyDevice d
    { s with jobs := s.jobs ++ job }.leaveHold d

/-- `COMMIT_CONFIG` of the device image, by packet `p` (R337, R444). -/
def State.commitDevice (s : State) (p : Packet) : State :=
  let b := s.stagedFor 8
  if b.isEmpty ∨ !(s.dstate = dsHold ∨ s.dstate = dsRun) then s.eState p 0xFF
  else
    let o := match sectsOf b 0x10 with | t :: _ => t.off | [] => 0
    let d := deviceOf b o
    match s.deviceStop d p.id with
    | some n => s.eState p (s.pstate n)
    | none =>
      if !s.slotsOk d then s.configFail p 8 (o + 80)
      else (s.consume 8).installDevice d [⟨p, s.devtime, .commit 8⟩]

def execCommitConfigDevice (ring : BitVec 9) (ecc : Ecc) (s : State) : Out :=
  s.firmware ecc ring.toNat 0x11 (fun p => p.num 16 1 == 8) s.otherScope (fun _ _ => [anyVal 8 8, anyVal 16 1])
    State.commitDevice

/-- `TRAIN_PASS_COMPLETE`: a later pass has a parent, and its time is set. -/
def execTrainPassComplete (s : State) : Out :=
  if s.dstate = dsTrain ∧ s.boot.held ∧ s.trainDone then .next s.enterRun else .next s

end Sys2Proof.Machine
end

