-- ==== Sys2Proof/Machine/Bringup.lean ====
section
/-!
DEFINITION. Bring-up (R428-R433): the resets (R430, R455), fuses (R13-R15, R426, R431), the boot flash, the device states
up to `HOLD`, and what can fail in them (R413).
-/
namespace Sys2Proof.Machine

/-! ### Resets (R430, R455) -/

/-- `LIGHT` of the ports follows the laser feeds, whatever resets (R350). -/
def State.lightRegs (s : State) : AMap W64 :=
  (List.range 16).filterMap (fun p => if s.light p then some (fabp p 0, 0x200) else none)

/-- A half after `PORST_N`, where elapsed time restarts at 0: its `VSEL` is low, which may be a change of it (R456, R457). -/
def Half.afterPorst (x : Half) : Half := { Half.reset with pg := x.pg, vselAt := 0, window := x.vsel }

/-- A half after a warm reset at elapsed time `t`: as after `PORST_N`, and a `VSEL` that was low keeps the 100 µs of its latest
change. -/
def Half.afterReset (x : Half) (t : W64) : Half :=
  { Half.reset with pg := x.pg, vselAt := if x.vsel then t else x.vselAt, window := x.vsel || x.window }

/-- The 100 µs after a change of the half's `VSEL` have not passed (R457). -/
def State.inWindow (s : State) (h : Nat) : Bool := (s.half h).window && s.elapsed.toNat < (s.half h).vselAt.toNat + 100000

/-- What no reset touches: the commands that wait, the model's counter, what has left the device, the TAP, the fuses and
the fuse requests, the levels of the inputs. -/
def State.anyReset (s : State) : State :=
  { State.reset with
    pending := s.pending, free := s.free, regs := s.lightRegs, hostOut := s.hostOut, fabOut := s.fabOut
    kflOut := s.kflOut
    lastRead := s.lastRead, reply := s.reply, jtag := s.jtag, bound := s.bound
    west := s.west.afterPorst, east := s.east.afterPorst
    pins := { State.reset.pins with
      warm := s.pins.warm, perst := s.pins.perst, straps := s.pins.straps, trst := s.pins.trst, tdo := s.pins.tdo }
    boot := { State.reset.boot with
      posReq := s.boot.posReq, coreReq := s.boot.coreReq, fusedPos := s.boot.fusedPos, fusedCore := s.boot.fusedCore } }

/-- `PORST_N_FALL`: `OFF` from any state. -/
def execPorstNFall (s : State) : Out :=
  if s.pins.porst then
    let t := s.anyReset
    .next ({ t with pins := { t.pins with porst := false } }.setRfld 0x10 0 3 dsOff)
  else .next s

/-- A JTAG instruction that acts only while `PORST_N` is low (R467). -/
def Jtag.drives : Jtag → Bool
  | .extest => true
  | .clamp => true
  | .highz => true
  | _ => false

/-- `PORST_N_RISE`: the straps are sampled (R465); a JTAG instruction that drove the pins stops acting (R468). -/
def execPorstNRise (straps : BitVec 3) (s : State) : Out :=
  if s.pins.porst then .next s
  else
    let t := s.anyReset
    .next { t with
      pins := { t.pins with straps := straps, inReset := !s.pins.warm }
      jtag := if s.jtag.drives then .bypass else s.jtag }

/-- `WARMRST_N_ASSERT`. -/
def execWarmrstNAssert (s : State) : Out :=
  if s.pins.warm then .next { s with pins := { s.pins with warm := false, warmAt := s.elapsed } } else .next s

/-- Registers kept by a warm reset: mooring states, resolved (R283), and the `ERR_` block but for `ERR_PART` and
`ERR_QUAR` (R418). -/
def keptReg (r : Nat × W64) : Option (Nat × W64) :=
  let o := r.1
  if 0x48000 ≤ o ∧ o < 0x4C000 then
    let v := r.2 &&& 0xAAAAAAAAAAAAAAAA
    if v = 0 then none else some (o, v)
  else if o = 0x80000 then some (o, setBit r.2 0 false)
  else if (0x80000 ≤ o ∧ o < 0x80400) ∨ (0x80500 ≤ o ∧ o < 0x80880) ∨ (0x80900 ≤ o ∧ o < 0x90000) then some r
  else none

/-- A warm reset takes effect (R430, R455). -/
def State.warmReset (s : State) : State :=
  let t := s.anyReset
  let t : State := { t with
    regs := s.regs.filterMap keptReg
    mem := s.mem.filter (fun c => inTier2 c.1)
    poison := s.poison.filter inTier2
    cores := s.cores.map (fun p => (p.1, { Core.reset with suspSrc := p.2.suspSrc }))
    devtime := s.devtime, frac := s.frac, elapsed := s.elapsed, moorUnits := s.moorUnits
    west := s.west.afterReset s.elapsed, east := s.east.afterReset s.elapsed
    sync := { State.reset.sync with last := s.elapsed, ppsGoodAt := s.elapsed }
    boot := { t.boot with highAt := s.boot.highAt }
    pins := { t.pins with warmAt := s.pins.warmAt, inReset := true } }
  let t := (List.range 16).foldl (fun (t : State) p => if s.light p then t.setRfld (fabp p 0) 9 1 1 else t) t
  (t.setRfld 0x10 4 1 (s.rfld 0x10 4 1)).setDstate dsPor

/-- `WARM_RESET`: `WARMRST_N` has been low for 10 µs. -/
def execWarmReset (s : State) : Out :=
  if s.pins.porst ∧ !s.pins.warm ∧ !s.pins.therm ∧ !s.pins.inReset ∧ s.pins.warmAt.toNat + 10000 ≤ s.elapsed.toNat then
    .next s.warmReset
  else .next s

/-- Both resets are high from now on. -/
def State.resetsHigh (s : State) : State :=
  { s with pins := { s.pins with inReset := false }, boot := { s.boot with highAt := s.elapsed } }

/-- `WARMRST_N_RISE`. Whether a pulse of 1 to 10 µs is a warm reset is open. -/
def execWarmrstNRise (s : State) : Out :=
  if s.pins.warm then .next s
  else
    let low := s.elapsed.toNat - s.pins.warmAt.toNat
    let s : State := { s with pins := { s.pins with warm := true } }
    if !s.pins.porst ∨ s.pins.therm then .next s
    else if s.pins.inReset then .next s.resetsHigh
    else if low < 1000 then .next s
    else if low < 10000 then
      let t : State := { s with free := s.free + 1 }
      if Config.warmPulse s.free then .next t.warmReset.resetsHigh else .next t
    else .next s.warmReset.resetsHigh

/-- Those of a list that a test of their places keeps. -/
def keepAt {α : Type} (f : Nat → Bool) (l : List α) : List α := (l.zipIdx.filter (fun x => f x.2)).map (·.1)

/-- A rail, or a core rail's `PG`, is bad (R453, R457): a `SUPPLY` fault; one in `POR`, which comes before every fault, is kept until
`POR` ends (DEDUCED, log 142). -/
def State.railOut (s : State) : State :=
  if s.dstate = dsPor ∧ s.pins.porst then { s with boot := { s.boot with railBad := true } } else s.faultEvent 21 5 0

/-- `VDD_AUX_LOSS` (R431, R453): the rail falls to `mv` mV. Between 1.62 V and 0.18 V each fuse request may be kept or
not. -/
def execVddAuxLoss (mv : BitVec 12) (s : State) : Out :=
  if 1620 ≤ mv.toNat then .next s
  else
    let keep (i : Nat) : Bool := 180 ≤ mv.toNat && Config.fusesKept (s.free + i)
    let k := s.boot.posReq.length
    let t : State := { s with
      free := s.free + k + s.boot.coreReq.length
      boot := { s.boot with posReq := keepAt keep s.boot.posReq, coreReq := keepAt (fun i => keep (k + i)) s.boot.coreReq } }
    .next t.railOut

/-! ### `POR` (R431, R432) -/

/-- Physical position that a half-row has fused out. -/
def State.fusedPos (s : State) (h : Nat) : Option Nat := (s.boot.fusedPos.find? (fun x => x.1 == h)).map (·.2)

/-- The requests burned and cleared: positions of half-rows whose spare is unused, and quarantine fuses (DEDUCED, log 31). -/
def State.burn (s : State) : State :=
  let new := s.boot.posReq.filter (fun x => x.2 ≤ 16 && (s.fusedPos x.1).isNone)
  { s with boot := { s.boot with
    fusedPos := new.foldl (fun m x => AMap.put m x.1 x.2) s.boot.fusedPos
    fusedCore := s.boot.fusedCore ++ s.boot.coreReq.filter (fun c => !s.boot.fusedCore.contains c)
    posReq := [], coreReq := [] } }

/-- The fuse map read into `GLB_HROW` and `ERR_QFUSE`. -/
def State.readFuses (s : State) : State :=
  let s := (List.range 64).foldl (fun (s : State) h =>
    let o := 0x200 + 8 * (h / 2)
    let lo := 32 * (h % 2)
    match s.fusedPos h with
    | some v => (s.setRfld o lo 5 v).setRfld o (lo + 5) 1 1
    | none => s) s
  s.boot.fusedCore.foldl (fun (s : State) c =>
    let o := 0x80900 + 8 * (c / 64)
    s.setReg o (setBit (s.reg o) (c % 64) true)) s

/-- The first failing field of a flash slot: offset 0 for an empty one (R432). -/
def slotBad (b : List Byte) (k : ImgKind) : Option Nat := if b.isEmpty then some 0 else imgBad b k

/-- The valid slot of two with the larger `SERIAL`, A where they are equal. -/
def pickSlot (a b : List Byte) (k : ImgKind) : Option Nat :=
  match slotBad a k, slotBad b k with
  | none, none => some (if imgSerial a < imgSerial b then 1 else 0)
  | none, some _ => some 0
  | some _, none => some 1
  | some _, some _ => none

/-- What `GLB_IMGERR` reports of a slot. -/
def slotErr (b : List Byte) : Nat := (slotBad b .flash).getD 0xFFFFFFFF

/-- The device section of a flash image. -/
def flashImage (b : List Byte) : DevImage := deviceOf b (match sectsOf b 0x10 with | t :: _ => t.off | [] => 0)

/-- The flash has a directory: its `MAGIC`, and zeros where the directory is to hold them. The spec does not say what the boot ROM
does with another one: every slot counts as empty (DESIGN CHOICE, log 143). -/
def flashDir (f : Flash) : Bool := img f.bytes 0 4 == 0x44464D4C && (nonzeroIn f.bytes 20 44).isNone && 64 ≤ f.bytes.length

/-- The image of the slot whose offset stands at byte `o` of the directory, as long as its own `TOTAL` says: no bytes where the slot is
empty. -/
def flashSlot (f : Flash) (o : Nat) : List Byte :=
  let a := img f.bytes o 4
  if flashDir f && a != 0 then (f.bytes.drop a).take (max 64 (imgTotal (f.bytes.drop a))) else []

/-- The two firmware slots and the two image slots. -/
def fwSlotA (f : Flash) : List Byte := flashSlot f 4
def fwSlotB (f : Flash) : List Byte := flashSlot f 8
def imgSlotA (f : Flash) : List Byte := flashSlot f 12
def imgSlotB (f : Flash) : List Byte := flashSlot f 16

/-- The work of `POR` on the boot flash. -/
def State.readFlash (s : State) (f : Flash) : State :=
  let s := (s.setRfld 0x28 0 32 (slotErr (imgSlotA f))).setRfld 0x28 32 32 (slotErr (imgSlotB f))
  let s : State := { s with boot := { s.boot with fw := pickSlot (fwSlotA f) (fwSlotB f) .firmware } }
  match pickSlot (imgSlotA f) (imgSlotB f) .flash with
  | some j =>
    let s := (s.setRfld 0x20 2 1 1).setRfld 0x20 3 1 j
    { s with boot := { s.boot with image := some (flashImage (if j = 0 then imgSlotA f else imgSlotB f)) } }
  | none => s

/-- `POR`: its work, once both resets are high. -/
def execPor (flash : Flash) (s : State) : Out :=
  if s.dstate = dsPor ∧ s.pins.porst ∧ s.pins.warm ∧ !s.boot.porDone then
    let s := (s.burn.readFuses).readFlash flash
    .next { s with boot := { s.boot with porDone := true } }
  else .next s

/-! ### `SELFTEST` (R14, R428) -/

/-- Physical core that supplies logical offset `c` of half-row `h` (R13). -/
def State.physCore (s : State) (h c : Nat) : Nat := h * 17 + s.position (h / 2 * 32 + h % 2 * 16 + c)

/-- The logical cores whose physical core has failed are absent. -/
def State.setAbsent (s : State) (failed : List Nat) : State :=
  (List.range 64).foldl (fun (s : State) h =>
    let m := ((List.range 16).map (fun c => if failed.contains (s.physCore h c) then 2 ^ c else 0)).foldl (· + ·) 0
    s.setRfld (0x200 + 8 * (h / 2)) (32 * (h % 2) + 16) 16 m) s

/-- `SELFTEST`: the physical cores that fail, and whether the die-to-die interface does. A quarantine fuse makes its core
fail (R426). A rail that was or is not good faults as soon as `POR` is over (R453, R457). -/
def execSelftest (failed : List Nat) (d2d : Bool) (s : State) : Out :=
  if s.dstate = dsPor ∧ s.boot.porDone then
    let bad := (List.range 1088).filter (fun c => failed.contains c || s.boot.fusedCore.contains c)
    let s := ((s.setDstate dsSelftest).setAbsent bad).setRfld 0x20 8 11 bad.length
    let s : State := { s with boot := { s.boot with failed := bad } }
    let s := if d2d then s.faultEvent 13 6 0 else s
    .next (if !s.boot.railBad && ([0, 1] : List Nat).all (fun h => (s.half h).pg || s.inWindow h) then s
      else s.faultEvent 21 5 0)
  else .next s

/-! ### `TRAIN`, `BOOT`, `HOLD` (R428, R433) -/

/-- `TRAIN`, first pass: the stacks and the tier 2 ports that fail. -/
def execTrain (hbm : BitVec 8) (lp : BitVec 24) (s : State) : Out :=
  if s.dstate = dsSelftest then
    let s := ((s.setDstate dsTrain).setRfld 0x20 24 8 hbm.toNat).setRfld 0x20 32 24 lp.toNat
    let s := s.setRfld 0x40000 32 24 (2 ^ 24 - 1 - lp.toNat)
    let s : State := { s with boot := { s.boot with trained := s.boot.image } }
    let s := match s.boot.image with | some d => (s.identify d).portsTrain | none => s
    .next (if hbm = 0 then s else s.faultEvent 11 7 (((List.range 8).find? hbm.getLsbD).getD 0))
  else .next s

/-- The lowest failed position of half-row `h` that supplies a logical core. -/
def State.failedIn (s : State) (h : Nat) : Option Nat :=
  ((List.range 16).map (fun c => s.physCore h c)).find? s.boot.failed.contains |>.map (· - h * 17)

/-- `REFUSE_POS` that Prelin writes for what `SELFTEST` found (R14). -/
def State.bootRefuse (s : State) : State :=
  (List.range 64).foldl (fun (s : State) h =>
    let o := 0x200 + 8 * (h / 2)
    let lo := 32 * (h % 2)
    match s.failedIn h with
    | some v =>
      if s.rfld o (lo + 5) 1 = 0 ∧ s.rfld o (lo + 7) 5 = 0x1F then (s.setRfld o (lo + 7) 5 v).askPos h v else s
    | none => s) s

/-- A port that is not `UP` stops training with the end of `TRAIN` (R348). -/
def State.portsBoot (s : State) : State :=
  (List.range 16).foldl (fun (s : State) p => if s.pstat p = pTraining then s.portState p pDown 0 else s) s

/-- `BOOT`: the chosen firmware slot is authenticated and started; with none the device stays here. -/
def execBoot (s : State) : Out :=
  if s.dstate = dsTrain ∧ !s.boot.held then
    let s := (s.setDstate dsBoot).portsBoot
    match s.boot.fw with
    | some j => .next (((s.setRfld 0x20 0 1 1).setRfld 0x20 1 1 j).bootRefuse)
    | none => .next s
  else .next s

/-- `HOLD`: Prelin is ready; an image taken from flash with `AUTOCOMMIT` is committed. -/
def execHold (s : State) : Out :=
  if s.dstate = dsBoot ∧ s.rfld 0x20 0 1 = 1 then
    let s := (s.setDstate dsHold).portsHold
    let s : State := { s with boot := { s.boot with held := true } }
    let s := (s.settleHalf 0).settleHalf 1
    match s.boot.image with
    | some d => .next (if d.auto then s.installDevice d [] else s)
    | none => .next s
  else .next s

/-! ### Failures at run time (R413) -/

/-- `LOCKSTEP_MISMATCH` (R24, R413): a mismatch or an uncorrected memory error in CP0 or CP1, once they have started; or one that the
code of their memories corrects. -/
def execLockstepMismatch (e : CpError) (s : State) : Out :=
  if s.dstate < dsBoot then .next s
  else .next (if e.corrected then s.countErr 17 false else s.faultEvent 17 (if e.cp1 then 2 else 1) 0)

/-- `HBM_STACK_FAILURE`. -/
def execHbmStackFailure (stack : BitVec 3) (s : State) : Out := .next (s.faultEvent 11 7 stack.toNat)

/-- `TIER2_PORT_LINK_FAILURE`: the port leaves service, and condition 1 of R50 fails for every partition (R415). -/
def execTier2PortLinkFailure (port : BitVec 5) (s : State) : Out :=
  let k := port.toNat
  if k < 24 ∧ dsTrain ≤ s.dstate ∧ s.rfld 0x40000 (32 + k) 1 = 1 then
    let s := ((s.setRfld 0x40000 (32 + k) 1 0).countErr 12 true).errLog ⟨12, 1, none, 0, none, 0, 0, k⟩
    .next ((List.range 8).foldl (fun (s : State) n => s.breakCond n 1) s)
  else .next s

/-- `D2D_FLIT_CRC_ERROR`: the flit is replayed. -/
def execD2dFlitCrcError (s : State) : Out := if s.dstate < dsSelftest then .next s else .next (s.countErr 13 false)

/-- `D2D_RETRAIN_TIMEOUT`. -/
def execD2dRetrainTimeout (s : State) : Out := .next (s.faultEvent 13 6 0)

end Sys2Proof.Machine
end

