-- ==== Sys2Proof/Machine/Power.lean ====
section
/-!
DEFINITION. Supplies, clocks, heat and power (R257, R416-R417, R453-R458, R461-R464).
-/
namespace Sys2Proof.Machine

/-! ### Faults -/

/-- `THERMAL_TRIP` (R417, R464): `THERMTRIP_N` goes low and stays low; in `FAULT` already no further cause is recorded. -/
def execThermalTrip (s : State) : Out :=
  if s.dstate < dsSelftest then .next s
  else
    let s := s.faultEvent 21 4 0
    .next { s with pins := { s.pins with therm := true } }

/-- `SUPPLY_RAIL_OUT_OF_WINDOW` (R453): a rail leaves its monitor window, outside the change window of R457. -/
def execSupplyRailOutOfWindow (s : State) : Out := .next s.railOut

/-- `REFERENCE_CLOCK_LOSS` (R458): a PLL loses lock after `POR`. -/
def execReferenceClockLoss (s : State) : Out := .next (s.faultEvent 21 5 0)

/-! ### The core rail interface (R257, R457) -/

/-- `VOLTAGE_LOWER_REQUEST`: 1 µs after the clock change. -/
def execVoltageLowerRequest (half : Bool) (s : State) : Out :=
  let h := half.toNat
  match (s.half h).lowDue with
  | some t => if t ≤ s.elapsed then .next (s.setVsel h false) else .next s
  | none => .next s

/-- `PG_CHANGE`: after a thermal trip the level is ignored (R468). -/
def execPgChange (half level : Bool) (s : State) : Out :=
  let h := half.toNat
  let s := s.setHalf h { s.half h with pg := level }
  if s.pins.therm then .next s
  else if level then .next (s.settleHalf h)
  else if s.inWindow h ∨ !s.pins.porst then .next s
  else .next s.railOut

/-- `PG_WINDOW_EXPIRY`. -/
def execPgWindowExpiry (half : Bool) (s : State) : Out :=
  let h := half.toNat
  if (s.half h).window ∧ !s.inWindow h then
    let s := s.setHalf h { s.half h with window := false }
    .next (if (s.half h).pg || s.pins.therm then s else s.railOut)
  else .next s

/-! ### Throttling and capping (R462, R463) -/

/-- CP1 runs: from the end of `BOOT`, but not once it has failed (R465). -/
def State.cp1Runs (s : State) : Bool := s.boot.held && !(s.dstate == dsFault && s.rfld 0x80000 8 8 == 2)

/-- Prelin writes the lower of the two ceilings to a half's `CAP`. -/
def State.ceilings (s : State) (h : Nat) : State :=
  let x := s.half h
  (s.setRfld 0x90010 (24 + h) 1 x.thr.toNat).setCap h (if x.thr || x.cap then 1 else 2)

/-- What throttling does with a half whose hottest sensor reads `t`. -/
def State.throttle (s : State) (h t : Nat) : State :=
  let x := s.half h
  let lim := s.rfld 0x90010 16 8
  let now := s.elapsed
  if lim ≤ t then
    let x : Half := { x with coolSince := none }
    match x.thrAt with
    | some a =>
      if a.toNat + 10000000 ≤ now.toNat then (s.setHalf h { x with thr := true, thrAt := some now }).ceilings h else s.setHalf h x
    | none => (s.setHalf h { x with thr := true, thrAt := some now }).ceilings h
  else if t + 5 ≤ lim then
    match x.coolSince with
    | some a =>
      if x.thr ∧ a.toNat + 100000000 ≤ now.toNat then (s.setHalf h { x with thr := false, coolSince := none }).ceilings h else s
    | none => if x.thr then s.setHalf h { x with coolSince := some now } else s
  else s.setHalf h { x with coolSince := none }

/-- `THROTTLE_EVALUATION` (R462): `TMAX` of a half, and what Prelin does with it. -/
def execThrottleEvaluation (half : Bool) (temp : BitVec 8) (s : State) : Out :=
  if dsSelftest ≤ s.dstate then
    let s := s.setRfld 0x90010 (8 * half.toNat) 8 temp.toNat
    .next (if s.cp1Runs then s.throttle half.toNat temp.toNat else s)
  else .next s

/-- One more half is capped: the one of higher estimated power that is not, West where they are equal. -/
def State.capOne (s : State) (west east : Nat) : State :=
  let free := (if west < east then [1, 0] else [0, 1]).filter (fun h => !(s.half h).cap)
  match free with
  | h :: _ => ({ (s.setHalf h { s.half h with cap := true }) with capped := h :: s.capped }).ceilings h
  | [] => s

/-- The half capped last is let go. -/
def State.uncapOne (s : State) : State :=
  match s.capped with
  | h :: rest => ({ (s.setHalf h { s.half h with cap := false }) with capped := rest }).ceilings h
  | [] => s

/-- What capping does at an evaluation. A limit of 0 disables it, and every half is let go (DEDUCED, log 32). -/
def State.powerCap (s : State) (avg west east : Nat) : State :=
  let lim := s.rfld 0x90018 0 16
  if lim = 0 then { s.uncapOne.uncapOne with calmSince := none }
  else if lim < avg then { s with calmSince := none }.capOne west east
  else if 100 * avg < 95 * lim then
    match s.calmSince with
    | some t => if t.toNat + 100000000 ≤ s.elapsed.toNat then { s.uncapOne with calmSince := some s.elapsed } else s
    | none => { s with calmSince := some s.elapsed }
  else { s with calmSince := none }

/-- `POWER_CAP_EVALUATION` (R463): the average over 10 ms, the largest 1 ms estimate, and the halves' estimates. -/
def execPowerCapEvaluation (avg peak west east : BitVec 16) (s : State) : Out :=
  if dsSelftest ≤ s.dstate then
    let s := (s.setRfld 0x90020 0 16 avg.toNat).setRfld 0x90020 16 16 (max peak.toNat (s.rfld 0x90020 16 16))
    .next (if s.cp1Runs then s.powerCap avg.toNat west.toNat east.toNat else s)
  else .next s

end Sys2Proof.Machine
end

