-- ==== Sys2Proof/Machine/Regs.lean ====
section
/-!
DEFINITION. Accesses of the host: reads of BAR0 (R4-R7, R443, R469) and BAR4, doorbells (R301-R303), register writes with
rows of their own, and what the PCIe functions go through (R293, R296, R311-R313).
-/
namespace Sys2Proof.Machine

/-! ### What a register reads as -/

/-- The debug and control window of a core (R7, R16, R161, R177-R178, R198, R221, R401). -/
def State.coreWindow (s : State) (c w : Nat) : W64 :=
  if !s.present c then 0
  else
    let k := s.core c
    if w < 0x1000 then 0
    else if w < 0x1200 then k.stall.toList.getD ((w - 0x1000) / 8) 0
    else if w < 0x1220 then k.strWords.getD ((w - 0x1200) / 8) 0
    else if 0x1300 ≤ w ∧ w < 0x1400 then (s.chan c (BitVec.ofNat 3 ((w - 0x1300) / 0x20))).word ((w - 0x1300) / 8 % 4)
    else if 0x1400 ≤ w ∧ w < 0x1430 then k.msgWords.getD ((w - 0x1400) / 8) 0
    else if w = 0x1500 then k.scoreWord
    else if 0x1600 ≤ w ∧ w < 0x1640 then k.perfWords.getD ((w - 0x1600) / 8) 0
    else 0

/-- The mirrors of staged values (R443). -/
def State.mirror (s : State) (o : Nat) : W64 :=
  if 0xA8000 ≤ o ∧ o < 0xB0000 then s.eff (o - 0xA8000 + 0x30000) &&& (regInfo (o - 0xA8000 + 0x30000)).st
  else if 0xA1000 ≤ o ∧ o < 0xA1800 then s.eff (o - 0xA1000 + 0x54000)
  else if 0xA2000 ≤ o ∧ o < 0xA2800 then s.eff (o - 0xA2000 + 0x56000)
  else if 0xA3000 ≤ o ∧ o < 0xA3040 then s.eff (0x70028 + (o - 0xA3000) / 8 * 0x100)
  else if 0xA4000 ≤ o ∧ o < 0xA6000 then
    let k := s.core ((o - 0xA4000) / 8)
    (k.nisplitStaged.getD k.nisplit).setWidth 64
  else if o = 0xA0100 ∨ o = 0xA0108 then s.eff (o - 0xA0100 + 0x90000) &&& 0xC
  else s.reg o

/-- The live value of the register word at an offset, with the fields that follow other state. -/
def State.view (s : State) (o : Nat) : W64 :=
  if 0x800000 ≤ o ∧ o < 0x1000000 then s.coreWindow ((o - 0x800000) / 0x2000) ((o - 0x800000) % 0x2000)
  else if o = 0x10020 then BitVec.ofNat 64 s.fwq.length
  else if inArr o 0x10100 8 8 then BitVec.ofNat 64 (s.entriesUsed ((o - 0x10100) / 8))
  else if o = 0x20008 then setFld (s.reg o) 0 7 s.sluice.length
  else if inArr o 0x30120 0x1000 8 then BitVec.ofNat 64 (min 65535 (s.part ((o - 0x30120) / 0x1000)).dead.length)
  else if o = 0x60000 then s.devtime
  else if o = 0x80000 then
    let r := setBit (s.reg o) 16 (s.reg 0x80018 != s.reg 0x80020)
    setBit r 17 ((List.range 8).any (fun n => s.consHold n))
  else if inArr o 0x90000 8 2 then
    let h := (o - 0x90000) / 8
    let r := setFld (s.reg o) 6 2 (s.declPoint h)
    setBit (setBit r 8 (s.target h != s.live h)) 9 (s.vgood h)
  else if 0xA0100 ≤ o ∧ o < 0xB0000 then s.mirror o
  else s.reg o

/-! ### Reads -/

/-- The RC bits that a read clears: those of the fields that it covers whole (R469). -/
def rcCleared (o : Nat) (h : RegHalf) : W64 :=
  if inArr o 0x20100 0x8 64 ∧ h ≠ .all then 0 else (regInfo o).rc &&& coverMask h

/-- The value that a read of covered bits returns. -/
def readValue (h : RegHalf) (v : W64) : W64 :=
  match h with
  | .all => v
  | .low => v &&& 0xFFFFFFFF
  | .high => v >>> 32
  | .other => 0

/-- A host read through a function's BAR0: what it returns, and the RC fields that it clears (R4, R294, R429, R469). -/
def State.hostRead (s : State) (fn o : Nat) (h : RegHalf) : State :=
  if !s.pins.perst || s.link.d3hot.getLsbD fn then s
  else
    match s.barSource fn o with
    | some a =>
      if !s.barOpen (a % 0x100000000) then { s with lastRead := 0 }
      else
        let s : State := { s with lastRead := readValue h (s.view a) }
        if rcCleared a h = 0 then s else s.setReg a (s.reg a &&& ~~~rcCleared a h)
    | none => { s with lastRead := 0 }

def execSlcStatRead (acc : RegHalf) (s : State) : Out := .next (s.hostRead 0 0x20008 acc)
def execSlcCntRead (part k : BitVec 3) (acc : RegHalf) (s : State) : Out :=
  .next (s.hostRead 0 (0x20100 + 0x40 * part.toNat + 8 * k.toNat) acc)
/-- `PRT_WDOG_READ`: through the PF's BAR0, or through the view of a VF, which reads as the register does. -/
def execPrtWdogRead (page : PartPage) (acc : RegHalf) (s : State) : Out :=
  let n := page.part.toNat
  .next (if page.vf then s.hostRead (vfOf n) 0x70 acc else s.hostRead 0 (prt n 0x70) acc)
def execPwrHalfopRead (half : Bool) (acc : RegHalf) (s : State) : Out := .next (s.hostRead 0 (halfop half.toNat) acc)
def execHstFlrlostRead (acc : RegHalf) (s : State) : Out := .next (s.hostRead 0 0x10018 acc)
def execFabPstatRead (port : BitVec 4) (acc : RegHalf) (s : State) : Out := .next (s.hostRead 0 (fabp port.toNat 0) acc)
def execFabPfecRead (port : BitVec 4) (acc : RegHalf) (s : State) : Out := .next (s.hostRead 0 (fabp port.toNat 0x10) acc)
def execFabPretryRead (port : BitVec 4) (acc : RegHalf) (s : State) : Out := .next (s.hostRead 0 (fabp port.toNat 0x18) acc)
def execFabRtoRead (acc : RegHalf) (s : State) : Out := .next (s.hostRead 0 0x50018 acc)
def execTimPpserrRead (acc : RegHalf) (s : State) : Out := .next (s.hostRead 0 0x60020 acc)
def execTrcSnapstatRead (part : BitVec 3) (acc : RegHalf) (s : State) : Out := .next (s.hostRead 0 (trc part.toNat 0x30) acc)
def execErrCntRead (k : BitVec 5) (acc : RegHalf) (s : State) : Out := .next (s.hostRead 0 (0x80100 + 8 * k.toNat) acc)
def execErrLoglostRead (acc : RegHalf) (s : State) : Out := .next (s.hostRead 0 0x80028 acc)
def execPwrPowerRead (acc : RegHalf) (s : State) : Out := .next (s.hostRead 0 0x90020 acc)

/-- `SCOREBOARD_READ` (R221): `PEAK` lies in the low half, and counts from the entries held now. -/
def execScoreboardRead (core : BitVec 10) (acc : RegHalf) (s : State) : Out :=
  let c := core.toNat
  let o := 0x800000 + c * 0x2000 + 0x1500
  let t := s.hostRead 0 o acc
  if s.pins.perst ∧ !s.link.d3hot.getLsbD 0 ∧ s.barOpen o ∧ s.present c ∧ (acc = .all ∨ acc = .low) then
    .next (t.modCore c (fun k => { k with mem := { k.mem with peak := k.mem.accs.length } }))
  else .next t

/-! ### Doorbells (R301-R303) -/

/-- The ring pair that a page of a function's BAR2 serves (R294). -/
def State.doorRing (s : State) (fn page : Nat) : Option Nat :=
  if !s.pins.perst || !s.outOfReset || s.link.d3hot.getLsbD fn then none
  else if fn = 0 then (if s.fnOf (page / 32) = 0 then some (64 * (page / 32) + page % 32) else none)
  else if s.vfOn fn ∧ page < 64 then some (64 * (fn - 1) + page)
  else none

/-- A write to a doorbell page; one that is not of 4 bytes is ignored (R301). -/
def State.doorbell (s : State) (door : DoorWrite) (act : Nat → State) : Out :=
  match s.doorRing door.fn.toNat door.page.toNat with
  | some g => .next (if door.size = 4 then act g else s)
  | none => .next s

/-- A submission doorbell of ring pair `g`. -/
def State.sqBell (s : State) (v g : Nat) : State :=
  if !s.sqEn g then s.setRfld (rg g 0x38) 2 1 1
  else if cdiff v (s.sqTail g) ≤ s.sqSize g - cdiff (s.sqTail g) (s.sqHead g) then
    let s := (s.setRfld (rg g 0x10) 0 32 v).setReg (rg g 0x30) s.devtime
    { s with link := { s.link with bells := AMap.put s.link.bells g (AMap.get [] s.link.bells g ++ [(v, s.devtime)]) } }
  else s.setRfld (rg g 0x38) 0 1 1

/-- A completion doorbell of ring pair `g`. -/
def State.cqBell (s : State) (v g : Nat) : State :=
  if !s.cqEn g then s.setRfld (rg g 0x38) 2 1 1
  else if cdiff v (s.cqCons g) ≤ cdiff (s.cqProd g) (s.cqCons g) then s.setRfld (rg g 0x28) 32 32 v
  else s.setRfld (rg g 0x38) 1 1 1

/-- `SQ_TAIL`. -/
def execSqTail (door : DoorWrite) (v : W32) (s : State) : Out :=
  s.doorbell door (s.sqBell v.toNat)

/-- `CQ_HEAD`. -/
def execCqHead (door : DoorWrite) (v : W32) (s : State) : Out :=
  s.doorbell door (s.cqBell v.toNat)

/-! ### Register writes -/

/-- Offset of `HST_SQCFG` or `HST_CQCFG` of a ring pair. -/
def ringCfgOff (ring : BitVec 9) (cq : Bool) : Nat := rg ring.toNat (if cq then 0x20 else 0x08)

def execRingEnable (ring : BitVec 9) (cq : Bool) (v : W64) (s : State) : Out := .next (s.hostWrite 0 (ringCfgOff ring cq) .all v)
def execRingDisable (ring : BitVec 9) (cq : Bool) (v : W64) (s : State) : Out := .next (s.hostWrite 0 (ringCfgOff ring cq) .all v)
def execHstWinbaseWrite (v : W64) (s : State) : Out := .next (s.hostWrite 0 0x10010 .all v)
def execPrtTtflush (part : BitVec 3) (v : W64) (s : State) : Out := .next (s.hostWrite 0 (prt part.toNat 0x90) .all v)
def execErrQforce (v : W64) (s : State) : Out := .next (s.hostWrite 0 0x80038 .all v)
def execErrLogconsWrite (v : W64) (s : State) : Out := .next (s.hostWrite 0 0x80020 .all v)
def execTrcCfgWrite (part : BitVec 3) (v : W64) (s : State) : Out := .next (s.hostWrite 0 (trc part.toNat 8) .all v)
def execTrcConsWrite (part : BitVec 3) (v : W64) (s : State) : Out := .next (s.hostWrite 0 (trc part.toNat 0x18) .all v)
def execPrtDlconsWrite (part : BitVec 3) (v : W64) (s : State) : Out := .next (s.hostWrite 0 (prt part.toNat 0x118) .all v)

/-- `GLB_HROW` of half-row `n` is the low or the high half of a word (R15). -/
def execRefusePosWrite (n : BitVec 6) (v : W32) (s : State) : Out :=
  let hi := n.getLsbD 0
  .next (s.hostWrite 0 (0x200 + 8 * (n.toNat / 2)) (if hi then .high else .low) (v.setWidth 64 <<< (if hi then 32 else 0)))

def execHalfopReqWrite (half : Bool) (v : W64) (s : State) : Out := .next (s.hostWrite 0 (halfop half.toNat) .all v)
def execHalfopCapWrite (half : Bool) (v : W64) (s : State) : Out := .next (s.hostWrite 0 (halfop half.toNat) .all v)
def execFabPctlRetrain (port : BitVec 4) (v : W64) (s : State) : Out := .next (s.hostWrite 0 (fabp port.toNat 8) .all v)
def execFabPctlDisable (port : BitVec 4) (v : W64) (s : State) : Out := .next (s.hostWrite 0 (fabp port.toNat 8) .all v)
def execPostRingDisable (r : BitVec 6) (v : W64) (s : State) : Out := .next (s.hostWrite 0 (prng r.toNat 0) .all v)
def execErrSuspClear (k : BitVec 4) (v : W64) (s : State) : Out := .next (s.hostWrite 0 (0x80800 + 8 * k.toNat) .all v)
def execRegisterWrite (fn : BitVec 4) (off : W32) (half : RegHalf) (v : W64) (s : State) : Out :=
  .next (s.hostWrite fn.toNat off.toNat half v)

/-- `TTFLUSH_COMPLETE` (R275): the caches of the partition's cores are empty, and `BUSY` clears. -/
def execTtflushComplete (part : BitVec 3) (s : State) : Out :=
  let n := part.toNat
  if s.rfld (prt n 0x90) 1 1 = 1 then
    let s := (s.partCores n).foldl (fun (s : State) c => s.modCore c (fun k => { k with mem := { k.mem with tlb := [] } })) s
    .next (s.setRfld (prt n 0x90) 1 1 0)
  else .next s

/-! ### BAR4 (R296) -/

/-- Device physical address of an access through BAR4, where its whole range lies in a tier. -/
def State.windowAddr (s : State) (off : W64) (len : Nat) : Option Nat :=
  let a := s.rfld 0x10010 0 43 + off.toNat
  if off.toNat + len ≤ 2 ^ s.link.barLog ∧ inTiers a len then some a else none

/-- The host can reach BAR4. -/
def State.windowOpen (s : State) : Bool := s.pins.perst && s.outOfReset && !s.link.d3hot.getLsbD 0

/-- The reply of a read through BAR4. -/
def State.winSays (s : State) (r : WinReply) : State := { s with link := { s.link with win := r } }

/-- `BAR4_READ`: the bytes, Unsupported Request, or a poisoned TLP, which counts as an uncorrected error each time (R413
index 11, 12). -/
def execBar4Read (off : W64) (len : Nat) (ecc : Ecc) (s : State) : Out :=
  if !s.windowOpen then .next s
  else
    match s.windowAddr off len with
    | none => .next (s.winSays .unsupported)
    | some a =>
      if s.poisoned a len ∨ !s.rangeUp a len then
        let src := if inTier1 a then 11 else 12
        .next (((s.countErr src true).errLog ⟨src, 1, none, excEcc, none, 0, BitVec.ofNat 64 a,
          if inTier1 a then a / 4096 % 8 else tier2Port a⟩).winSays .poisoned)
      else
        let t := s.eccEvent a ecc
        .next (t.winSays (if t.poisoned a len then .poisoned else .data (Memory.readBytes t.mem a len)))

/-- `BAR4_WRITE`: lines whose home is out of service are lost. -/
def execBar4Write (off : W64) (bytes : List Byte) (s : State) : Out :=
  if !s.windowOpen then .next s
  else
    match s.windowAddr off bytes.length with
    | none => .next (s.setRfld 0x10000 16 1 1)
    | some a => .next (s.putBytes a bytes)

/-! ### Functions (R293, R311-R313) -/

/-- Register words back at reset. -/
def State.resetRegs (s : State) (f : Nat → Bool) : State := { s with regs := s.regs.filter (fun r => !f r.1) }

/-- The rings of partition `n` disabled as by writes of `EN` = 0 (R300). -/
def State.ringsOff (s : State) (n : Nat) : State :=
  (List.range 64).foldl (fun (s : State) j =>
    let g := 64 * n + j
    let s := if s.sqEn g then s.setRfld (rg g 0x08) 6 1 0 else s
    if s.cqEn g then s.setRfld (rg g 0x20) 6 1 0 else s) s

/-- The ring registers of partition `n` return to reset. -/
def State.ringsReset (s : State) (n : Nat) : State :=
  let s := s.resetRegs (fun o => rg (64 * n) 0 ≤ o && o < rg (64 * n + 64) 0)
  { s with link := { s.link with
      coal := s.link.coal.filter (fun x => x.1 / 64 != n), bells := s.link.bells.filter (fun x => x.1 / 64 != n)
      framed := s.link.framed.filter (fun g => g / 64 != n) } }

/-- The MSI-X table and pending bits of a function return to reset; its controls do (R312). -/
def State.msixReset (s : State) (fn : Nat) : State :=
  let b := fn * 0x100000000
  let s := s.resetRegs (fun o => b + 0x100000 ≤ o && o < b + 0x108100)
  { s with link := { s.link with
      bme := setBit s.link.bme fn false, d3hot := setBit s.link.d3hot fn false
      msixOn := setBit s.link.msixOn fn false, msixMask := setBit s.link.msixMask fn false } }

/-- The SR-IOV controls take values: partitions that move to another function have their rings disabled (R293). A
function that is gone is at reset (PRESUMED, log 30). -/
def State.setVfs (s : State) (en : Bool) (num : Nat) : State :=
  let on (n : Nat) : Bool := en && n < num
  let moved := (List.range 8).filter (fun n => (s.fnOf n != 0) != on n)
  let mask := ((List.range 8).map (fun n => if on n then 2 ^ n else 0)).foldl (· + ·) 0
  let s := moved.foldl State.ringsOff s
  let s := (moved.filter (fun n => !on n)).foldl (fun (s : State) n => s.msixReset (n + 1)) s
  s.setReg 0x10008 (BitVec.ofNat 64 (num + en.toNat * 16 + mask * 256))

/-- `VF_ENABLE_CHANGE`. -/
def execVfEnableChange (en : Bool) (num : BitVec 4) (s : State) : Out :=
  if num.toNat ≤ sriov.totalVfs ∧ s.pins.perst then .next (s.setVfs en num.toNat) else .next s

/-- The controls of a function take values; messages that waited for them are sent (R292, R313; PRESUMED of PCI Express, log
118). -/
def State.setControls (s : State) (f : Nat) (v : PciControl) : State :=
  let s : State := { s with link := { s.link with
    bme := setBit s.link.bme f v.busMaster, d3hot := setBit s.link.d3hot f v.d3hot
    msixOn := setBit s.link.msixOn f v.msixOn, msixMask := setBit s.link.msixMask f v.msixMask
    aer := s.link.aer &&& ~~~(if f = 0 then v.aerClear else 0) } }
  if s.fnSends f then (s.msixPending f).foldl (fun (s : State) v => s.msixRelease f v) s else s

/-- `BUS_MASTER_ENABLE_CHANGE` (R313). -/
def execBusMasterEnableChange (fn : BitVec 4) (on : PciControl) (s : State) : Out :=
  if !s.pins.perst ∨ !(fn.toNat = 0 ∨ s.vfOn fn.toNat) then .next s else .next (s.setControls fn.toNat on)

/-- `BAR_RESIZE` (R296): while Memory Space Enable is 0. -/
def execBarResize (log : BitVec 6) (mse : Bool) (s : State) : Out :=
  if !mse ∧ 28 ≤ log.toNat ∧ log.toNat ≤ 36 ∧ s.pins.perst then .next { s with link := { s.link with barLog := log.toNat } }
  else .next s

/-- `MSIX_UNMASK` (R311): the write that clears the vector's mask bit. -/
def execMsixUnmask (fn : BitVec 4) (vec : BitVec 11) (s : State) : Out :=
  let o := if fn = 0 then msixEntry vec.toNat + 8 else 0x2008 + 16 * vec.toNat
  .next (s.hostWrite fn.toNat o .high 0)

/-- The partitions that a function serves. -/
def State.serves (s : State) (fn : Nat) : List Nat := (List.range 8).filter (fun n => s.fnOf n == fn)

/-- What an FLR does to partition `n` at its start (R312): what `RESET_PARTITION` does, or, to an `EMPTY` one, the end
of its outstanding commands. -/
def State.flrPart (s : State) (n : Nat) : State := if s.pstate n = psEmpty then (s.abortPart n 0 true).1 else (s.resetPart n 0).1

/-- `FLR`. -/
def execFlr (fn : BitVec 4) (s : State) : Out :=
  let f := fn.toNat
  if !s.pins.perst ∨ !(f = 0 ∨ s.vfOn f) then .next s
  else
    let s := (s.serves f).foldl State.flrPart s
    .next { s with link := { s.link with flrs := AMap.put s.link.flrs f s.elapsed } }

/-- What is left of partition `n`'s completions at the end of an FLR is lost, and counted. -/
def State.flrLose (s : State) (n : Nat) : State :=
  let gone := s.compl.filter (fun c => c.ring / 64 == n)
  let lost := gone.length
  let s := s.setOwed n (s.owed.filter (fun o => o.ring / 64 != n || !s.compl.any (fun c => c.pkt == o.id && c.final)))
  let s : State := { s with
    compl := s.compl.filter (fun c => c.ring / 64 != n)
    tally := { s.tally with out := subAt s.tally.out n (gone.countP (fun c => c.item && c.final)) } }
  (s.setRfld 0x10018 0 32 (min (s.rfld 0x10018 0 32 + lost) (2 ^ 32 - 1))).ringsReset n |>.hsigServe n 64

/-- `FLR_END`: 100 ms after the start. The host link's registers are the function's own. -/
def execFlrEnd (fn : BitVec 4) (s : State) : Out :=
  let f := fn.toNat
  match s.link.flrs.find? (fun x => x.1 == f) with
  | none => .next s
  | some (_, t) =>
    if s.elapsed.toNat < t.toNat + 100000000 then .next s
    else
      let s := (s.serves f).foldl State.flrLose s
      let s : State := { s with link := { s.link with flrs := s.link.flrs.filter (fun x => x.1 != f) } }
      let s := s.msixReset f
      if f ≠ 0 then .next s
      else
        let s := (s.setVfs false 0).resetRegs (fun o => o == 0x10010 || o == 0x10028)
        .next ({ s with link := { s.link with barLog := 28 } }.setRfld 0x10000 16 1 0)

/-- `PE_PERST_N` falls: every function's registers and every ring return to reset; pending completions wait. -/
def State.perstLow (s : State) : State :=
  let s := s.resetRegs (fun o => (0x10000 ≤ o && o < 0x20000) || 0x100000 ≤ o % 0x100000000)
  { s with link := { HostLink.reset with win := s.link.win }, pins := { s.pins with perst := false } }

/-- `PE_PERST_N` (R313, R430). -/
def execPePerstN (level : Bool) (s : State) : Out :=
  if level then .next { s with pins := { s.pins with perst := true } } else .next s.perstLow

/-- `PCIE_LINK_STATE_CHANGE` (R298). -/
def execPcieLinkStateChange (speed : BitVec 4) (width : BitVec 5) (flit up : Bool) (s : State) : Out :=
  if up ∧ s.pins.perst then
    .next (s.setRfld 0x10000 0 11 (speed.toNat + width.toNat * 16 + flit.toNat * 512 + 1024))
  else .next (s.setRfld 0x10000 0 11 0)

end Sys2Proof.Machine
end

