-- ==== Sys2Proof/Machine/Manage.lean ====
section
/-!
DEFINITION. Management over SMBus and MCTP (R465-R466), JTAG (R467-R468), and the output pins that follow other state
(R452, R418, R429, R456, R464).
-/
namespace Sys2Proof.Machine

/-! ### SMBus and MCTP -/

/-- `SMBUS_BLOCK_READ`: `GLB_STATE` and then `ERR_STAT`, from 20 ms after the rise of `PORST_N`. -/
def execSmbusBlockRead (s : State) : Out :=
  if s.pins.porst ∧ 20000000 ≤ s.elapsed.toNat then
    .next { s with reply := toLE 8 (s.view 0x10).toNat ++ toLE 8 (s.view 0x80000).toNat }
  else .next s

/-- The SMBus address: 0x40 and the straps. -/
def State.smbAddr (s : State) : BitVec 7 := 0x40 + s.pins.straps.setWidth 7

/-- Prelin takes a management message: sent to the device's address while CP1 runs, an MCTP control message, or a vendor-defined one of
the device's vendor. Any other is discarded, and a message of another type or vendor is rejected, with no response (DSP0236;
PRESUMED, log 33). -/
def State.mctpTakes (s : State) (m : MctpHead) (control : Bool) : Bool :=
  s.cp1Runs && m.addr == s.smbAddr && (if control then m.type == 0 else m.type == 0x7E && m.vendor == 0x1F3C)

/-- `SET_ENDPOINT_ID`: the response of DSP0236 (PRESUMED, log 33) is the completion code, the assignment status, the endpoint ID set
and the size of the pool; the null and the broadcast endpoint are not assigned, and are invalid data. -/
def execSetEndpointId (m : SetEid) (s : State) : Out :=
  if !s.mctpTakes m.head true then .next s
  else if m.eid = 0 ∨ m.eid = 0xFF then .next { s with reply := [2] }
  else .next { s with pins := { s.pins with eid := m.eid }, reply := [0, 0, m.eid, 0] }

/-- Offsets that `READ` allows. -/
def mctpReadable (o : Nat) : Bool :=
  o % 8 == 0 && (o < 0x10000 || (0x60000 ≤ o && o < 0x70000) || (0x80000 ≤ o && o < 0xA0000) || (0x51000 ≤ o && o < 0x52000))

/-- A vendor-defined request that Prelin takes: one with the command byte of the row and the right length is served; one with a command
byte that R466 does not have, or of the wrong length, gets status 0x01; one with the command byte of another row is that row's. -/
def State.vendor (s : State) (m : MctpReq) (cmd : Byte) (len : Nat) (serve : State → State) : State :=
  if !s.mctpTakes m.head false then s
  else if m.cmd = cmd then (if m.len = len then serve s else { s with reply := [1] })
  else if ([1, 2, 3] : List Byte).contains m.cmd then s
  else { s with reply := [1] }

/-- `MCTP_READ`: a status byte, and the value, with no RC field cleared. -/
def execMctpRead (m : MctpReq) (s : State) : Out :=
  .next (s.vendor m 1 4 (fun s =>
    if mctpReadable m.off.toNat then { s with reply := 0 :: toLE 8 (s.view m.off.toNat).toNat } else { s with reply := [2] }))

/-- `MCTP_WRITE`: `PWR_PCAP` and `ERR_LOGCONS`, as the same BAR0 write. -/
def execMctpWrite (m : MctpReq) (v : W64) (s : State) : Out :=
  .next (s.vendor m 2 12 (fun s =>
    if m.off.toNat = 0x90018 ∨ m.off.toNat = 0x80020 then
      { (s.regWrite m.off.toNat false 0xFFFFFFFFFFFFFFFF v) with reply := [0] }
    else { s with reply := [2] }))

/-- `MCTP_SENSORS`. -/
def execMctpSensors (s : State) : Out :=
  if s.cp1Runs then
    .next { s with reply := 0 :: ([0x90010, 0x90020, 0x90000, 0x90008] : List Nat).flatMap (fun o => toLE 8 (s.view o).toNat) }
  else .next s

/-! ### Outputs -/

/-- Levels of `READY`, `FAULT_N`, `THERMTRIP_N`, `SMB_ALERT_N`, of the two `VSEL` and of `PPS_OUT`, while the TAP does not drive
them: an open drain that is released is high. -/
def State.readyPin (s : State) : Bool := s.dstate == dsHold || s.dstate == dsRun
def State.faultPin (s : State) : Bool := s.dstate != dsFault
def State.thermPin (s : State) : Bool := !s.pins.therm
def State.alertPin (s : State) : Bool :=
  !(s.rfld 0x80010 12 1 == 1 && ((s.view 0x80000).getLsbD 16 || (s.view 0x80000).getLsbD 0))
def State.vselPin (s : State) (h : Nat) : Bool := (s.half h).vsel
def State.ppsPin (s : State) : Bool := match s.pins.ppsUntil with | some t => s.elapsed.toNat < t.toNat | none => false

/-- The signals that the boundary register covers (R467): those of R452 but for the clock inputs, `TCK` among them, `VSNS` and `TDO`,
and the balls of the LPDDR5X ports. -/
inductive Signal where
  | porstN
  | warmrstN
  | pePerstN
  | ready
  | faultN
  | thermtripN
  | ppsIn
  | ppsOut
  | qspi (i : Fin 6)
  | smb (i : Fin 2)
  | smbAlertN
  | smbAddr (i : Fin 3)
  | tms
  | tdi
  | trstN
  | vsel (h : Fin 2)
  | pg (h : Fin 2)
  | lpddr (k : Nat)
deriving DecidableEq, Repr

/-- The cell of a signal in the boundary register: the order of R452's table, the LPDDR5X balls last (DESIGN CHOICE, log 87). -/
def Signal.cell : Signal → Nat
  | .porstN => 0
  | .warmrstN => 1
  | .pePerstN => 2
  | .ready => 3
  | .faultN => 4
  | .thermtripN => 5
  | .ppsIn => 6
  | .ppsOut => 7
  | .qspi i => 8 + i.val
  | .smb i => 14 + i.val
  | .smbAlertN => 16
  | .smbAddr i => 17 + i.val
  | .tms => 20
  | .tdi => 21
  | .trstN => 22
  | .vsel h => 23 + h.val
  | .pg h => 25 + h.val
  | .lpddr k => 27 + k

/-- The device can drive the signal. -/
def Signal.driven : Signal → Bool
  | .porstN => false
  | .warmrstN => false
  | .pePerstN => false
  | .ppsIn => false
  | .smbAddr _ => false
  | .tms => false
  | .tdi => false
  | .trstN => false
  | .pg _ => false
  | .ready => true
  | .faultN => true
  | .thermtripN => true
  | .ppsOut => true
  | .qspi _ => true
  | .smb _ => true
  | .smbAlertN => true
  | .vsel _ => true
  | .lpddr _ => true

/-- The level that the device's state gives a signal, as an output or as the input that it holds: none where no state gives it. -/
def State.level (s : State) : Signal → Option Bool
  | .porstN => some s.pins.porst
  | .warmrstN => some s.pins.warm
  | .pePerstN => some s.pins.perst
  | .ready => some s.readyPin
  | .faultN => some s.faultPin
  | .thermtripN => some s.thermPin
  | .ppsIn => none
  | .ppsOut => some s.ppsPin
  | .qspi _ => none
  | .smb _ => none
  | .smbAlertN => some s.alertPin
  | .smbAddr i => some (s.pins.straps.getLsbD i.val)
  | .tms => none
  | .tdi => none
  | .trstN => some s.pins.trst
  | .vsel h => some (s.vselPin h.val)
  | .pg h => some (s.half h.val).pg
  | .lpddr _ => none

/-- The level at the ball of an output: `EXTEST` and `CLAMP` drive it from the boundary register, `HIGHZ` leaves it undriven (R467). -/
def State.ball (s : State) (g : Signal) : Option Bool :=
  match s.jtag with
  | .extest => if g.driven then some (s.bound.getD g.cell false) else s.level g
  | .clamp => if g.driven then some (s.bound.getD g.cell false) else s.level g
  | .highz => if g.driven then none else s.level g
  | _ => s.level g

/-! ### JTAG -/

/-- The signals in the order of their cells, but for the LPDDR5X balls. -/
def signals : List Signal :=
  [.porstN, .warmrstN, .pePerstN, .ready, .faultN, .thermtripN, .ppsIn, .ppsOut] ++ (List.finRange 6).map .qspi ++
    (List.finRange 2).map .smb ++ [.smbAlertN] ++ (List.finRange 3).map .smbAddr ++ [.tms, .tdi, .trstN] ++
    (List.finRange 2).map .vsel ++ (List.finRange 2).map .pg

/-- What the boundary register captures: every signal's level; one that no state gives is free (log 87). -/
def State.capture (s : State) : List Bool :=
  (signals ++ (List.range Config.lpBalls).map Signal.lpddr).map (fun g => (s.level g).getD (Config.pinLevel s.free g.cell))

/-- The TAP takes an instruction and shifts out `out`, while `TRST_N` is high; low, it holds the TAP in reset. -/
def State.tap (s : State) (j : Jtag) (out : List Bool) : State :=
  if s.pins.trst then { s with jtag := j, pins := { s.pins with tdo := out } } else s

/-- `TRST_N` takes a level; low, the TAP's reset makes `IDCODE` the current instruction (IEEE 1149.1; PRESUMED, log 144). -/
def State.trst (s : State) (high : Bool) : State :=
  let s : State := { s with pins := { s.pins with trst := high } }
  if high then s else { s with jtag := .idcode }

/-- A scan through the boundary register: what it captured is shifted out, and `bits` are shifted in. -/
def State.scan (s : State) (j : Jtag) (bits : List Bool) : State :=
  if s.pins.trst then { (s.tap j s.capture) with bound := bits, free := s.free + 1 } else s

/-- The instruction acts only while `PORST_N` is low, and is `BYPASS` otherwise. -/
def State.whileOff (s : State) (act : State → State) : State := if s.pins.porst then s.tap .bypass [false] else act s

def execBypass (s : State) : Out := .next (s.tap .bypass [false])

/-- `IDCODE`: the identity register. -/
def idcode : W32 :=
  BitVec.ofNat 32 (1 + Config.jtagMaker.toNat * 2 + 0xE024 * 2 ^ 12 + Config.jtagVersion.toNat * 2 ^ 28)
def execIdcode (s : State) : Out :=
  .next (if s.pins.trst then { (s.tap .idcode ((List.range 32).map idcode.getLsbD)) with lastRead := idcode.setWidth 64 } else s)

/-- `SAMPLE/PRELOAD`. -/
def execSamplePreload (scan : Scan) (s : State) : Out := .next ((s.trst scan.trstN).scan .sample scan.bits)

/-- `EXTEST`, `CLAMP` and `HIGHZ`. -/
def execExtest (scan : Scan) (s : State) : Out :=
  .next ((s.trst scan.trstN).whileOff (fun s => s.scan .extest scan.bits))
def execClamp (s : State) : Out := .next (s.whileOff (fun s => s.tap .clamp [false]))
def execHighz (s : State) : Out := .next (s.whileOff (fun s => s.tap .highz [false]))

end Sys2Proof.Machine
end

