-- ==== Sys2Proof/Machine/Scalar.lean ====
section
/-!
DEFINITION. The scalar instructions that act on registers alone: `ALU` group, immediates, compares, predicate logic,
branches, repeat prefixes (R87-R90, R96-R97).
-/
namespace Sys2Proof.Machine

/-- A number as an instruction word. -/
def w32 (n : Nat) : W32 := BitVec.ofNat 32 n

/-! ### Results of the `ALU` group (R88) -/

/-- The high half of the signed, and of the unsigned, product. -/
def mulHigh (a b : W64) : W64 := (a.signExtend 128 * b.signExtend 128).extractLsb' 64 64
def mulHighU (a b : W64) : W64 := (a.setWidth 128 * b.setWidth 128).extractLsb' 64 64

/-- Division: a zero divisor gives a quotient of all ones and a remainder equal to the dividend (R88). -/
def divS (a b : W64) : W64 := if b = 0 then BitVec.allOnes 64 else a.sdiv b
def divU (a b : W64) : W64 := if b = 0 then BitVec.allOnes 64 else a / b
def remS (a b : W64) : W64 := if b = 0 then a else a.srem b
def remU (a b : W64) : W64 := if b = 0 then a else a % b

/-- Leading zeros, trailing zeros (64 for zero) and set bits. -/
def clz64 (a : W64) : W64 := if a = 0 then 64 else BitVec.ofNat 64 (63 - a.toNat.log2)
def ctz64 (a : W64) : W64 := BitVec.ofNat 64 (((List.range 64).find? (fun i => a.getLsbD i)).getD 64)
def popc64 (a : W64) : W64 := BitVec.ofNat 64 ((List.range 64).countP (fun i => a.getLsbD i))

/-! ### Shared shapes -/

/-- An instruction that changes only the thread's own registers. -/
def State.onThread (s : State) (x : Iss) (i : Info) (f : Thread → Thread) : Out :=
  s.issue x i (fun s => .done (s.modThread x.core.toNat x.thr f))

/-- An instruction of the `ALU` group (R88): `rd` = f(`ra`, `rb`). -/
def State.alu (s : State) (x : Iss) (o : FmtR) (func : Nat) (legal : Bool) (f : W64 → W64 → W64) : Out :=
  s.onThread x { word := w32 (encR 1 func x o), legal := legal, uses := [o.rd, o.ra, o.rb] }
    (fun y => y.setG o.rd (f (y.getG o.ra) (y.getG o.rb)))

/-- An instruction with an immediate (R87): `rd` = f(`ra`). -/
def State.aluImm (s : State) (x : Iss) (o : FmtI) (op : Nat) (f : W64 → W64) : Out :=
  s.onThread x { word := w32 (encI op x o), legal := true, uses := [o.rd, o.ra] }
    (fun y => y.setG o.rd (f (y.getG o.ra)))

/-- A shift by an immediate (R87); `imm12`[11:8] must be zero. -/
def State.aluShift (s : State) (x : Iss) (o : FmtSh) (sub : Nat) (f : W64 → Nat → W64) : Out :=
  s.onThread x { word := w32 (encSh 6 sub x o), legal := o.z == 0, uses := [o.rd, o.ra] }
    (fun y => y.setG o.rd (f (y.getG o.ra) o.sh.toNat))

/-- A predicate instruction (R90): `pd` = f(`pa`, `pb`). -/
def State.plog (s : State) (x : Iss) (o : FmtL) (sub : Nat) (f : Bool → Bool → Bool) : Out :=
  s.onThread x { word := w32 (encL 10 sub x o), legal := o.z == 0 }
    (fun y => y.setP o.pd (f (y.getP o.pa) (y.getP o.pb)))

/-- The conditions of `CMP` and `CMPI` (R90). -/
def cmpHolds (cond : BitVec 4) (a b : W64) : Bool :=
  match cond.toNat with
  | 0 => a == b
  | 1 => a != b
  | 2 => a.slt b
  | 3 => a.sle b
  | 4 => b.slt a
  | 5 => b.sle a
  | 6 => a.ult b
  | 7 => a.ule b
  | 8 => b.ult a
  | 9 => b.ule a
  | _ => a &&& b != 0

/-- `ADD` (R88). -/
def execAdd (x : Iss) (o : FmtR) (s : State) : Out :=
  s.alu x o 0x00 true (fun a b => a + b)

/-- `SUB` (R88). -/
def execSub (x : Iss) (o : FmtR) (s : State) : Out :=
  s.alu x o 0x01 true (fun a b => a - b)

/-- `AND` (R88). -/
def execAnd (x : Iss) (o : FmtR) (s : State) : Out :=
  s.alu x o 0x02 true (fun a b => a &&& b)

/-- `OR` (R88). -/
def execOr (x : Iss) (o : FmtR) (s : State) : Out :=
  s.alu x o 0x03 true (fun a b => a ||| b)

/-- `XOR` (R88). -/
def execXor (x : Iss) (o : FmtR) (s : State) : Out :=
  s.alu x o 0x04 true (fun a b => a ^^^ b)

/-- `ANDN`: `ra` and not `rb` (R88). -/
def execAndn (x : Iss) (o : FmtR) (s : State) : Out :=
  s.alu x o 0x05 true (fun a b => a &&& ~~~b)

/-- `SLL` by `rb`[5:0] (R88). -/
def execSll (x : Iss) (o : FmtR) (s : State) : Out :=
  s.alu x o 0x06 true (fun a b => a <<< (b.toNat % 64))

/-- `SRL` by `rb`[5:0] (R88). -/
def execSrl (x : Iss) (o : FmtR) (s : State) : Out :=
  s.alu x o 0x07 true (fun a b => a >>> (b.toNat % 64))

/-- `SRA` by `rb`[5:0] (R88). -/
def execSra (x : Iss) (o : FmtR) (s : State) : Out :=
  s.alu x o 0x08 true (fun a b => a.sshiftRight (b.toNat % 64))

/-- `MIN`, signed (R88). -/
def execMin (x : Iss) (o : FmtR) (s : State) : Out :=
  s.alu x o 0x09 true (fun a b => if a.slt b then a else b)

/-- `MAX`, signed (R88). -/
def execMax (x : Iss) (o : FmtR) (s : State) : Out :=
  s.alu x o 0x0A true (fun a b => if a.slt b then b else a)

/-- `MINU` (R88). -/
def execMinu (x : Iss) (o : FmtR) (s : State) : Out :=
  s.alu x o 0x0B true (fun a b => if a.ult b then a else b)

/-- `MAXU` (R88). -/
def execMaxu (x : Iss) (o : FmtR) (s : State) : Out :=
  s.alu x o 0x0C true (fun a b => if a.ult b then b else a)

/-- `CLZ`; `rb` must be 0 (R88). -/
def execClz (x : Iss) (o : FmtR) (s : State) : Out :=
  s.alu x o 0x0D (o.rb == 0) (fun a _ => clz64 a)

/-- `CTZ`; `rb` must be 0 (R88). -/
def execCtz (x : Iss) (o : FmtR) (s : State) : Out :=
  s.alu x o 0x0E (o.rb == 0) (fun a _ => ctz64 a)

/-- `POPC`; `rb` must be 0 (R88). -/
def execPopc (x : Iss) (o : FmtR) (s : State) : Out :=
  s.alu x o 0x0F (o.rb == 0) (fun a _ => popc64 a)

/-- `MUL` (R88). -/
def execMul (x : Iss) (o : FmtR) (s : State) : Out :=
  s.alu x o 0x10 true (fun a b => a * b)

/-- `MULH` (R88). -/
def execMulh (x : Iss) (o : FmtR) (s : State) : Out :=
  s.alu x o 0x11 true (fun a b => mulHigh a b)

/-- `MULHU` (R88). -/
def execMulhu (x : Iss) (o : FmtR) (s : State) : Out :=
  s.alu x o 0x12 true (fun a b => mulHighU a b)

/-- `DIV` (R88). -/
def execDiv (x : Iss) (o : FmtR) (s : State) : Out :=
  s.alu x o 0x13 true (fun a b => divS a b)

/-- `DIVU` (R88). -/
def execDivu (x : Iss) (o : FmtR) (s : State) : Out :=
  s.alu x o 0x14 true (fun a b => divU a b)

/-- `REM` (R88). -/
def execRem (x : Iss) (o : FmtR) (s : State) : Out :=
  s.alu x o 0x15 true (fun a b => remS a b)

/-- `REMU` (R88). -/
def execRemu (x : Iss) (o : FmtR) (s : State) : Out :=
  s.alu x o 0x16 true (fun a b => remU a b)

/-- `ADDI`: sign-extended immediate (R87). -/
def execAddi (x : Iss) (o : FmtI) (s : State) : Out :=
  s.aluImm x o 2 (fun a => a + sext 12 o.imm.toNat)

/-- `ANDI`: zero-extended immediate (R87). -/
def execAndi (x : Iss) (o : FmtI) (s : State) : Out :=
  s.aluImm x o 3 (fun a => a &&& o.imm.setWidth 64)

/-- `ORI`: zero-extended immediate (R87). -/
def execOri (x : Iss) (o : FmtI) (s : State) : Out :=
  s.aluImm x o 4 (fun a => a ||| o.imm.setWidth 64)

/-- `XORI`: zero-extended immediate (R87). -/
def execXori (x : Iss) (o : FmtI) (s : State) : Out :=
  s.aluImm x o 5 (fun a => a ^^^ o.imm.setWidth 64)

/-- `SLLI` (R87). -/
def execSlli (x : Iss) (o : FmtSh) (s : State) : Out :=
  s.aluShift x o 0 (fun a n => a <<< n)

/-- `SRLI` (R87). -/
def execSrli (x : Iss) (o : FmtSh) (s : State) : Out :=
  s.aluShift x o 1 (fun a n => a >>> n)

/-- `SRAI` (R87). -/
def execSrai (x : Iss) (o : FmtSh) (s : State) : Out :=
  s.aluShift x o 2 (fun a n => a.sshiftRight n)

/-- `LUI`: `rd` = sign-extended `imm17` × 4,096 (R87). -/
def execLui (x : Iss) (o : FmtU) (s : State) : Out :=
  s.onThread x { word := w32 (encU 7 x o), legal := true, uses := [o.rd] }
    (fun y => y.setG o.rd (sext 17 o.imm.toNat * 4096))

/-- `CMP` (R90). -/
def execCmp (x : Iss) (o : FmtCmp) (s : State) : Out :=
  s.onThread x { word := w32 (encCmp 8 x o), legal := o.z == 0 && o.cond.toNat ≤ 10, uses := [o.ra, o.rb] }
    (fun y => y.setP o.pd (cmpHolds o.cond (y.getG o.ra) (y.getG o.rb)))

/-- `CMPI`: sign-extended `imm10` (R90). -/
def execCmpi (x : Iss) (o : FmtCmpi) (s : State) : Out :=
  s.onThread x { word := w32 (encCmpi 9 x o), legal := o.cond.toNat ≤ 10, uses := [o.ra] }
    (fun y => y.setP o.pd (cmpHolds o.cond (y.getG o.ra) (sext 10 o.imm.toNat)))

/-- `PLOG` `AND` (R90). -/
def execPlogAnd (x : Iss) (o : FmtL) (s : State) : Out :=
  s.plog x o 0 (fun a b => a && b)

/-- `PLOG` `OR` (R90). -/
def execPlogOr (x : Iss) (o : FmtL) (s : State) : Out :=
  s.plog x o 1 (fun a b => a || b)

/-- `PLOG` `XOR` (R90). -/
def execPlogXor (x : Iss) (o : FmtL) (s : State) : Out :=
  s.plog x o 2 (fun a b => a != b)

/-- `PLOG` `ANDN` (R90). -/
def execPlogAndn (x : Iss) (o : FmtL) (s : State) : Out :=
  s.plog x o 3 (fun a b => a && !b)

/-- `PLOG` `ORN` (R90). -/
def execPlogOrn (x : Iss) (o : FmtL) (s : State) : Out :=
  s.plog x o 4 (fun a b => a || !b)

/-- `PLOG` `MOV` (R90). -/
def execPlogMov (x : Iss) (o : FmtL) (s : State) : Out :=
  s.plog x o 5 (fun a _ => a)

/-- `PLOG` `NOT` (R90). -/
def execPlogNot (x : Iss) (o : FmtL) (s : State) : Out :=
  s.plog x o 6 (fun a _ => !a)

/-- `PLOG` `SET` (R90). -/
def execPlogSet (x : Iss) (o : FmtL) (s : State) : Out :=
  s.plog x o 7 (fun _ _ => true)

/-- `PLOG` `CLR` (R90). -/
def execPlogClr (x : Iss) (o : FmtL) (s : State) : Out :=
  s.plog x o 8 (fun _ _ => false)

/-! ### Branches (R87) -/

/-- The target of a displacement in instructions. -/
def branchTarget (pc : W64) (disp : BitVec 22) : W64 := pc + sext 22 disp.toNat * 4

/-- `BR` (R87). -/
def execBr (x : Iss) (disp : BitVec 22) (s : State) : Out :=
  s.issue x { word := w32 (encDisp 12 x disp), legal := true } (fun s =>
    .jump s (branchTarget (s.thread x.core.toNat x.thr).pc disp))

/-- `CALL`: `g1` = PC + 4 (R87). -/
def execCall (x : Iss) (disp : BitVec 22) (s : State) : Out :=
  s.issue x { word := w32 (encDisp 13 x disp), legal := true, uses := [1] } (fun s =>
    let pc := (s.thread x.core.toNat x.thr).pc
    .jump (s.modThread x.core.toNat x.thr (fun y => y.setG 1 (pc + 4))) (branchTarget pc disp))

/-- `JALR`: a target with bits [1:0] ≠ 0 raises `ALIGN` (R87). -/
def execJalr (x : Iss) (o : FmtI) (s : State) : Out :=
  s.issue x { word := w32 (encI 14 x o), legal := true, uses := [o.rd, o.ra] } (fun s =>
    let y := s.thread x.core.toNat x.thr
    let target := y.getG o.ra + sext 12 o.imm.toNat
    if target.toNat % 4 ≠ 0 then .trap s { code := excAlign, stval := target }
    else .jump (s.modThread x.core.toNat x.thr (fun y => y.setG o.rd (y.pc + 4))) target)

/-! ### Repeat prefixes (R96-R97) -/

/-- The repeated instruction is one that R97 forbids to repeat. -/
def rptForbidden (w : Nat) : Bool := [0, 12, 13, 14, 15, 17, 18, 19].contains (wf w 26 6)

/-- The base register of a word of the M or CM format (R84, R92). -/
def wordBase (w : Nat) : Option (BitVec 5) :=
  let op := wf w 26 6
  if 20 ≤ op ∧ op ≤ 32 then some (BitVec.ofNat 5 (24 + wf w 14 3))
  else if (op = 56 ∧ [0, 1, 5, 6, 8, 9].contains (wf w 18 4)) ∨ (op = 57 ∧ wf w 18 4 ≤ 1) then
    some (BitVec.ofNat 5 (24 + wf w 10 3))
  else none

/-- R97 lets a prefix of a stride repeat the word. -/
def rptAllows (stride : BitVec 12) (next : W32) : Bool :=
  let w := next.toNat
  let op := wf w 26 6
  !rptForbidden w &&
    (match wordBase w with
      | none => stride == 0
      | some b => !(((20 ≤ op && op ≤ 26) || op == 31) && wf w 17 5 == b.toNat))

/-- A prefix takes effect: the next instruction runs `count` times, or is skipped (R96). -/
def State.repeatNext (s : State) (x : Iss) (count : Nat) (n : Bool) (stride : BitVec 12) : Res :=
  let pc := (s.thread x.core.toNat x.thr).pc
  if count = 0 then .jump s (pc + 8)
  else
    .jump (s.modThread x.core.toNat x.thr (fun y => { y with
      rptcnt := BitVec.ofNat 64 (count + stride.toNat * 2 ^ 32 + 2 ^ 44)
      rptOn := true, rptN := n, rptFrom := y.n + 1, rptBase := none })) (pc + 4)

/-- `RPT` (R96-R97): the count is `ra`[31:0]; the prefix must carry `p0`. -/
def execRpt (x : Iss) (o : FmtRpt) (next : W32) (s : State) : Out :=
  s.issue x
    { word := w32 (encRpt 15 0 x o), legal := x.pi == 0 && !x.pn && o.z == 0 && rptAllows o.stride next, uses := [o.ra] }
    (fun s => s.repeatNext x (fld ((s.thread x.core.toNat x.thr).getG o.ra) 0 32) false o.stride)

/-- `RPTN` (R96-R97): the count is 0-64. -/
def execRptn (x : Iss) (o : FmtRptn) (next : W32) (s : State) : Out :=
  s.issue x
    { word := w32 (encRptn 15 1 x o)
      legal := x.pi == 0 && !x.pn && o.z == 0 && o.cnt.toNat ≤ 64 && rptAllows o.stride next }
    (fun s => s.repeatNext x o.cnt.toNat true o.stride)

end Sys2Proof.Machine
end

