-- ==== Sys2Proof/Machine/Slots.lean ====
section
/-!
DEFINITION. A slot of a core's network interface (R173-R174): which item it injects.
-/
namespace Sys2Proof.Machine

/-- The channel whose turn is a slot of a kind makes its beat there (R168, R174). -/
def State.slotBeat (s : State) (c kind : Nat) : Option State :=
  (s.beatNext c (2, kind)).bind (fun ch =>
    (beatKinds.find? (fun b => s.beatNeeds c ch b == some (2, kind))).map (fun b =>
      (s.modCore c (fun k => k.serve ch 2)).beat c ch b .good))

/-- A slot of a kind injects its item (R174): the oldest scalar access, else the row of the oldest instruction of many
lines, else the stream unit's beat; none where nothing of its kind is ready. -/
def State.slotItem (s : State) (c kind : Nat) : Option State :=
  match s.accFor c kind with
  | some a => some (s.inject c a)
  | none =>
    match s.rowFor c kind with
    | some (.engine vec) => some (s.askEngine c vec)
    | some (.thread t) =>
      match (s.thread c t).wait with
      | some (.rows id store tile base stride) =>
        some (match s.rowMove c t id store tile base stride .good with | .next s' => s' | _ => s)
      | _ => some (s.askMore c t)
    | none => s.slotBeat c kind

/-- `NI_SLOT_INJECT` (R173-R174): slot `slot` of the wheel in force. A slot that injects nothing counts as idle (R401).
Requests without a route are answered, and what waits in the core for its own earlier work goes on. The network
interface of an absent core sends what it still holds (R238, R424). -/
def execNiSlotInject (core : BitVec 10) (slot : BitVec 4) (s : State) : Out :=
  let c := core.toNat
  if s.halfRuns (coreHalf c) then
    let kind := (s.core c).slot slot.toNat
    .next (((s.slotItem c kind).getD (s.modCore c (fun k => k.countSlot slotIdle))).ownErrors c |>.poke c)
  else .next s

end Sys2Proof.Machine
end

