-- ==== Sys2Proof/Machine/Dispatch.lean ====
section
/-!
DEFINITION. `exec`: one arm per command, each one direct call of its meaning.
-/
namespace Sys2Proof.Machine

/-- The effect of a command on everything but the queue. -/
def exec (i : Instr) (s : State) : Host.Outcome State Fault Refusal :=
  match i with
  | .add x o => Sys2Proof.Machine.execAdd x o s
  | .sub x o => Sys2Proof.Machine.execSub x o s
  | .and x o => Sys2Proof.Machine.execAnd x o s
  | .or x o => Sys2Proof.Machine.execOr x o s
  | .xor x o => Sys2Proof.Machine.execXor x o s
  | .andn x o => Sys2Proof.Machine.execAndn x o s
  | .sll x o => Sys2Proof.Machine.execSll x o s
  | .srl x o => Sys2Proof.Machine.execSrl x o s
  | .sra x o => Sys2Proof.Machine.execSra x o s
  | .min x o => Sys2Proof.Machine.execMin x o s
  | .max x o => Sys2Proof.Machine.execMax x o s
  | .minu x o => Sys2Proof.Machine.execMinu x o s
  | .maxu x o => Sys2Proof.Machine.execMaxu x o s
  | .clz x o => Sys2Proof.Machine.execClz x o s
  | .ctz x o => Sys2Proof.Machine.execCtz x o s
  | .popc x o => Sys2Proof.Machine.execPopc x o s
  | .mul x o => Sys2Proof.Machine.execMul x o s
  | .mulh x o => Sys2Proof.Machine.execMulh x o s
  | .mulhu x o => Sys2Proof.Machine.execMulhu x o s
  | .div x o => Sys2Proof.Machine.execDiv x o s
  | .divu x o => Sys2Proof.Machine.execDivu x o s
  | .rem x o => Sys2Proof.Machine.execRem x o s
  | .remu x o => Sys2Proof.Machine.execRemu x o s
  | .addi x o => Sys2Proof.Machine.execAddi x o s
  | .andi x o => Sys2Proof.Machine.execAndi x o s
  | .ori x o => Sys2Proof.Machine.execOri x o s
  | .xori x o => Sys2Proof.Machine.execXori x o s
  | .slli x o => Sys2Proof.Machine.execSlli x o s
  | .srli x o => Sys2Proof.Machine.execSrli x o s
  | .srai x o => Sys2Proof.Machine.execSrai x o s
  | .lui x o => Sys2Proof.Machine.execLui x o s
  | .cmp x o => Sys2Proof.Machine.execCmp x o s
  | .cmpi x o => Sys2Proof.Machine.execCmpi x o s
  | .plogAnd x o => Sys2Proof.Machine.execPlogAnd x o s
  | .plogOr x o => Sys2Proof.Machine.execPlogOr x o s
  | .plogXor x o => Sys2Proof.Machine.execPlogXor x o s
  | .plogAndn x o => Sys2Proof.Machine.execPlogAndn x o s
  | .plogOrn x o => Sys2Proof.Machine.execPlogOrn x o s
  | .plogMov x o => Sys2Proof.Machine.execPlogMov x o s
  | .plogNot x o => Sys2Proof.Machine.execPlogNot x o s
  | .plogSet x o => Sys2Proof.Machine.execPlogSet x o s
  | .plogClr x o => Sys2Proof.Machine.execPlogClr x o s
  | .br x disp => Sys2Proof.Machine.execBr x disp s
  | .call x disp => Sys2Proof.Machine.execCall x disp s
  | .jalr x o => Sys2Proof.Machine.execJalr x o s
  | .rpt x o next => Sys2Proof.Machine.execRpt x o next s
  | .rptn x o next => Sys2Proof.Machine.execRptn x o next s
  | .csrr x o => Sys2Proof.Machine.execCsrr x o s
  | .csrw x o => Sys2Proof.Machine.execCsrw x o s
  | .csrs x o => Sys2Proof.Machine.execCsrs x o s
  | .csrc x o => Sys2Proof.Machine.execCsrc x o s
  | .ld8 x o => Sys2Proof.Machine.execLd8 x o s
  | .ld8u x o => Sys2Proof.Machine.execLd8u x o s
  | .ld16 x o => Sys2Proof.Machine.execLd16 x o s
  | .ld16u x o => Sys2Proof.Machine.execLd16u x o s
  | .ld32 x o => Sys2Proof.Machine.execLd32 x o s
  | .ld32u x o => Sys2Proof.Machine.execLd32u x o s
  | .ld64 x o => Sys2Proof.Machine.execLd64 x o s
  | .st8 x o => Sys2Proof.Machine.execSt8 x o s
  | .st16 x o => Sys2Proof.Machine.execSt16 x o s
  | .st32 x o => Sys2Proof.Machine.execSt32 x o s
  | .st64 x o => Sys2Proof.Machine.execSt64 x o s
  | .ldAcq x o => Sys2Proof.Machine.execLdAcq x o s
  | .stRel x o => Sys2Proof.Machine.execStRel x o s
  | .ldAcqr x o func => Sys2Proof.Machine.execLdAcqr x o func s
  | .amoAdd x o => Sys2Proof.Machine.execAmoAdd x o s
  | .amoAnd x o => Sys2Proof.Machine.execAmoAnd x o s
  | .amoOr x o => Sys2Proof.Machine.execAmoOr x o s
  | .amoXor x o => Sys2Proof.Machine.execAmoXor x o s
  | .amoSwap x o => Sys2Proof.Machine.execAmoSwap x o s
  | .amoMin x o => Sys2Proof.Machine.execAmoMin x o s
  | .amoMax x o => Sys2Proof.Machine.execAmoMax x o s
  | .amoMinu x o => Sys2Proof.Machine.execAmoMinu x o s
  | .amoMaxu x o => Sys2Proof.Machine.execAmoMaxu x o s
  | .amoCas x o => Sys2Proof.Machine.execAmoCas x o s
  | .waitm x o func => Sys2Proof.Machine.execWaitm x o func s
  | .sysNop x o => Sys2Proof.Machine.execSysNop x o s
  | .syscall x o => Sys2Proof.Machine.execSyscall x o s
  | .brk x o => Sys2Proof.Machine.execBrk x o s
  | .eret x o => Sys2Proof.Machine.execEret x o s
  | .remfence x o => Sys2Proof.Machine.execRemfence x o s
  | .iinv x o => Sys2Proof.Machine.execIinv x o s
  | .ctxsv x o => Sys2Proof.Machine.execCtxsv x o s
  | .ctxld x o => Sys2Proof.Machine.execCtxld x o s
  | .tld x o => Sys2Proof.Machine.execTld x o s
  | .tst x o => Sys2Proof.Machine.execTst x o s
  | .tmma x o => Sys2Proof.Machine.execTmma x o s
  | .tzero x o => Sys2Proof.Machine.execTzero x o s
  | .tfree x o => Sys2Proof.Machine.execTfree x o s
  | .tsld x o => Sys2Proof.Machine.execTsld x o s
  | .tsst x o => Sys2Proof.Machine.execTsst x o s
  | .tfin x o => Sys2Proof.Machine.execTfin x o s
  | .tald x o => Sys2Proof.Machine.execTald x o s
  | .tast x o => Sys2Proof.Machine.execTast x o s
  | .vld x o => Sys2Proof.Machine.execVld x o s
  | .vst x o => Sys2Proof.Machine.execVst x o s
  | .varithAdd x o => Sys2Proof.Machine.execVarithAdd x o s
  | .varithSub x o => Sys2Proof.Machine.execVarithSub x o s
  | .varithMul x o => Sys2Proof.Machine.execVarithMul x o s
  | .varithMin x o => Sys2Proof.Machine.execVarithMin x o s
  | .varithMax x o => Sys2Proof.Machine.execVarithMax x o s
  | .varithFma x o => Sys2Proof.Machine.execVarithFma x o s
  | .varithFms x o => Sys2Proof.Machine.execVarithFms x o s
  | .varithAbs x o => Sys2Proof.Machine.execVarithAbs x o s
  | .varithNeg x o => Sys2Proof.Machine.execVarithNeg x o s
  | .vcmp x o => Sys2Proof.Machine.execVcmp x o s
  | .vcvtNarrow x o => Sys2Proof.Machine.execVcvtNarrow x o s
  | .vcvtWiden x o => Sys2Proof.Machine.execVcvtWiden x o s
  | .vsfExp x o => Sys2Proof.Machine.execVsfExp x o s
  | .vsfExp2 x o => Sys2Proof.Machine.execVsfExp2 x o s
  | .vsfLog x o => Sys2Proof.Machine.execVsfLog x o s
  | .vsfLog2 x o => Sys2Proof.Machine.execVsfLog2 x o s
  | .vsfRcp x o => Sys2Proof.Machine.execVsfRcp x o s
  | .vsfSqrt x o => Sys2Proof.Machine.execVsfSqrt x o s
  | .vsfRsqrt x o => Sys2Proof.Machine.execVsfRsqrt x o s
  | .vsfTanh x o => Sys2Proof.Machine.execVsfTanh x o s
  | .vsfSigmoid x o => Sys2Proof.Machine.execVsfSigmoid x o s
  | .vsfErf x o => Sys2Proof.Machine.execVsfErf x o s
  | .vsfSin x o => Sys2Proof.Machine.execVsfSin x o s
  | .vsfCos x o => Sys2Proof.Machine.execVsfCos x o s
  | .vredSum x o => Sys2Proof.Machine.execVredSum x o s
  | .vredMax x o => Sys2Proof.Machine.execVredMax x o s
  | .vredMin x o => Sys2Proof.Machine.execVredMin x o s
  | .vredArgmax x o => Sys2Proof.Machine.execVredArgmax x o s
  | .vredIntSum x o => Sys2Proof.Machine.execVredIntSum x o s
  | .vredIntMax x o => Sys2Proof.Machine.execVredIntMax x o s
  | .vredIntMin x o => Sys2Proof.Machine.execVredIntMin x o s
  | .vperm x o => Sys2Proof.Machine.execVperm x o s
  | .vmovtToMatrix x o => Sys2Proof.Machine.execVmovtToMatrix x o s
  | .vmovtToVector x o => Sys2Proof.Machine.execVmovtToVector x o s
  | .vftqRead x o => Sys2Proof.Machine.execVftqRead x o s
  | .vftqPop x o => Sys2Proof.Machine.execVftqPop x o s
  | .vftqStat x o => Sys2Proof.Machine.execVftqStat x o s
  | .vsetvl x o => Sys2Proof.Machine.execVsetvl x o s
  | .vbitAnd x o => Sys2Proof.Machine.execVbitAnd x o s
  | .vbitOr x o => Sys2Proof.Machine.execVbitOr x o s
  | .vbitXor x o => Sys2Proof.Machine.execVbitXor x o s
  | .vbitAndn x o => Sys2Proof.Machine.execVbitAndn x o s
  | .vbitSll x o => Sys2Proof.Machine.execVbitSll x o s
  | .vbitSrl x o => Sys2Proof.Machine.execVbitSrl x o s
  | .vbitSra x o => Sys2Proof.Machine.execVbitSra x o s
  | .vbitSel x o => Sys2Proof.Machine.execVbitSel x o s
  | .vbitMov x o => Sys2Proof.Machine.execVbitMov x o s
  | .vmovgBcast x o => Sys2Proof.Machine.execVmovgBcast x o s
  | .vmovgGet0 x o => Sys2Proof.Machine.execVmovgGet0 x o s
  | .vmovgGet x o => Sys2Proof.Machine.execVmovgGet x o s
  | .sdescPost x o => Sys2Proof.Machine.execSdescPost x o s
  | .sdescResume x o => Sys2Proof.Machine.execSdescResume x o s
  | .sstop x o => Sys2Proof.Machine.execSstop x o s
  | .sstat x o => Sys2Proof.Machine.execSstat x o s
  | .send x o => Sys2Proof.Machine.execSend x o s
  | .recvSel x o => Sys2Proof.Machine.execRecvSel x o s
  | .movq x o => Sys2Proof.Machine.execMovq x o s
  | .pset x o => Sys2Proof.Machine.execPset x o s
  | .pclr x o => Sys2Proof.Machine.execPclr x o s
  | .pwait x o => Sys2Proof.Machine.execPwait x o s
  | .barrWait x o => Sys2Proof.Machine.execBarrWait x o s
  | .barrArrive x o => Sys2Proof.Machine.execBarrArrive x o s
  | .barrTest x o => Sys2Proof.Machine.execBarrTest x o s
  | .barm x o => Sys2Proof.Machine.execBarm x o s
  | .hsig x o => Sys2Proof.Machine.execHsig x o s
  | .engbindWrite x op ra => Sys2Proof.Machine.execEngbindWrite x op ra s
  | .tcfgWrite x op ra reg => Sys2Proof.Machine.execTcfgWrite x op ra reg s
  | .tiuWrite x op ra => Sys2Proof.Machine.execTiuWrite x op ra s
  | .vlWrite x op ra => Sys2Proof.Machine.execVlWrite x op ra s
  | .srseedWrite x op ra => Sys2Proof.Machine.execSrseedWrite x op ra s
  | .threadRunRequest x op ra target => Sys2Proof.Machine.execThreadRunRequest x op ra target s
  | .threadStopRequest x op ra target => Sys2Proof.Machine.execThreadStopRequest x op ra target s
  | .threadStop core thr => Sys2Proof.Machine.execThreadStop core thr s
  | .interruptEntry core thr => Sys2Proof.Machine.execInterruptEntry core thr s
  | .loadArrival core id net => Sys2Proof.Machine.execLoadArrival core id net s
  | .homeRead core id ecc => Sys2Proof.Machine.execHomeRead core id ecc s
  | .homeWrite core id net => Sys2Proof.Machine.execHomeWrite core id net s
  | .homeAtomic core id ecc => Sys2Proof.Machine.execHomeAtomic core id ecc s
  | .writeAcknowledgement core id => Sys2Proof.Machine.execWriteAcknowledgement core id s
  | .remoteWriteError core id => Sys2Proof.Machine.execRemoteWriteError core id s
  | .waitmWatchTrigger core thr => Sys2Proof.Machine.execWaitmWatchTrigger core thr s
  | .waitmPoll core thr ecc => Sys2Proof.Machine.execWaitmPoll core thr ecc s
  | .waitmTimeout core thr => Sys2Proof.Machine.execWaitmTimeout core thr s
  | .tmmaCollect core ecc => Sys2Proof.Machine.execTmmaCollect core ecc s
  | .tmmaFinish core mismatch => Sys2Proof.Machine.execTmmaFinish core mismatch s
  | .checksumFail core => Sys2Proof.Machine.execChecksumFail core s
  | .tfinCopyDone core => Sys2Proof.Machine.execTfinCopyDone core s
  | .tileRowTransfer core thr ecc => Sys2Proof.Machine.execTileRowTransfer core thr ecc s
  | .channelBeat core ch side ecc => Sys2Proof.Machine.execChannelBeat core ch side ecc s
  | .blockListEntryRead core ch side ecc => Sys2Proof.Machine.execBlockListEntryRead core ch side ecc s
  | .descriptorComplete core ch => Sys2Proof.Machine.execDescriptorComplete core ch s
  | .niSlotInject core slot => Sys2Proof.Machine.execNiSlotInject core slot s
  | .messageArrival id net => Sys2Proof.Machine.execMessageArrival id net s
  | .sendAnswerArrival core thr => Sys2Proof.Machine.execSendAnswerArrival core thr s
  | .messageResend src => Sys2Proof.Machine.execMessageResend src s
  | .sendWait core thr => Sys2Proof.Machine.execSendWait core thr s
  | .spillRecordMove core queue ecc => Sys2Proof.Machine.execSpillRecordMove core queue ecc s
  | .deadLetterWrite part => Sys2Proof.Machine.execDeadLetterWrite part s
  | .barrierArrival part bar core thr => Sys2Proof.Machine.execBarrierArrival part bar core thr s
  | .barrierTimeout part bar => Sys2Proof.Machine.execBarrierTimeout part bar s
  | .linkLineSend core dir => Sys2Proof.Machine.execLinkLineSend core dir s
  | .linkLineWrite core dir ecc => Sys2Proof.Machine.execLinkLineWrite core dir ecc s
  | .pwaitWake core thr limit => Sys2Proof.Machine.execPwaitWake core thr limit s
  | .devtimeTick => Sys2Proof.Machine.execDevtimeTick s
  | .stepBoundary part found => Sys2Proof.Machine.execStepBoundary part found s
  | .snapshotComplete part => Sys2Proof.Machine.execSnapshotComplete part s
  | .stepEnd part => Sys2Proof.Machine.execStepEnd part s
  | .bandOverrun part => Sys2Proof.Machine.execBandOverrun part s
  | .overrun part => Sys2Proof.Machine.execOverrun part s
  | .wdogFired part => Sys2Proof.Machine.execWdogFired part s
  | .packetRead ring bytes ok => Sys2Proof.Machine.execPacketRead ring bytes ok s
  | .completionWrite ring => Sys2Proof.Machine.execCompletionWrite ring s
  | .coalescingTimer ring => Sys2Proof.Machine.execCoalescingTimer ring s
  | .restoreStart part => Sys2Proof.Machine.execRestoreStart part s
  | .restoreEnd part => Sys2Proof.Machine.execRestoreEnd part s
  | .moorRecordComplete part => Sys2Proof.Machine.execMoorRecordComplete part s
  | .scrubAccess pa ecc last => Sys2Proof.Machine.execScrubAccess pa ecc last s
  | .traceRecordWrite part => Sys2Proof.Machine.execTraceRecordWrite part s
  | .quarantine core => Sys2Proof.Machine.execQuarantine core s
  | .deviceConservationAudit found => Sys2Proof.Machine.execDeviceConservationAudit found s
  | .thermalTrip => Sys2Proof.Machine.execThermalTrip s
  | .supplyRailOutOfWindow => Sys2Proof.Machine.execSupplyRailOutOfWindow s
  | .throttleEvaluation half temp => Sys2Proof.Machine.execThrottleEvaluation half temp s
  | .powerCapEvaluation avg peak west east => Sys2Proof.Machine.execPowerCapEvaluation avg peak west east s
  | .voltageLowerRequest half => Sys2Proof.Machine.execVoltageLowerRequest half s
  | .pgChange half level => Sys2Proof.Machine.execPgChange half level s
  | .pgWindowExpiry half => Sys2Proof.Machine.execPgWindowExpiry half s
  | .referenceClockLoss => Sys2Proof.Machine.execReferenceClockLoss s
  | .porstNFall => Sys2Proof.Machine.execPorstNFall s
  | .porstNRise straps => Sys2Proof.Machine.execPorstNRise straps s
  | .warmrstNAssert => Sys2Proof.Machine.execWarmrstNAssert s
  | .warmReset => Sys2Proof.Machine.execWarmReset s
  | .warmrstNRise => Sys2Proof.Machine.execWarmrstNRise s
  | .por flash => Sys2Proof.Machine.execPor flash s
  | .selftest failed d2d => Sys2Proof.Machine.execSelftest failed d2d s
  | .train hbm lp => Sys2Proof.Machine.execTrain hbm lp s
  | .boot => Sys2Proof.Machine.execBoot s
  | .hold => Sys2Proof.Machine.execHold s
  | .trainPassComplete => Sys2Proof.Machine.execTrainPassComplete s
  | .pePerstN level => Sys2Proof.Machine.execPePerstN level s
  | .ppsInEdge => Sys2Proof.Machine.execPpsInEdge s
  | .ppsOutEdge => Sys2Proof.Machine.execPpsOutEdge s
  | .ppsLockTimeout => Sys2Proof.Machine.execPpsLockTimeout s
  | .kflFlitReceive port flit => Sys2Proof.Machine.execKflFlitReceive port flit s
  | .linkAckTimer port => Sys2Proof.Machine.execLinkAckTimer port s
  | .nakUnanswered port => Sys2Proof.Machine.execNakUnanswered port s
  | .laneLockLoss port lane => Sys2Proof.Machine.execLaneLockLoss port lane s
  | .retrainComplete port good expect view => Sys2Proof.Machine.execRetrainComplete port good expect view s
  | .retrainTimeout port => Sys2Proof.Machine.execRetrainTimeout port s
  | .portTrainingComplete port good peer peerPort peerDir => Sys2Proof.Machine.execPortTrainingComplete port good peer peerPort peerDir s
  | .portTrainingRetry port => Sys2Proof.Machine.execPortTrainingRetry port s
  | .lightChange port on => Sys2Proof.Machine.execLightChange port on s
  | .creditCheck port tx rx => Sys2Proof.Machine.execCreditCheck port tx rx s
  | .timeExchange port peerRx peerTx depth => Sys2Proof.Machine.execTimeExchange port peerRx peerTx depth s
  | .timeHoldover => Sys2Proof.Machine.execTimeHoldover s
  | .transitForward port item => Sys2Proof.Machine.execTransitForward port item s
  | .remoteRead r len ecc => Sys2Proof.Machine.execRemoteRead r len ecc s
  | .remoteWrite r bytes => Sys2Proof.Machine.execRemoteWrite r bytes s
  | .remoteAmo r op w32 opnd exp ecc => Sys2Proof.Machine.execRemoteAmo r op w32 opnd exp ecc s
  | .remoteMsg r dst tag time words => Sys2Proof.Machine.execRemoteMsg r dst tag time words s
  | .remoteResponse req ans => Sys2Proof.Machine.execRemoteResponse req ans s
  | .fabRtoExpiry req => Sys2Proof.Machine.execFabRtoExpiry req s
  | .postPlacement r chan tag time bytes => Sys2Proof.Machine.execPostPlacement r chan tag time bytes s
  | .postResend core ch => Sys2Proof.Machine.execPostResend core ch s
  | .fabricBarrierEvent dev group kind par => Sys2Proof.Machine.execFabricBarrierEvent dev group kind par s
  | .flr fn => Sys2Proof.Machine.execFlr fn s
  | .flrEnd fn => Sys2Proof.Machine.execFlrEnd fn s
  | .busMasterEnableChange fn on => Sys2Proof.Machine.execBusMasterEnableChange fn on s
  | .vfEnableChange en num => Sys2Proof.Machine.execVfEnableChange en num s
  | .barResize log mse => Sys2Proof.Machine.execBarResize log mse s
  | .msixUnmask fn vec => Sys2Proof.Machine.execMsixUnmask fn vec s
  | .bar4Read off len ecc => Sys2Proof.Machine.execBar4Read off len ecc s
  | .bar4Write off bytes => Sys2Proof.Machine.execBar4Write off bytes s
  | .sqTail door v => Sys2Proof.Machine.execSqTail door v s
  | .cqHead door v => Sys2Proof.Machine.execCqHead door v s
  | .ringEnable ring cq v => Sys2Proof.Machine.execRingEnable ring cq v s
  | .ringDisable ring cq v => Sys2Proof.Machine.execRingDisable ring cq v s
  | .hstWinbaseWrite v => Sys2Proof.Machine.execHstWinbaseWrite v s
  | .prtTtflush part v => Sys2Proof.Machine.execPrtTtflush part v s
  | .ttflushComplete part => Sys2Proof.Machine.execTtflushComplete part s
  | .timSet v => Sys2Proof.Machine.execTimSet v s
  | .errQforce v => Sys2Proof.Machine.execErrQforce v s
  | .errLogconsWrite v => Sys2Proof.Machine.execErrLogconsWrite v s
  | .trcCfgWrite part v => Sys2Proof.Machine.execTrcCfgWrite part v s
  | .trcConsWrite part v => Sys2Proof.Machine.execTrcConsWrite part v s
  | .prtDlconsWrite part v => Sys2Proof.Machine.execPrtDlconsWrite part v s
  | .refusePosWrite n v => Sys2Proof.Machine.execRefusePosWrite n v s
  | .halfopReqWrite half v => Sys2Proof.Machine.execHalfopReqWrite half v s
  | .halfopCapWrite half v => Sys2Proof.Machine.execHalfopCapWrite half v s
  | .fabPctlRetrain port v => Sys2Proof.Machine.execFabPctlRetrain port v s
  | .fabPctlDisable port v => Sys2Proof.Machine.execFabPctlDisable port v s
  | .postRingDisable r v => Sys2Proof.Machine.execPostRingDisable r v s
  | .errSuspClear k v => Sys2Proof.Machine.execErrSuspClear k v s
  | .registerWrite fn off half v => Sys2Proof.Machine.execRegisterWrite fn off half v s
  | .slcStatRead acc => Sys2Proof.Machine.execSlcStatRead acc s
  | .slcCntRead part k acc => Sys2Proof.Machine.execSlcCntRead part k acc s
  | .prtWdogRead page acc => Sys2Proof.Machine.execPrtWdogRead page acc s
  | .pwrHalfopRead half acc => Sys2Proof.Machine.execPwrHalfopRead half acc s
  | .hstFlrlostRead acc => Sys2Proof.Machine.execHstFlrlostRead acc s
  | .scoreboardRead core acc => Sys2Proof.Machine.execScoreboardRead core acc s
  | .fabPstatRead port acc => Sys2Proof.Machine.execFabPstatRead port acc s
  | .fabPfecRead port acc => Sys2Proof.Machine.execFabPfecRead port acc s
  | .fabPretryRead port acc => Sys2Proof.Machine.execFabPretryRead port acc s
  | .fabRtoRead acc => Sys2Proof.Machine.execFabRtoRead acc s
  | .timPpserrRead acc => Sys2Proof.Machine.execTimPpserrRead acc s
  | .trcSnapstatRead part acc => Sys2Proof.Machine.execTrcSnapstatRead part acc s
  | .errCntRead k acc => Sys2Proof.Machine.execErrCntRead k acc s
  | .errLoglostRead acc => Sys2Proof.Machine.execErrLoglostRead acc s
  | .pwrPowerRead acc => Sys2Proof.Machine.execPwrPowerRead acc s
  | .nopCmd ring => Sys2Proof.Machine.execNopCmd ring s
  | .queryDevice ring ecc => Sys2Proof.Machine.execQueryDevice ring ecc s
  | .queryPartition ring ecc => Sys2Proof.Machine.execQueryPartition ring ecc s
  | .queryBerth ring ecc => Sys2Proof.Machine.execQueryBerth ring ecc s
  | .queryIndex ring ecc => Sys2Proof.Machine.execQueryIndex ring ecc s
  | .fence ring ecc => Sys2Proof.Machine.execFence ring ecc s
  | .stageConfig ring ecc head ok => Sys2Proof.Machine.execStageConfig ring ecc head ok s
  | .commitConfig ring ecc => Sys2Proof.Machine.execCommitConfig ring ecc s
  | .commitConfigDevice ring ecc => Sys2Proof.Machine.execCommitConfigDevice ring ecc s
  | .commitTakesEffect target => Sys2Proof.Machine.execCommitTakesEffect target s
  | .openBerth ring ecc => Sys2Proof.Machine.execOpenBerth ring ecc s
  | .submit ecc => Sys2Proof.Machine.execSubmit ecc s
  | .cancel ring ecc => Sys2Proof.Machine.execCancel ring ecc s
  | .closeBerth ring ecc => Sys2Proof.Machine.execCloseBerth ring ecc s
  | .moor ring ecc => Sys2Proof.Machine.execMoor ring ecc s
  | .unmoor ring ecc => Sys2Proof.Machine.execUnmoor ring ecc s
  | .copyIn ring ecc => Sys2Proof.Machine.execCopyIn ring ecc s
  | .copyOut ring ecc => Sys2Proof.Machine.execCopyOut ring ecc s
  | .fill ring ecc => Sys2Proof.Machine.execFill ring ecc s
  | .signal ring => Sys2Proof.Machine.execSignal ring s
  | .traceControlSetRing ring ecc => Sys2Proof.Machine.execTraceControlSetRing ring ecc s
  | .traceControlSetCfg ring ecc => Sys2Proof.Machine.execTraceControlSetCfg ring ecc s
  | .traceControlSetCons ring ecc => Sys2Proof.Machine.execTraceControlSetCons ring ecc s
  | .traceControlSetSnapbase ring ecc => Sys2Proof.Machine.execTraceControlSetSnapbase ring ecc s
  | .traceControlRead ring ecc => Sys2Proof.Machine.execTraceControlRead ring ecc s
  | .counterSnapshotLatest ring ecc => Sys2Proof.Machine.execCounterSnapshotLatest ring ecc s
  | .counterSnapshotNow ring ecc => Sys2Proof.Machine.execCounterSnapshotNow ring ecc s
  | .resetPartition ring ecc => Sys2Proof.Machine.execResetPartition ring ecc s
  | .holdPartitionHold ring ecc => Sys2Proof.Machine.execHoldPartitionHold ring ecc s
  | .holdPartitionRelease ring ecc => Sys2Proof.Machine.execHoldPartitionRelease ring ecc s
  | .setOperatingPoint ring ecc => Sys2Proof.Machine.execSetOperatingPoint ring ecc s
  | .fabricControlPort ring ecc => Sys2Proof.Machine.execFabricControlPort ring ecc s
  | .fabricControlTorus ring ecc => Sys2Proof.Machine.execFabricControlTorus ring ecc s
  | .fabricControlExport ring ecc => Sys2Proof.Machine.execFabricControlExport ring ecc s
  | .fabricControlPostRing ring ecc => Sys2Proof.Machine.execFabricControlPostRing ring ecc s
  | .fabricControlBarrier ring ecc => Sys2Proof.Machine.execFabricControlBarrier ring ecc s
  | .fabricControlTime ring ecc => Sys2Proof.Machine.execFabricControlTime ring ecc s
  | .fabricControlReadPort ring ecc => Sys2Proof.Machine.execFabricControlReadPort ring ecc s
  | .hsigCompletionPost part => Sys2Proof.Machine.execHsigCompletionPost part s
  | .smbusBlockRead => Sys2Proof.Machine.execSmbusBlockRead s
  | .setEndpointId m => Sys2Proof.Machine.execSetEndpointId m s
  | .mctpRead m => Sys2Proof.Machine.execMctpRead m s
  | .mctpWrite m v => Sys2Proof.Machine.execMctpWrite m v s
  | .mctpSensors => Sys2Proof.Machine.execMctpSensors s
  | .bypass => Sys2Proof.Machine.execBypass s
  | .idcode => Sys2Proof.Machine.execIdcode s
  | .samplePreload scan => Sys2Proof.Machine.execSamplePreload scan s
  | .extest scan => Sys2Proof.Machine.execExtest scan s
  | .clamp => Sys2Proof.Machine.execClamp s
  | .highz => Sys2Proof.Machine.execHighz s
  | .lockstepMismatch e => Sys2Proof.Machine.execLockstepMismatch e s
  | .hbmStackFailure stack => Sys2Proof.Machine.execHbmStackFailure stack s
  | .tier2PortLinkFailure port => Sys2Proof.Machine.execTier2PortLinkFailure port s
  | .d2dFlitCrcError => Sys2Proof.Machine.execD2dFlitCrcError s
  | .d2dRetrainTimeout => Sys2Proof.Machine.execD2dRetrainTimeout s
  | .vddAuxLoss mv => Sys2Proof.Machine.execVddAuxLoss mv s
  | .pcieLinkStateChange speed width flit up => Sys2Proof.Machine.execPcieLinkStateChange speed width flit up s
  | .copyComplete ring bytes ok => Sys2Proof.Machine.execCopyComplete ring bytes ok s

end Sys2Proof.Machine
end

