-- ==== Sys2Proof/Safety.lean ====
section
/-!
DEFINITION. The terms in which statements speak of runs: when an instruction starts, and the forms that the state keeps.
-/
namespace Sys2Proof

/-- Who issues the command, where it is an instruction of a core (R78, R84). -/
def Instr.iss (i : Instr) : Option Iss :=
  match i with
  | .add x _ | .sub x _ | .and x _ | .or x _ | .xor x _ | .andn x _ | .sll x _ | .srl x _ | .sra x _ | .min x _
  | .max x _ | .minu x _ | .maxu x _ | .clz x _ | .ctz x _ | .popc x _ | .mul x _ | .mulh x _ | .mulhu x _
  | .div x _ | .divu x _ | .rem x _ | .remu x _ | .addi x _ | .andi x _ | .ori x _ | .xori x _ | .slli x _
  | .srli x _ | .srai x _ | .lui x _ | .cmp x _ | .cmpi x _ | .plogAnd x _ | .plogOr x _ | .plogXor x _
  | .plogAndn x _ | .plogOrn x _ | .plogMov x _ | .plogNot x _ | .plogSet x _ | .plogClr x _ | .br x _ | .call x _
  | .jalr x _ | .rpt x _ _ | .rptn x _ _ | .csrr x _ | .csrw x _ | .csrs x _ | .csrc x _ | .ld8 x _ | .ld8u x _
  | .ld16 x _ | .ld16u x _ | .ld32 x _ | .ld32u x _ | .ld64 x _ | .st8 x _ | .st16 x _ | .st32 x _ | .st64 x _
  | .ldAcq x _ | .stRel x _ | .ldAcqr x _ _ | .amoAdd x _ | .amoAnd x _ | .amoOr x _ | .amoXor x _ | .amoSwap x _
  | .amoMin x _ | .amoMax x _ | .amoMinu x _ | .amoMaxu x _ | .amoCas x _ | .waitm x _ _ | .sysNop x _
  | .syscall x _ | .brk x _ | .eret x _ | .remfence x _ | .iinv x _ | .ctxsv x _ | .ctxld x _ | .tld x _ | .tst x _
  | .tmma x _ | .tzero x _ | .tfree x _ | .tsld x _ | .tsst x _ | .tfin x _ | .tald x _ | .tast x _ | .vld x _
  | .vst x _ | .varithAdd x _ | .varithSub x _ | .varithMul x _ | .varithMin x _ | .varithMax x _ | .varithFma x _
  | .varithFms x _ | .varithAbs x _ | .varithNeg x _ | .vcmp x _ | .vcvtNarrow x _ | .vcvtWiden x _ | .vsfExp x _
  | .vsfExp2 x _ | .vsfLog x _ | .vsfLog2 x _ | .vsfRcp x _ | .vsfSqrt x _ | .vsfRsqrt x _ | .vsfTanh x _
  | .vsfSigmoid x _ | .vsfErf x _ | .vsfSin x _ | .vsfCos x _ | .vredSum x _ | .vredMax x _ | .vredMin x _
  | .vredArgmax x _ | .vredIntSum x _ | .vredIntMax x _ | .vredIntMin x _ | .vperm x _ | .vmovtToMatrix x _
  | .vmovtToVector x _ | .vftqRead x _ | .vftqPop x _ | .vftqStat x _ | .vsetvl x _ | .vbitAnd x _ | .vbitOr x _
  | .vbitXor x _ | .vbitAndn x _ | .vbitSll x _ | .vbitSrl x _ | .vbitSra x _ | .vbitSel x _ | .vbitMov x _
  | .vmovgBcast x _ | .vmovgGet0 x _ | .vmovgGet x _ | .sdescPost x _ | .sdescResume x _ | .sstop x _ | .sstat x _
  | .send x _ | .recvSel x _ | .movq x _ | .pset x _ | .pclr x _ | .pwait x _ | .barrWait x _ | .barrArrive x _
  | .barrTest x _ | .barm x _ | .hsig x _ | .engbindWrite x _ _ | .tcfgWrite x _ _ _ | .tiuWrite x _ _
  | .vlWrite x _ _ | .srseedWrite x _ _ | .threadRunRequest x _ _ _ | .threadStopRequest x _ _ _ => some x
  | _ => none

/-- The row is the write of one control register, whose words are those of `CSRW`, `CSRS` and `CSRC` (R82). -/
def Instr.csrRow (i : Instr) : Bool :=
  match i with
  | .engbindWrite .. | .tcfgWrite .. | .tiuWrite .. | .vlWrite .. | .srseedWrite .. | .threadRunRequest ..
  | .threadStopRequest .. => true
  | _ => false

end Sys2Proof

namespace Sys2Proof.Machine

/-! ### When an instruction starts -/

/-- The state in which an instruction has been counted as issued (R178), its thread noted as the last to issue (R78), and
its free value drawn. -/
def State.counted (s : State) (x : Iss) : State :=
  State.modCore { s with free := s.free + 1 } x.core.toNat (fun k => { k.tickStall x.thr 0 with last := x.thr })

/-- The conditions on the state, but for the fetch, under which an instruction of `x` issues at once: its thread may issue
(R78) and no event is due there (R101, R102); nothing of its core is in flight (R93, R119, R217); no hardware error
(R413). -/
def State.idleAt (s : State) (x : Iss) : Bool :=
  s.ready x.core.toNat x.thr && !s.eventDue x.core.toNat x.thr && (s.thread x.core.toNat x.thr).loads.isEmpty &&
    (s.core x.core.toNat).mem.accs.isEmpty && (s.core x.core.toNat).mx.queue.isEmpty &&
    (s.core x.core.toNat).vx.queue.isEmpty && (s.core x.core.toNat).vx.done.isEmpty && x.hw == .ok

/-- The state in which an instruction of `x` has been fetched: the fetch at its PC is allowed (R99, R269-R274), and the
instruction cache holds its line (R17). -/
def State.fetched (s : State) (x : Iss) : Option State :=
  let y := s.thread x.core.toNat x.thr
  if s.idleAt x then
    match (s.counted x).resolve x.core.toNat y.pc .fetch (!y.sup) with
    | (s1, .ok _) => some (s1.modCore x.core.toNat (fun k => k.fetched y.pc))
    | (_, .error _) => none
  else none

/-- The base register that a repetition of the instruction advances, by bytes or by rows: the one of an instruction of the M or
the CM format; another has none (R85, R96). -/
def repBase : Instr → Option (BitVec 5 × Bool)
  | .ld8 _ o | .ld8u _ o | .ld16 _ o | .ld16u _ o | .ld32 _ o | .ld32u _ o | .ld64 _ o | .st8 _ o | .st16 _ o | .st32 _ o
  | .st64 _ o | .ldAcq _ o | .stRel _ o => some (baseReg o.bn, false)
  | .tld _ o | .tst _ o | .tsld _ o | .tsst _ o | .tald _ o | .tast _ o | .vld _ o | .vst _ o => some (baseReg o.bn, true)
  | _ => none

/-- Within a repetition the base register of the instruction is noted (R96). -/
def State.based (s : State) (x : Iss) (base : Option (BitVec 5 × Bool)) : State :=
  if (s.thread x.core.toNat x.thr).rptOn then s.modThread x.core.toNat x.thr (fun y => { y with rptBase := base }) else s

/-- The state in which the own effect of an instruction of `x` begins: it has been fetched, and its predicate
is a legal one that holds (R86). Within a repetition sequence `base` is its base register (R96). -/
def State.starts (s : State) (x : Iss) (base : Option (BitVec 5 × Bool)) : Option State :=
  if !(x.pn && x.pi == 0) && predOf x (s.thread x.core.toNat x.thr) then (s.fetched x).map (fun s1 => s1.based x base)
  else none

/-- The state after an instruction that changes its own thread by `f` and goes on to the next one (R93, R96). -/
def State.after (s : State) (x : Iss) (f : Thread → Thread) : State :=
  s.modThread x.core.toNat x.thr (fun y => (f y).retire)

/-- The issuing thread runs in supervisor mode (R80). -/
def State.supAt (s : State) (x : Iss) : Bool := (s.thread x.core.toNat x.thr).sup

/-- Its general register `r`; its PC. -/
def State.gAt (s : State) (x : Iss) (r : BitVec 5) : W64 := (s.thread x.core.toNat x.thr).getG r
def State.pcAt (s : State) (x : Iss) : W64 := (s.thread x.core.toNat x.thr).pc

/-- The state after an instruction that changes its own thread by `f` and goes on at `pc`. -/
def State.jumps (s : State) (x : Iss) (pc : W64) (f : Thread → Thread) : State :=
  s.modThread x.core.toNat x.thr (fun y => { f y with n := (f y).n + 1, pc := pc })

/-- Wherever `i` starts, it writes general register `rd` with `v` of the state before it, and goes on. -/
def SetsG (i : Instr) (x : Iss) (rd : BitVec 5) (v : State → W64) : Prop :=
  ∀ s s1, s.starts x none = some s1 → exec i s = .next (s1.after x (fun y => y.setG rd (v s)))

/-- Wherever `i` starts, it writes predicate `pd` with `v` of the state before it, and goes on. -/
def SetsP (i : Instr) (x : Iss) (pd : BitVec 3) (v : State → Bool) : Prop :=
  ∀ s s1, s.starts x none = some s1 → exec i s = .next (s1.after x (fun y => y.setP pd (v s)))

/-- The conditions of R90, on the numbers that two registers hold. -/
def condHolds (cond : BitVec 4) (a b : W64) : Bool :=
  match cond.toNat with
  | 0 => decide (a = b)
  | 1 => decide (a ≠ b)
  | 2 => decide (a.toInt < b.toInt)
  | 3 => decide (a.toInt ≤ b.toInt)
  | 4 => decide (b.toInt < a.toInt)
  | 5 => decide (b.toInt ≤ a.toInt)
  | 6 => decide (a.toNat < b.toNat)
  | 7 => decide (a.toNat ≤ b.toNat)
  | 8 => decide (b.toNat < a.toNat)
  | 9 => decide (b.toNat ≤ a.toNat)
  | _ => decide (a &&& b ≠ 0)

/-- Predicate `p` of the issuing thread. -/
def State.pAt (s : State) (x : Iss) (p : BitVec 3) : Bool := (s.thread x.core.toNat x.thr).getP p

/-- The state once an instruction of `x`, on a core with nothing in flight, has put an access there (R217): it takes the
next number, and keeps the thread as it was before the instruction (R98). An access to the core's own LM does not wait
to be injected (R173). -/
def State.issued (s : State) (x : Iss) (kind : AccKind) (ea : W64) (len : Nat) (r : Resolved) (rel : Bool := false) : State :=
  let y := s.thread x.core.toNat x.thr
  s.modCore x.core.toNat (fun k => { k with mem := { k.mem with
    accs := [{ id := k.mem.nextId, thr := x.thr, n := y.n, kind := kind, ea := ea, place := r.place, space := r.space
               lo := r.lo, len := len, injected := decide (ea.toNat < 0x80000), performed := false, val := 0
               line := none, fill := true, err := none, snap := y, rel := rel }]
    nextId := k.mem.nextId + 1
    peak := max k.mem.peak 1 } })

/-- The state once an access of `x` has held an entry, alone, and is complete: it has taken the next number (R217). -/
def State.entered (s : State) (x : Iss) : State :=
  s.modCore x.core.toNat (fun k => { k with mem := { k.mem with
    nextId := k.mem.nextId + 1
    peak := max k.mem.peak 1 } })

/-- The number of the next access of the core. -/
def State.nextAcc (s : State) (x : Iss) : Nat := (s.core x.core.toNat).mem.nextId

/-- The thread with one load on its way to `rd`, its value not yet there or already there (R93). -/
def Thread.loading (y : Thread) (id : Nat) (rd : BitVec 5) (v : Option W64) : Thread :=
  { y with loads := [⟨id, y.n, rd, v⟩] }

/-- Where `i` starts in a thread bound to the vector engine, it changes the state by `f`, is counted and sets pennant 20
(R153, R401), and the thread goes on. -/
def DoesV (i : Instr) (x : Iss) (f : State → State) : Prop :=
  ∀ s s1, s.starts x none = some s1 → (s.core x.core.toNat).vectorBound x.thr = true →
    exec i s = .next (((f s1).vecDone x.core.toNat).after x id)

/-- The lines of a multi-row access resolve, and once it has its entry of the scoreboard nothing holds them back: the state
then, its number, and their places (R123, R173, R217, R218). -/
def State.linesOf (s : State) (x : Iss) (need : Need) (len : Nat) (lines : List RowLine) :
    Option (State × Nat × List (W64 × Resolved)) :=
  let c := x.core.toNat
  match s.resolveLines c need (!(s.thread c x.thr).sup) len lines with
  | (s2, .ok ls) =>
    match (s2.modCore c (fun k => k.addLines c x.thr lines len (need == .write))).orderLines c x.thr (s2.nextAcc x) ls
        (need == .write) len with
    | .ok s3 => some (s3, s2.nextAcc x, ls)
    | _ => none
  | (_, .error _) => none

/-- As `linesOf` and `bytesOf`, for lines that are read under an entry, number `id`, that the instruction holds for all of its
reads (R217). -/
def State.bytesHeld (s : State) (x : Iss) (id len : Nat) (lines : List RowLine) : Option (State × List Byte) :=
  let c := x.core.toNat
  match s.resolveLines c .read (!(s.thread c x.thr).sup) len lines with
  | (s2, .ok ls) =>
    match s2.orderLines c x.thr id ls false len with
    | .ok s3 =>
      match s3.readLines len ls with
      | .ok bs => if bs.all Option.isSome then some (s3.countLines c ls false, bs.flatMap (fun b => b.getD [])) else none
      | .error _ => none
    | _ => none
  | (_, .error _) => none

/-- The access that an instruction has held through its reads is over. -/
def State.ends (s : State) (x : Iss) (id : Nat) : State := s.modCore x.core.toNat (fun k => k.dropAcc id)

/-- They can be read: every line is at home on this device and holds correctable data; the state once the access is
complete, and the bytes. -/
def State.bytesOf (s : State) (x : Iss) (len : Nat) (lines : List RowLine) : Option (State × List Byte) :=
  match s.linesOf x .read len lines with
  | some (s2, id, ls) =>
    match s2.readLines len ls with
    | .ok bs =>
      if bs.all Option.isSome then
        some ((s2.countLines x.core.toNat ls false).modCore x.core.toNat (fun k => k.dropAcc id), bs.flatMap (fun b => b.getD []))
      else none
    | .error _ => none
  | none => none

/-- They can be written: every line at home on this device has its home in service; the state once the access is complete,
and the places. -/
def State.placesOf (s : State) (x : Iss) (lines : List RowLine) : Option (State × List (W64 × Resolved)) :=
  match s.linesOf x .write 64 lines with
  | some (s2, id, ls) =>
    if ls.all (fun p => match p.2.place with | .here pa => s2.homeUp pa | .remote _ => true) then
      some ((s2.modCore x.core.toNat (fun k => k.dropAcc id)).countLines x.core.toNat ls true, ls)
    else none
  | none => none

/-- The state but for what reports change: registers, partitions' trace writers and promises, what goes to the host, and
the sequence numbers of units. -/
def State.apart (s : State) : State := { s with regs := [], parts := [], hostOut := [], unitSeq := [] }

/-- Nothing of the thread or its core is in flight. -/
def State.stillAt (s : State) (c : Nat) (t : BitVec 2) : Bool :=
  (s.thread c t).loads.isEmpty && (s.core c).mem.accs.isEmpty && (s.core c).mx.queue.isEmpty &&
    (s.core c).vx.queue.isEmpty && (s.core c).vx.done.isEmpty

/-- The engines of the core are empty, and none of its accesses has failed or is a `VST` that waits: nothing there goes on by
itself. -/
def State.enginesRest (s : State) (c : Nat) : Prop :=
  (s.core c).mx.queue = [] ∧ (s.core c).vx.queue = [] ∧ (s.core c).vx.done = [] ∧
    ∀ a ∈ (s.core c).mem.accs, a.err = none ∧ ∀ ls v, a.kind ≠ .vst ls v

/-- Nor does a thread of the core wait. -/
def State.atRest (s : State) (c : Nat) : Prop := (∀ t, (s.thread c t).wait = none) ∧ s.enginesRest c

/-- No thread of the core waits for words. -/
def State.noReader (s : State) (c : Nat) : Prop :=
  ∀ t, match (s.thread c t).wait with
    | some (.movq ..) => False
    | some (.recvSel ..) => False
    | _ => True

/-- CP0 starts packet `p` of ring pair `g`, whose opcode is `op`, and finds every field of its layout in range
(R317, R320, R331). -/
def State.takesPkt (s : State) (g op : Nat) (p : Packet) (layout : List PField) : Prop :=
  s.fwNext g op = some p ∧ s.dstate ≠ 7 ∧ (s.dstate = 6 ∨ opAnyState op = true) ∧ p.bad layout = none

/-- The state in which that packet has left its queue. -/
def State.unqueued (s : State) (p : Packet) : State := { s with fwq := s.fwq.filter (fun q => q.id != p.id) }

/-- `i` takes `s` to `u` with one completion more. -/
def State.answers (s : State) (i : Instr) (u : State) (c : Compl) : Prop :=
  exec i s = .next { u with compl := u.compl ++ [c] }

/-- The host reaches the whole of BAR0 through the PF: no reset is low, both have been high for 20 ms, the device has entered
`HOLD` (R429), and the PF is not in D3hot (R292). -/
def State.hostOpen (s : State) : Prop :=
  s.pins.porst = true ∧ s.pins.warm = true ∧ s.pins.perst = true ∧ s.dstate ≠ 0 ∧ s.boot.held = true ∧
    s.boot.highAt.toNat + 20000000 ≤ s.elapsed.toNat ∧ s.link.d3hot.getLsbD 0 = false

/-- A count of `w` bits at `lo` of a register word has gone from `s` to `t` one up, no further than its largest value. -/
def State.counts (s t : State) (off lo w : Nat) : Prop := t.rfld off lo w = min (s.rfld off lo w + 1) (2 ^ w - 1)

/-! ### Forms that the state keeps -/

/-- The memory keeps its canonical form. -/
abbrev State.memOk (s : State) : Prop := Memory.wf s.mem

end Sys2Proof.Machine
end

