-- ==== Sys2Proof/Certificates/Slice0/Obligations.lean ====
section
/-!
DEFINITION. The statements for the provers, each in the terms of Safety.lean and of the named operations of the model.
-/
open Sys2Proof Sys2Proof.Machine

/-- R88: every instruction of the `ALU` group writes `rd` as the table of R88 gives it; a register written or read that is
`g0` is discarded or zero (R81). -/
def Obligations.AluResults : Prop :=
  ∀ (x : Iss) (o : FmtR),
    let a := fun s : State => s.gAt x o.ra
    let b := fun s : State => s.gAt x o.rb
    let n := fun s : State => (b s).toNat % 64
    SetsG (.add x o) x o.rd (fun s => a s + b s) ∧
    SetsG (.sub x o) x o.rd (fun s => a s - b s) ∧
    SetsG (.and x o) x o.rd (fun s => a s &&& b s) ∧
    SetsG (.or x o) x o.rd (fun s => a s ||| b s) ∧
    SetsG (.xor x o) x o.rd (fun s => a s ^^^ b s) ∧
    SetsG (.andn x o) x o.rd (fun s => a s &&& ~~~(b s)) ∧
    SetsG (.sll x o) x o.rd (fun s => a s <<< n s) ∧
    SetsG (.srl x o) x o.rd (fun s => a s >>> n s) ∧
    SetsG (.sra x o) x o.rd (fun s => (a s).sshiftRight (n s)) ∧
    SetsG (.min x o) x o.rd (fun s => BitVec.ofInt 64 (Min.min (a s).toInt (b s).toInt)) ∧
    SetsG (.max x o) x o.rd (fun s => BitVec.ofInt 64 (Max.max (a s).toInt (b s).toInt)) ∧
    SetsG (.minu x o) x o.rd (fun s => BitVec.ofNat 64 (Min.min (a s).toNat (b s).toNat)) ∧
    SetsG (.maxu x o) x o.rd (fun s => BitVec.ofNat 64 (Max.max (a s).toNat (b s).toNat)) ∧
    (o.rb = 0 → SetsG (.clz x o) x o.rd (fun s => BitVec.ofNat 64 (if a s = 0 then 64 else 63 - (a s).toNat.log2))) ∧
    (o.rb = 0 → SetsG (.ctz x o) x o.rd (fun s => ctz64 (a s))) ∧
    (o.rb = 0 → SetsG (.popc x o) x o.rd (fun s => BitVec.ofNat 64 ((List.range 64).countP (fun i => (a s).getLsbD i)))) ∧
    SetsG (.mul x o) x o.rd (fun s => BitVec.ofInt 64 ((a s).toInt * (b s).toInt)) ∧
    SetsG (.mulh x o) x o.rd (fun s => BitVec.ofInt 64 ((a s).toInt * (b s).toInt / 2 ^ 64)) ∧
    SetsG (.mulhu x o) x o.rd (fun s => BitVec.ofNat 64 ((a s).toNat * (b s).toNat / 2 ^ 64)) ∧
    SetsG (.div x o) x o.rd (fun s => if b s = 0 then BitVec.allOnes 64 else BitVec.ofInt 64 ((a s).toInt.tdiv (b s).toInt)) ∧
    SetsG (.divu x o) x o.rd (fun s => if b s = 0 then BitVec.allOnes 64 else BitVec.ofNat 64 ((a s).toNat / (b s).toNat)) ∧
    SetsG (.rem x o) x o.rd (fun s => if b s = 0 then a s else BitVec.ofInt 64 ((a s).toInt.tmod (b s).toInt)) ∧
    SetsG (.remu x o) x o.rd (fun s => if b s = 0 then a s else BitVec.ofNat 64 ((a s).toNat % (b s).toNat))

/-- R87: the instructions with an immediate write `rd`; `ADDI` and `LUI` sign-extend it, the logical ones zero-extend it,
a shift takes its six bits. R90: `CMP` and `CMPI` write the condition, and `PLOG` its function of two predicates. -/
def Obligations.ImmediatesAndPredicates : Prop :=
  (∀ (x : Iss),
      (∀ o : FmtI,
        SetsG (.addi x o) x o.rd (fun s => s.gAt x o.ra + o.imm.signExtend 64) ∧
        SetsG (.andi x o) x o.rd (fun s => s.gAt x o.ra &&& o.imm.setWidth 64) ∧
        SetsG (.ori x o) x o.rd (fun s => s.gAt x o.ra ||| o.imm.setWidth 64) ∧
        SetsG (.xori x o) x o.rd (fun s => s.gAt x o.ra ^^^ o.imm.setWidth 64)) ∧
      (∀ o : FmtSh, o.z = 0 →
        SetsG (.slli x o) x o.rd (fun s => s.gAt x o.ra <<< o.sh.toNat) ∧
        SetsG (.srli x o) x o.rd (fun s => s.gAt x o.ra >>> o.sh.toNat) ∧
        SetsG (.srai x o) x o.rd (fun s => (s.gAt x o.ra).sshiftRight o.sh.toNat)) ∧
      (∀ o : FmtU, SetsG (.lui x o) x o.rd (fun _ => o.imm.signExtend 64 * 4096))) ∧
  (∀ (x : Iss),
      (∀ o : FmtCmp, o.z = 0 → o.cond.toNat ≤ 10 →
        SetsP (.cmp x o) x o.pd (fun s => condHolds o.cond (s.gAt x o.ra) (s.gAt x o.rb))) ∧
      (∀ o : FmtCmpi, o.cond.toNat ≤ 10 →
        SetsP (.cmpi x o) x o.pd (fun s => condHolds o.cond (s.gAt x o.ra) (o.imm.signExtend 64))) ∧
      (∀ o : FmtL, o.z = 0 →
        SetsP (.plogAnd x o) x o.pd (fun s => s.pAt x o.pa && s.pAt x o.pb) ∧
        SetsP (.plogOr x o) x o.pd (fun s => s.pAt x o.pa || s.pAt x o.pb) ∧
        SetsP (.plogXor x o) x o.pd (fun s => s.pAt x o.pa ^^ s.pAt x o.pb) ∧
        SetsP (.plogAndn x o) x o.pd (fun s => s.pAt x o.pa && !s.pAt x o.pb) ∧
        SetsP (.plogOrn x o) x o.pd (fun s => s.pAt x o.pa || !s.pAt x o.pb) ∧
        SetsP (.plogMov x o) x o.pd (fun s => s.pAt x o.pa) ∧
        SetsP (.plogNot x o) x o.pd (fun s => !s.pAt x o.pa) ∧
        SetsP (.plogSet x o) x o.pd (fun _ => true) ∧
        SetsP (.plogClr x o) x o.pd (fun _ => false)))

/-- R87: `BR` and `CALL` go to PC plus the displacement, `CALL` leaves PC + 4 in `g1`; `JALR` writes PC + 4 and goes to
`ra` plus the immediate, and raises `ALIGN` at a target that is not a multiple of 4. R96: a prefix with count 0 skips
the next instruction; otherwise it goes on to it with `RPTCNT` holding the count, the stride and `ACTIVE`. R93, R96:
what going on to the next instruction does: `PC` + 4 outside a repetition; within one the base register advances by
the stride (times 64 for the rows of matrix loads and stores), the count goes down, and the last repetition leaves
`ACTIVE` and the count 0. It rests on the model's own choices of log 46. -/
def Obligations.ControlFlow : Prop :=
  (∀ (x : Iss) (s s1 : State), s.starts x none = some s1 →
      (∀ disp : BitVec 22,
        exec (.br x disp) s = .next (s1.jumps x (s.pcAt x + disp.signExtend 64 * 4) id) ∧
        exec (.call x disp) s = .next (s1.jumps x (s.pcAt x + disp.signExtend 64 * 4) (fun y => y.setG 1 (s.pcAt x + 4)))) ∧
      (∀ o : FmtI,
        let target := s.gAt x o.ra + o.imm.signExtend 64
        exec (.jalr x o) s = .next (if target.toNat % 4 = 0 then s1.jumps x target (fun y => y.setG o.rd (s.pcAt x + 4))
          else s1.enterExc x.core.toNat x.thr { code := 0x03, stval := target }))) ∧
  (∀ (x : Iss) (s s1 : State), s.starts x none = some s1 → x.pi = 0 → x.pn = false →
      let runs (count : Nat) (n : Bool) (stride : BitVec 12) : State :=
        if count = 0 then s1.jumps x (s.pcAt x + 8) id
        else s1.jumps x (s.pcAt x + 4) (fun y => { y with
          rptcnt := BitVec.ofNat 64 (count + stride.toNat * 2 ^ 32 + 2 ^ 44), rptOn := true, rptN := n,
          rptFrom := y.n + 1, rptBase := none })
      (∀ (o : FmtRpt) (next : W32), o.z = 0 → rptAllows o.stride next = true →
        exec (.rpt x o next) s = .next (runs ((s.gAt x o.ra).toNat % 2 ^ 32) false o.stride)) ∧
      (∀ (o : FmtRptn) (next : W32), o.z = 0 → o.cnt.toNat ≤ 64 → rptAllows o.stride next = true →
        exec (.rptn x o next) s = .next (runs o.cnt.toNat true o.stride))) ∧
  (∀ (y : Thread),
      let left := y.rptcnt.toNat % 2 ^ 32
      let stride : W64 := (y.rptcnt.extractLsb' 32 12).signExtend 64
      y.retire.n = y.n + 1 ∧ y.retire.p = y.p ∧ y.retire.stat = y.stat ∧ y.retire.loads = y.loads ∧
      (y.rptOn = false → y.retire = { y with n := y.n + 1, pc := y.pc + 4 }) ∧
      (y.rptOn = true →
        (∀ r, y.retire.getG r = if y.rptBase = some (r, false) ∧ r ≠ 0 then y.getG r + stride
          else if y.rptBase = some (r, true) ∧ r ≠ 0 then y.getG r + stride * 64 else y.getG r) ∧
        (2 ≤ left → y.retire.pc = y.pc ∧ y.retire.rptOn = true ∧ y.retire.rptcnt.toNat % 2 ^ 32 = left - 1 ∧
          y.retire.rptcnt.toNat / 2 ^ 32 = y.rptcnt.toNat / 2 ^ 32) ∧
        (left = 1 → y.retire.pc = y.pc + 4 ∧ y.retire.rptOn = false ∧ y.retire.rptcnt.toNat % 2 ^ 32 = 0 ∧
          y.retire.rptcnt.getLsbD 44 = false)))

/-- R80, R82, R83, R109: a listed control register that the thread may read or write, of an engine bound to it where it is
an engine's, with no instruction unretired in an engine that the access waits for, is read into `rd` by `CSRR`, and written by `CSRW`, `CSRS`, `CSRC` and by the rows that name one register.
R80, R82, R83: what the accesses of the statement before it meet instead: `UNDEF` for a number that is not listed,
`PRIV` for one that a user thread may not reach, `ACCESS` with 56 or 57 for an engine not bound to the thread. R82,
R83, R97, R108, R137, R175: what a control register reads as after a write of it, by its width, and that no other
control register changes but `TROW` when `ENGBIND` is written; nothing outside the core changes. R82: a write of
`THRSTAT` clears a flag written with 1, reaches `PMODE`, `IE`, `PIE` and `EXL` in supervisor mode only, and never
changes `MODE` or a reserved bit. R79: a write of `THRCTL` sets `PRIO`, the `PC` of a stopped thread, and starts the thread,
unless it is halted, or asks it to stop. R110, R111: a write of `TIU` marks registers in use and frees those whose bit goes
from 1 to 0, which then hold zero. R189: a write of `QCFG` is ignored as a whole or taken. It rests on the model's own
choices of logs 54, 98, 147. -/
def Obligations.ControlRegisters : Prop :=
  (∀ (x : Iss) (s s1 : State), s.starts x none = some s1 →
      let c := x.core.toNat
      let bound (n : Nat) (write : Bool) : Prop := csrListed n = true ∧
        (csrMatrix n = true → (s.core c).matrixBound x.thr = true) ∧
        (csrVector n = true → (s.core c).vectorBound x.thr = true) ∧ (s.core c).csrWaits n write = false
      let writes (i : Instr) (op : CsrOp) (ra : BitVec 5) (n : Nat) : Prop :=
        bound n true → (csrPrivWrite n = true → s.supAt x = true) →
          exec i s = .next ((s1.csrWrite c x.thr op n (s.gAt x ra)).after x id)
      (∀ o : FmtI, bound o.imm.toNat false → (csrPrivRead o.imm.toNat = true → s.supAt x = true) →
        exec (.csrr x o) s = .next (s1.after x (fun y => y.setG o.rd (s1.csrRead c x.thr o.imm.toNat)))) ∧
      (∀ o : FmtI, writes (.csrw x o) .write o.ra o.imm.toNat ∧ writes (.csrs x o) .set o.ra o.imm.toNat ∧
        writes (.csrc x o) .clear o.ra o.imm.toNat) ∧
      (∀ (op : CsrOp) (ra : BitVec 5),
        writes (.engbindWrite x op ra) op ra 0x18 ∧ (∀ r : MatCsr, writes (.tcfgWrite x op ra r) op ra r.num) ∧
        writes (.tiuWrite x op ra) op ra 0x28 ∧ writes (.vlWrite x op ra) op ra 0x30 ∧
        writes (.srseedWrite x op ra) op ra 0x08 ∧
        (∀ t : BitVec 2, writes (.threadRunRequest x op ra t) op ra (0x10 + t.toNat) ∧
          writes (.threadStopRequest x op ra t) op ra (0x10 + t.toNat)))) ∧
  (∀ (x : Iss) (s s1 : State) (o : FmtI), ¬(x.pn = true ∧ x.pi = 0) →
      let c := x.core.toNat
      let n := o.imm.toNat
      let traps (i : Instr) (code : Nat) (v : W64) : Prop :=
        exec i s = .next (s1.enterExc c x.thr { code := code, stval := v })
      let op (k : Nat) : W64 := (BitVec.ofNat 32 (encI k x o)).setWidth 64
      (s.fetched x = some s1 →
        (csrListed n = false → traps (.csrr x o) 0x01 (op 16) ∧ traps (.csrw x o) 0x01 (op 17) ∧
          traps (.csrs x o) 0x01 (op 18) ∧ traps (.csrc x o) 0x01 (op 19)) ∧
        (csrListed n = true → s.supAt x = false →
          (csrPrivRead n = true → traps (.csrr x o) 0x02 (op 16)) ∧
          (csrPrivWrite n = true → traps (.csrw x o) 0x02 (op 17) ∧ traps (.csrs x o) 0x02 (op 18) ∧
            traps (.csrc x o) 0x02 (op 19)))) ∧
      (s.starts x none = some s1 →
        (csrListed n = true → csrMatrix n = true → (s.core c).matrixBound x.thr = false → traps (.csrr x o) 0x0E 56 ∧
          traps (.csrw x o) 0x0E 56 ∧ traps (.csrs x o) 0x0E 56 ∧ traps (.csrc x o) 0x0E 56) ∧
        (csrListed n = true → csrVector n = true → (s.core c).vectorBound x.thr = false → traps (.csrr x o) 0x0E 57 ∧
          traps (.csrw x o) 0x0E 57 ∧ traps (.csrs x o) 0x0E 57 ∧ traps (.csrc x o) 0x0E 57))) ∧
  (∀ (s : State) (c : Nat) (t : BitVec 2) (n : Nat) (op : CsrOp) (v : W64),
      let w := csrNew op (s.csrRead c t n) v
      let z := s.csrWrite c t op n v
      (∀ p ∈ ([(1, 0x1FF), (2, BitVec.allOnes 64), (3, BitVec.allOnes 64), (4, BitVec.allOnes 64), (5, BitVec.allOnes 64),
          (6, 0xFFFF), (7, 0xFFFFFFFF), (9, 0x1FFFFFFFFFFF), (0x0A, 0xFFFFFFFF), (0x18, 0x77), (0x29, 0x1F),
          (0x2A, 0xFF7), (0x40, 0xFF77FFFF)] : List (Nat × W64)), n = p.1 → z.csrRead c t n = w &&& p.2) ∧
      (0x20 ≤ n → n ≤ 0x27 → z.csrRead c t n = w &&& 0xFFFFFF3FFFFF) ∧
      (0x58 ≤ n → n ≤ 0x5F → z.csrRead c t n = w &&& 0xFFFFFFFFF) ∧
      (n = 8 → z.csrRead c t n = if w &&& 0xFFFFFFFF = 0 then 1 else w &&& 0xFFFFFFFF) ∧
      (n = 0x30 → z.csrRead c t n = BitVec.ofNat 64 (Min.min 512 (w.toNat % 1024))) ∧
      (n = 0x60 → z.csrRead c t n = s.csrRead c t n ∧ (z.core c).nisplitStaged = some (w.setWidth 32)) ∧
      (0x0B ≤ n → n ≤ 0x0D → z = s) ∧
      (∀ m, csrListed m = true → csrListed n = true → m ≠ n → ¬(n = 0x18 ∧ m = 0x29) → z.csrRead c t m = s.csrRead c t m) ∧
      (z = s ∨ ∃ k, z = s.setCore c k)) ∧
  (∀ (s : State) (c : Nat) (t : BitVec 2) (v : W64) (i : Nat), i < 64 →
      let old := (s.thread c t).stat
      let new (op : CsrOp) := ((s.csrWrite c t op 0 v).csrRead c t 0).getLsbD i
      (16 ≤ i ∧ i ≤ 18 → new .write = (old.getLsbD i && !v.getLsbD i) ∧ new .set = (old.getLsbD i && !v.getLsbD i) ∧
        new .clear = old.getLsbD i) ∧
      (1 ≤ i ∧ i ≤ 4 → (s.thread c t).sup = true → new .write = v.getLsbD i ∧ new .set = (old.getLsbD i || v.getLsbD i) ∧
        new .clear = (old.getLsbD i && !v.getLsbD i)) ∧
      (¬(16 ≤ i ∧ i ≤ 18) → ¬(1 ≤ i ∧ i ≤ 4 ∧ (s.thread c t).sup = true) →
        new .write = old.getLsbD i ∧ new .set = old.getLsbD i ∧ new .clear = old.getLsbD i)) ∧
  (∀ (s : State) (c : Nat) (t : BitVec 2) (op : CsrOp) (v : W64),
      (∀ u : BitVec 2,
        let w := csrNew op (s.csrRead c t (0x10 + u.toNat)) v
        let z := s.csrWrite c t op (0x10 + u.toNat) v
        let old := s.ctl c u
        let new := z.ctl c u
        new.prio.toNat = fld w 0 2 ∧ new.halted = old.halted ∧ new.hcause = old.hcause ∧
        (z.thread c u).pc = (if old.stopped then BitVec.ofNat 64 (4 * fld w 18 46) else (s.thread c u).pc) ∧
        (w.getLsbD 2 = true → old.halted = false → new.run = true ∧ new.stopped = false ∧ new.stopReq = false) ∧
        (w.getLsbD 2 = true → old.halted = true → new.run = old.run ∧ new.stopped = old.stopped ∧ new.stopReq = old.stopReq) ∧
        (w.getLsbD 2 = false → new.run = false ∧ new.stopped = old.stopped ∧
          new.stopReq = (!old.stopped && !old.halted)) ∧
        ∀ r, r ≠ u → z.ctl c r = s.ctl c r ∧ z.thread c r = s.thread c r) ∧
      (let w := csrNew op (s.csrRead c t 0x28) v
        let z := s.csrWrite c t op 0x28 v
        let old := (s.core c).mx
        let new := (z.core c).mx
        (∀ i, i < 64 → new.tiu.getLsbD i =
          if i < 12 then w.getLsbD i else if i < 16 then w.getLsbD i && w.getLsbD (i - 4) else false) ∧
        (∀ i : BitVec 3, if old.tiu.getLsbD i.toNat = true ∧ w.getLsbD i.toNat = false then new.tile i = 0 ∧ new.scales i = 0
          else new.tile i = old.tile i ∧ new.scales i = old.scales i) ∧
        (∀ i : BitVec 2, new.acc i =
          if old.tiu.getLsbD (8 + i.toNat) = true ∧ w.getLsbD (8 + i.toNat) = false then 0 else old.acc i)) ∧
      (∀ q : BitVec 3,
        let w := csrNew op (s.csrRead c t (0x50 + q.toNat)) v
        let z := s.csrWrite c t op (0x50 + q.toNat) v
        let m := (s.core c).mu
        let old := rget m.qcfg (qix q)
        let size := 2 ^ fld w 8 4
        let ignored := fld w 0 2 = 3 ∨ fld w 8 4 < 8 ∨
          ((m.words q ≠ 0 ∨ rget m.spForms (qix q) ≠ []) ∧ (fld w 2 1 ≠ fld old 2 1 ∨ fld w 8 17 ≠ fld old 8 17)) ∨
          (fld w 2 1 = 1 ∧ (64 * fld w 12 13 % size ≠ 0 ∨ 524288 < 64 * fld w 12 13 + size))
        (ignored → (z.core c).mu = m) ∧
        (¬ignored → rget (z.core c).mu.qcfg (qix q) = w &&& 0x1FFFFF7 ∧ (z.core c).mu.q = m.q ∧
          (z.core c).mu.spForms = m.spForms)))

/-- R17, R89, R100, R232: `NOP` goes on, and `IINV` with no line left in the instruction cache; `REMFENCE` with nothing outstanding goes on; `SYSCALL` and `BREAK` raise
their exceptions with the immediate in `STVAL`; `ERET` goes to `SEPC`. It rests on the model's own choices of log 8. -/
def Obligations.SystemInstructions : Prop :=
  ∀ (x : Iss) (o : FmtS) (s s1 : State), s.starts x none = some s1 →
    exec (.sysNop x o) s = .next (s1.after x id) ∧
    (s.supAt x = true → exec (.iinv x o) s =
      .next ((s1.modCore x.core.toNat (fun k => { k with icache := [] })).after x id)) ∧
    ((s.thread x.core.toNat x.thr).remErr = none → (∀ w ∈ (s.core x.core.toNat).mem.remOut, w.thr ≠ x.thr) →
      exec (.remfence x o) s = .next (s1.after x id)) ∧
    exec (.syscall x o) s = .next (s1.enterExc x.core.toNat x.thr { code := 0x0C, stval := o.imm.setWidth 64 }) ∧
    exec (.brk x o) s = .next (s1.enterExc x.core.toNat x.thr { code := 0x0B, stval := o.imm.setWidth 64 }) ∧
    (s.supAt x = true → exec (.eret x o) s =
      .next (s1.jumps x (s.thread x.core.toNat x.thr).sepc Thread.eret))

/-- R100: exception entry with `EXL` = 0 makes pending loads visible, saves `PC` in `SEPC` and the cause and value, copies
`MODE` and `IE`, sets `MODE` = 1, `IE` = 0 and `EXL` = 1, and goes to `SVEC`; nothing else of the core's threads
changes but the count of R93. With `EXL` = 1 the thread halts and its first exception stays. R100: `ERET` takes `MODE`
from `PMODE` and `IE` from `PIE`, clears `EXL`, and takes up a repetition whose `ACTIVE` is 1. It rests on the model's
own choices of log 46. -/
def Obligations.Exceptions : Prop :=
  (∀ (s : State) (c : Nat) (t : BitVec 2) (e : Exc),
      let y := (s.thread c t).showAll
      let z := (s.enterExc c t e).thread c t
      ((s.thread c t).stat.getLsbD 4 = false →
        z.sepc = y.pc ∧ z.scause = e.scause ∧ z.stval = e.stval ∧ z.pc = y.svec ∧
        (∀ i, z.stat.getLsbD i = if i = 0 ∨ i = 4 then true else if i = 1 then y.stat.getLsbD 0
          else if i = 2 then false else if i = 3 then y.stat.getLsbD 2 else y.stat.getLsbD i) ∧
        z.g = y.g ∧ z.p = y.p ∧ z.svec = y.svec ∧ z.sscr = y.sscr ∧ z.rptcnt = y.rptcnt ∧ z.imask = y.imask ∧
        z.loads = [] ∧ z.rptOn = false ∧ z.wait = none ∧
        (s.enterExc c t e).ctl c t = s.ctl c t) ∧
      ((s.thread c t).stat.getLsbD 4 = true →
        z.sepc = y.sepc ∧ z.scause = y.scause ∧ z.stval = y.stval ∧ z.pc = y.pc ∧ z.stat = y.stat ∧ z.g = y.g ∧
        (let k := (s.enterExc c t e).ctl c t; k.halted = true ∧ k.stopped = true ∧ k.hcause = BitVec.ofNat 6 e.code) ∧
        (s.present c = true → ((s.enterExc c t e).core c).penn.getLsbD 31 = true)) ∧
      (∀ u, u ≠ t → (s.enterExc c t e).thread c u = s.thread c u) ∧
      (∀ d, d ≠ c → (s.enterExc c t e).core d = s.core d) ∧ (s.enterExc c t e).mem = s.mem) ∧
  (∀ (y : Thread),
      (∀ i, y.eret.stat.getLsbD i = if i = 0 then y.stat.getLsbD 1 else if i = 2 then y.stat.getLsbD 3
        else if i = 4 then false else y.stat.getLsbD i) ∧
      y.eret.rptOn = y.rptcnt.getLsbD 44 ∧ y.eret.rptcnt = y.rptcnt ∧ y.eret.g = y.g ∧ y.eret.p = y.p ∧
      y.eret.sepc = y.sepc ∧ y.eret.scause = y.scause ∧ y.eret.stval = y.stval ∧ y.eret.svec = y.svec)

/-- R85, R87, R93, R222: a scalar load of an aligned address that resolves goes in flight for its register, zero or sign
extended as its name says; one that hits a valid line of the data cache that nothing holds back is answered by it.
R85, R87, R222, R227: a scalar store, and `ST.REL`, of an aligned address that resolves goes in flight with the value
of its register, and updates the core's valid line. R91, R229: an atomic of an aligned address that resolves goes in
flight with its operation, its width, its operand and the value that `CAS` expects. -/
def Obligations.AccessesIssue : Prop :=
  (∀ (x : Iss) (o : FmtM) (s s1 s2 : State) (r : Resolved), s.starts x (some (baseReg o.bn, false)) = some s1 →
      let c := x.core.toNat
      let ea := s.gAt x (baseReg o.bn) + o.disp.signExtend 64
      let loads (i : Instr) (size : Nat) (signed : Bool) : Prop :=
        ea.toNat % size = 0 → s1.resolve c ea .read (!s.supAt x) = (s2, .ok r) →
          exec i s = .next (
            match s2.hitValue c { kind := .load o.r size signed true false, ea := ea, len := size, need := .read } r with
            | none => (s2.issued x (.load o.r size signed true false) ea size r).after x (fun y => y.loading (s2.nextAcc x) o.r none)
            | some v => (s2.entered x).after x (fun y => y.loading (s2.nextAcc x) o.r (some v)))
      loads (.ld8 x o) 1 true ∧ loads (.ld8u x o) 1 false ∧ loads (.ld16 x o) 2 true ∧ loads (.ld16u x o) 2 false ∧
      loads (.ld32 x o) 4 true ∧ loads (.ld32u x o) 4 false ∧ loads (.ld64 x o) 8 false) ∧
  (∀ (x : Iss) (o : FmtM) (s s1 s2 : State) (r : Resolved), s.starts x (some (baseReg o.bn, false)) = some s1 →
      let c := x.core.toNat
      let ea := s.gAt x (baseReg o.bn) + o.disp.signExtend 64
      let stores (i : Instr) (size : Nat) (rel : Bool) : Prop :=
        ea.toNat % size = 0 → s1.resolve c ea .write (!s.supAt x) = (s2, .ok r) →
          exec i s = .next (((s2.issued x (.store size (s.gAt x o.r)) ea size r rel).modCore c
            (fun k => k.updateLine r.place size (s.gAt x o.r))).after x id)
      stores (.st8 x o) 1 false ∧ stores (.st16 x o) 2 false ∧ stores (.st32 x o) 4 false ∧ stores (.st64 x o) 8 false ∧
      stores (.stRel x o) 8 true) ∧
  (∀ (x : Iss) (o : FmtAmo) (s s1 s2 : State) (r : Resolved), s.starts x none = some s1 → o.z = 0 →
      let c := x.core.toNat
      let ea := s.gAt x o.ra
      let size := if o.w32 then 4 else 8
      let amo (i : Instr) (op : BitVec 4) : Prop :=
        ea.toNat % size = 0 → s1.resolve c ea .both (!s.supAt x) = (s2, .ok r) →
          exec i s = .next ((s2.issued x (.amo o.rd op o.w32 (s.gAt x o.rb) (s.gAt x o.rd)) ea size r).after x
            (fun y => y.loading (s2.nextAcc x) o.rd none))
      amo (.amoAdd x o) 0 ∧ amo (.amoAnd x o) 1 ∧ amo (.amoOr x o) 2 ∧ amo (.amoXor x o) 3 ∧ amo (.amoSwap x o) 4 ∧
      amo (.amoMin x o) 5 ∧ amo (.amoMax x o) 6 ∧ amo (.amoMinu x o) 7 ∧ amo (.amoMaxu x o) 8 ∧ amo (.amoCas x o) 9)

/-- R91, R225, R226, R230: `LD.ACQ` drops every line of the data cache and `LD.ACQR` those of its block before the load
goes in flight; `WAITM` puts its first read in flight and the thread waits. It rests on the model's own choices of log
45. -/
def Obligations.AcquireAndWait : Prop :=
  ∀ (x : Iss) (s s1 s2 s3 : State) (r r' : Resolved),
    let c := x.core.toNat
    let acquires (i : Instr) (rd : BitVec 5) (ea : W64) (lines : Nat → Bool) : Prop :=
      ea.toNat % 8 = 0 → s1.resolve c ea .read (!s.supAt x) = (s2, .ok r') →
      (s2.modCore c (fun k => { k with mem := { k.mem with dcache := k.mem.dcache.filter (fun d => !lines d.ea) } })).resolve
        c ea .read (!s.supAt x) = (s3, .ok r) →
        exec i s = .next ((s3.issued x (.load rd 8 false false true) ea 8 r).after x
          (fun y => y.loading (s3.nextAcc x) rd none))
    (∀ o : FmtM, s.starts x (some (baseReg o.bn, false)) = some s1 →
      acquires (.ldAcq x o) o.r (s.gAt x (baseReg o.bn) + o.disp.signExtend 64) (fun _ => true)) ∧
    (∀ (o : FmtR) (func : BitVec 7), s.starts x none = some s1 → 6 ≤ func.toNat → func.toNat ≤ 47 →
      acquires (.ldAcqr x o func) o.rd (s.gAt x o.ra)
        (fun a => a / 2 ^ func.toNat == (s.gAt x o.rb).toNat / 2 ^ func.toNat)) ∧
    (∀ (o : FmtR) (func : BitVec 7), s.starts x none = some s1 → (s.gAt x o.ra).toNat % 8 = 0 →
      s1.resolve c (s.gAt x o.ra) .read (!s.supAt x) = (s2, .ok r) →
      exec (.waitm x o func) s = .next ((s2.issued x .waitm (s.gAt x o.ra) 8 r).modThread c x.thr
        (fun y => { y with wait := some (.waitm o.rd (s.gAt x o.rb) (s.gAt x o.rd) (s.gAt x o.ra) r.place false false none) })))

/-- R85, R99, R269: an access of an address that is not a multiple of its size raises `ALIGN` with the address; one that
does not resolve raises what its address or its page says, and in neither case does anything go in flight. -/
def Obligations.AccessTraps : Prop :=
  ∀ (x : Iss) (s s1 : State),
    let c := x.core.toNat
    let traps (i : Instr) (ea : W64) (size : Nat) (need : Need) : Prop :=
      (ea.toNat % size ≠ 0 → exec i s = .next (s1.enterExc c x.thr { code := 0x03, stval := ea })) ∧
      (∀ s2 e, ea.toNat % size = 0 → s1.resolve c ea need (!s.supAt x) = (s2, .error e) →
        exec i s = .next (s2.enterExc c x.thr e))
    (∀ o : FmtM, s.starts x (some (baseReg o.bn, false)) = some s1 →
      let ea := s.gAt x (baseReg o.bn) + o.disp.signExtend 64
      traps (.ld8 x o) ea 1 .read ∧ traps (.ld8u x o) ea 1 .read ∧ traps (.ld16 x o) ea 2 .read ∧
      traps (.ld16u x o) ea 2 .read ∧ traps (.ld32 x o) ea 4 .read ∧ traps (.ld32u x o) ea 4 .read ∧
      traps (.ld64 x o) ea 8 .read ∧ traps (.st8 x o) ea 1 .write ∧ traps (.st16 x o) ea 2 .write ∧
      traps (.st32 x o) ea 4 .write ∧ traps (.st64 x o) ea 8 .write ∧ traps (.ldAcq x o) ea 8 .read ∧
      traps (.stRel x o) ea 8 .write) ∧
    (∀ o : FmtAmo, s.starts x none = some s1 → o.z = 0 →
      let size := if o.w32 then 4 else 8
      ∀ i ∈ ([.amoAdd x o, .amoAnd x o, .amoOr x o, .amoXor x o, .amoSwap x o, .amoMin x o, .amoMax x o, .amoMinu x o,
        .amoMaxu x o, .amoCas x o] : List Instr), traps i (s.gAt x o.ra) size .both) ∧
    (∀ (o : FmtR) (func : BitVec 7), s.starts x none = some s1 →
      traps (.waitm x o func) (s.gAt x o.ra) 8 .read ∧
      (6 ≤ func.toNat → func.toNat ≤ 47 → traps (.ldAcqr x o func) (s.gAt x o.ra) 8 .read))

/-- R93, R216, R217: a load that may be performed at a home in service reads the bytes of its address, least significant
first, sign or zero extended; nothing but the access changes, and no byte of memory. R216, R229: a store that may be
performed at a home in service writes its bytes there, and the core's own line of them is brought up to date; an atomic reads its word and writes what its operation makes of
it, in one step, and the core's own lines of those bytes are dropped. R2, R216, R278: a write at a home in service
stores each byte at its address and no other, clears the poison of the units that it covers wholly, and leaves no unit
poisoned that was not. -/
def Obligations.HomeAccesses : Prop :=
  (∀ (s : State) (core : BitVec 10) (id pa : Nat) (a : Acc) (rd : BitVec 5) (size : Nat) (signed plain acq : Bool),
      (s.core core.toNat).acc? id = some a → a.kind = .load rd size signed plain acq → a.place = .here pa →
      s.mayPerform core.toNat a = true → s.homeUp pa = true → s.poisoned pa size = false →
      ∃ line, exec (.homeRead core id .good) s = .next (s.modCore core.toNat (fun k => k.setAcc { a with
        performed := true
        line := line
        val := if signed then (BitVec.ofNat (8 * size) (ofLE (Memory.readBytes s.mem pa size))).signExtend 64
          else BitVec.ofNat 64 (ofLE (Memory.readBytes s.mem pa size)) }))) ∧
  (∀ (s : State) (core : BitVec 10) (id pa : Nat) (a : Acc),
      let c := core.toNat
      (s.core c).acc? id = some a → a.place = .here pa → s.mayPerform c a = true → s.homeUp pa = true →
      (∀ size data, a.kind = .store size data → exec (.homeWrite core id .good) s =
        .next ((s.homeWrite pa (toLE size data.toNat)).modCore c
          (fun k => (k.updateLine a.place size data).setAcc { a with performed := true }))) ∧
      (∀ rd op w32 opnd exp, a.kind = .amo rd op w32 opnd exp →
        let n := if w32 then 4 else 8
        let old := ofLE (Memory.readBytes s.mem pa n)
        s.poisoned pa n = false →
        exec (.homeAtomic core id .good) s = .next ((s.homeWrite pa (toLE n (amoNew op w32 old opnd exp))).modCore c
          (fun k => (k.setAcc { a with performed := true, val := BitVec.ofNat 64 old }).invalidate (touches a.place n))))) ∧
  (∀ (s : State) (pa : Nat) (bs : List Byte), s.homeUp pa = true →
      let t := s.homeWrite pa bs
      (∀ a, Memory.read t.mem a = if h : pa ≤ a ∧ a < pa + bs.length then bs[a - pa]'(by omega) else Memory.read s.mem a) ∧
      (∀ u, u ∈ t.poison ↔ u ∈ s.poison ∧ ¬(pa ≤ u ∧ u + eccUnit u ≤ pa + bs.length)) ∧
      t.regs = s.regs ∧ t.parts = s.parts ∧ t.msgs = s.msgs ∧ t.hostOut = s.hostOut ∧ t.fabOut = s.fabOut)

/-- R91: what each atomic leaves in its word, at 64 bits and at 32. -/
def Obligations.AtomicResults : Prop :=
  ∀ (w : Nat) (old opnd exp : BitVec w), 0 < w →
    amoResult 0 w old opnd exp = old + opnd ∧ amoResult 1 w old opnd exp = old &&& opnd ∧
    amoResult 2 w old opnd exp = old ||| opnd ∧ amoResult 3 w old opnd exp = old ^^^ opnd ∧
    amoResult 4 w old opnd exp = opnd ∧
    (amoResult 5 w old opnd exp).toInt = Min.min old.toInt opnd.toInt ∧
    (amoResult 6 w old opnd exp).toInt = Max.max old.toInt opnd.toInt ∧
    (amoResult 7 w old opnd exp).toNat = Min.min old.toNat opnd.toNat ∧
    (amoResult 8 w old opnd exp).toNat = Max.max old.toNat opnd.toNat ∧
    amoResult 9 w old opnd exp = if old = exp then opnd else old

/-- R93, R173, R217, R223: an access is injected in a slot of its kind; the value of a performed load or atomic reaches
its register's load, and its line the data cache; a performed store leaves the scoreboard when it is acknowledged.
R91, R230: a `WAITM` ends with the value that a watched write left, with what a poll reads where that differs from the
compared value, or with the compared value once its limit has run out; its register shows it as a load's does. R233:
an error that answers a posted write of another device is kept for the thread's next `REMFENCE` (the first one stays),
the write is no longer outstanding, and pennant 31 of a present core is set. It rests on the model's own choices of
log 44. -/
def Obligations.AccessesComplete : Prop :=
  (∀ (s : State) (core : BitVec 10) (id : Nat) (a : Acc),
      let c := core.toNat
      (∀ slot pa, s.coreRuns c = true → s.unrouted = [] → s.atRest c → a.place = .here pa →
        s.accFor c ((s.core c).slot slot.toNat) = some a →
        exec (.niSlotInject core slot) s =
          .next (s.modCore c (fun k => (k.countSlot a.slotKind).setAcc { a with injected := true }))) ∧
      (s.coreRuns c = true → (s.core c).acc? id = some a → a.performed = true → a.err = none →
        (∀ size data, a.kind = .store size data →
          exec (.writeAcknowledgement core id) s = .next (s.modCore c (fun k => k.dropAcc a.id))) ∧
        ((∃ rd size signed plain acq, a.kind = .load rd size signed plain acq) ∨ (∃ rd op w32 opnd exp, a.kind = .amo rd op w32 opnd exp) →
          let t := s.modCore c (fun k => (k.dropAcc a.id).modThrAll a.thr (fun y => y.arrive a.id a.val))
          (a.line = none ∨ a.fill = false → exec (.loadArrival core id .good) s = .next t) ∧
          (∀ b l, a.line = some b → lineOf a.place = some l → a.fill = true →
            exec (.loadArrival core id .good) s = .next (t.modCore c (fun k => k.install t.free l a.ea.toNat b)))))) ∧
  (∀ (s : State) (core : BitVec 10) (thr : BitVec 2) (rd : BitVec 5) (cmp limit ea : W64) (pl : Place),
      let c := core.toNat
      let ends (z : State) (v : W64) : State :=
        (State.modCore { z with remReqs := z.remReqs.filter (fun q => q.org != .poll c thr) } c
          (fun k => { k with mem := { k.mem with nextId := k.mem.nextId + 1 } })).modThread c thr (fun y =>
            Thread.retire { y with wait := none, loads := y.loads ++ [⟨(s.core c).mem.nextId, y.n, rd, some v⟩] })
      let polled : State := match lineSlot ea pl false with | some i => s.modCore c (fun k => k.countSlot i) | none => s
      s.coreRuns c = true →
      (∀ done v, (s.thread c thr).wait = some (.waitm rd cmp limit ea pl done true (some v)) →
        exec (.waitmWatchTrigger core thr) s = .next (ends s v)) ∧
      (∀ w, (s.thread c thr).wait = some (.waitm rd cmp limit ea pl true w none) → limit ≠ 0 →
        exec (.waitmTimeout core thr) s = .next (ends s cmp)) ∧
      (∀ pa, pl = .here pa → (s.thread c thr).wait = some (.waitm rd cmp limit ea pl true false none) →
        s.slotFor c ea pl false = true → s.memRuns pa = true → s.homeUp pa = true → s.poisoned pa 8 = false →
        BitVec.ofNat 64 (ofLE (Memory.readBytes s.mem pa 8)) ≠ cmp →
        exec (.waitmPoll core thr .good) s = .next (ends polled (BitVec.ofNat 64 (ofLE (Memory.readBytes s.mem pa 8)))))) ∧
  (∀ (s : State) (core : BitVec 10) (id : Nat) (w : RemWrite),
      let c := core.toNat
      s.coreRuns c = true → (s.core c).mem.remOut.find? (fun w => w.id == id) = some w → (s.thread c w.thr).wait ≠ some .remfence →
      ∃ t, exec (.remoteWriteError core id) s = .next t ∧
        (t.thread c w.thr).remErr = some ((s.thread c w.thr).remErr.getD w.gfa) ∧
        (t.core c).mem.remOut = (s.core c).mem.remOut.filter (fun w => w.id != id) ∧
        (s.present c = true → (t.core c).penn.getLsbD 31 = true) ∧
        (t.thread c w.thr).pc = (s.thread c w.thr).pc ∧ t.mem = s.mem)

/-- R137, R138, R143, R146, R147: `VARITH`, `VRED` and `VSF` write their destination, take their draws, and set their
flags, from the registers as they were; the operation on each lane is the next statements'. It rests on the model's
own choices of log 37. -/
def Obligations.VectorResults : Prop :=
  ∀ (x : Iss),
    let c := x.core.toNat
    let seed := fun s : State => (s.thread c x.thr).srseed
    (∀ o : FmtVar, o.rm ≠ 3 →
      let ar := fun (op : VarOp) (s : State) => s.putVRes c x.thr o.vd (varithRes op o.int (Rm.of o.rm) (s.vx c).len
        ((s.vx c).get o.vd) ((s.vx c).get o.va) ((s.vx c).get (o.va + 1)) (seed s))
      DoesV (.varithAdd x o) x (ar .add) ∧ DoesV (.varithSub x o) x (ar .sub) ∧ DoesV (.varithMul x o) x (ar .mul) ∧
      DoesV (.varithMin x o) x (ar .min) ∧ DoesV (.varithMax x o) x (ar .max) ∧ DoesV (.varithAbs x o) x (ar .abs) ∧
      DoesV (.varithNeg x o) x (ar .neg) ∧
      (o.va.toNat % 2 = 0 → DoesV (.varithFma x o) x (ar .fma) ∧ (o.int = false → DoesV (.varithFms x o) x (ar .fms)))) ∧
    (∀ o : FmtVred, o.z = 0 →
      let red := fun (op : RedOp) (s : State) =>
        let r := vredRes op (Rm.of o.rm) o.half (s.vx c).len ((s.vx c).get o.vd) ((s.vx c).get o.va)
        s.putVRes c x.thr o.vd (r.1, seed s, r.2)
      (o.rm = 0 ∨ o.rm = 1 → DoesV (.vredSum x o) x (red .sum)) ∧
      (o.rm = 0 → DoesV (.vredMax x o) x (red .max) ∧ DoesV (.vredMin x o) x (red .min) ∧
        DoesV (.vredArgmax x o) x (red .argmax) ∧ DoesV (.vredIntSum x o) x (red .intSum) ∧
        DoesV (.vredIntMax x o) x (red .intMax) ∧ DoesV (.vredIntMin x o) x (red .intMin))) ∧
    (∀ o : FmtVV, o.z = 0 →
      let sf := fun (op : SfOp) (s : State) => s.putVRes c x.thr o.vd (vsfRes op (Rm.of o.rm) (s.vx c).len
        ((s.vx c).get o.vd) ((s.vx c).get o.va) (seed s))
      (o.rm ≠ 3 → DoesV (.vsfRcp x o) x (sf .rcp) ∧ DoesV (.vsfSqrt x o) x (sf .sqrt)) ∧
      (o.rm = 0 → DoesV (.vsfExp x o) x (sf .exp) ∧ DoesV (.vsfExp2 x o) x (sf .exp2) ∧ DoesV (.vsfLog x o) x (sf .log) ∧
        DoesV (.vsfLog2 x o) x (sf .log2) ∧ DoesV (.vsfRsqrt x o) x (sf .rsqrt) ∧ DoesV (.vsfTanh x o) x (sf .tanh) ∧
        DoesV (.vsfSigmoid x o) x (sf .sigmoid) ∧ DoesV (.vsfErf x o) x (sf .erf) ∧ DoesV (.vsfSin x o) x (sf .sin) ∧
        DoesV (.vsfCos x o) x (sf .cos)))

/-- R137, R143, R147: a lane-wise operation writes the lanes below `VL` and leaves the others; INT32 lanes hold the exact
result, held within the 32-bit range; FP32 lanes hold the operation's result with the draw of their number. Every
`VSF` function of NaN is the NaN 0x7FC00000. R144, R145: `VCMP` writes all ones or zero in each lane below `VL`,
`VBIT` its bitwise operation, and `VPERM` in every lane the lane of `va` that the old destination lane names. It rests
on the model's own choices of log 37. -/
def Obligations.VectorLanes : Prop :=
  ((∀ (op : VarOp) (int : Bool) (rm : Rm) (vl : Nat) (d a b : VReg) (seed : W32) (i : Nat), i < 64 →
      let r := varithRes op int rm vl d a b seed
      let draws := !int && op.rounds && rm == .sr
      lane r.1 i = (if i < vl then
          (if int then (varInt op (lane d i) (lane a i) (lane b i)).1
            else (varFp op rm (if draws then srAfter (i + 1) seed else seed) (lane d i) (lane a i) (lane b i)).1)
        else lane d i) ∧
      r.2.1 = (if draws then srAfter (Min.min vl 64) seed else seed)) ∧
    (∀ (d a b : W32),
      let sat (v : Int) : Int := Max.max (-2147483648) (Min.min 2147483647 v)
      (varInt .add d a b).1.toInt = sat (d.toInt + a.toInt) ∧ (varInt .sub d a b).1.toInt = sat (d.toInt - a.toInt) ∧
      (varInt .mul d a b).1.toInt = sat (d.toInt * a.toInt) ∧ (varInt .min d a b).1.toInt = Min.min d.toInt a.toInt ∧
      (varInt .max d a b).1.toInt = Max.max d.toInt a.toInt ∧ (varInt .fma d a b).1.toInt = sat (d.toInt + a.toInt * b.toInt) ∧
      (varInt .abs d a b).1.toInt = sat a.toInt.natAbs ∧ (varInt .neg d a b).1.toInt = sat (-a.toInt)) ∧
    (∀ (op : SfOp) (rm : Rm) (r v : W32), f32 v = .nan → sfLane op rm r v = (0x7FC00000, 0))) ∧
  (∀ (x : Iss),
      let c := x.core.toNat
      -- a register whose lanes are given, those from `n` on as before
      let sets (i : Instr) (vd : BitVec 5) (n : State → Nat) (f : State → Nat → W32) : Prop :=
        ∀ s s1, s.starts x none = some s1 → (s.core c).vectorBound x.thr = true →
          ∃ v, exec i s = .next (((s1.setV c vd v).vecDone c).after x id) ∧
            ∀ j < 64, lane v j = if j < n s then f s j else lane ((s.vx c).get vd) j
      let vl := fun s : State => (s.vx c).len
      (∀ o : FmtVV, o.rm = 0 → o.z = 0 →
        let d := fun (s : State) (j : Nat) => lane ((s.vx c).get o.vd) j
        let a := fun (s : State) (j : Nat) => lane ((s.vx c).get o.va) j
        let m := fun (s : State) (j : Nat) => lane ((s.vx c).get (o.va + 1)) j
        sets (.vbitAnd x o) o.vd vl (fun s j => d s j &&& a s j) ∧
        sets (.vbitOr x o) o.vd vl (fun s j => d s j ||| a s j) ∧
        sets (.vbitXor x o) o.vd vl (fun s j => d s j ^^^ a s j) ∧
        sets (.vbitAndn x o) o.vd vl (fun s j => d s j &&& ~~~(a s j)) ∧
        sets (.vbitSll x o) o.vd vl (fun s j => d s j <<< ((a s j).toNat % 32)) ∧
        sets (.vbitSrl x o) o.vd vl (fun s j => d s j >>> ((a s j).toNat % 32)) ∧
        sets (.vbitSra x o) o.vd vl (fun s j => (d s j).sshiftRight ((a s j).toNat % 32)) ∧
        (o.va.toNat % 2 = 0 → sets (.vbitSel x o) o.vd vl (fun s j => (d s j &&& ~~~(m s j)) ||| (a s j &&& m s j))) ∧
        sets (.vbitMov x o) o.vd vl a) ∧
      (∀ o : FmtVcmp, o.rm = 0 → o.z = 0 → o.cond ≠ 7 →
        sets (.vcmp x o) o.vd vl (fun s j =>
          let d := lane ((s.vx c).get o.vd) j
          let a := lane ((s.vx c).get o.va) j
          if (if o.int then cmpInt o.cond.toNat d.toInt a.toInt else cmpFp o.cond.toNat (f32 d) (f32 a)) then 0xFFFFFFFF
          else 0)) ∧
      (∀ o : FmtVperm, o.rm = 0 → o.z = 0 →
        sets (.vperm x o) o.vd (fun _ => 64) (fun s j =>
          lane ((s.vx c).get o.va) ((lane ((s.vx c).get o.vd) j).toNat % 64))))

/-- R137, R141, R142, R148, R151: conversions, moves between the engines and general registers, `VSETVL`, and the
finished-tile queue: an empty queue makes `READ` and `POP` wait. It rests on the model's own choices of log 53. -/
def Obligations.VectorMoves : Prop :=
  ∀ (x : Iss),
    let c := x.core.toNat
    (∀ o : FmtVcvt, o.ty.toNat < 11 →
      let n := fun s : State => Min.min (s.vx c).len (tyCap o.ty.toNat)
      (cvtLegal o true = true → DoesV (.vcvtNarrow x o) x (fun s =>
        let r := narrowLoop o.ty.toNat o.xf (Rm.of o.rm) (n s)
          (fun e => lane ((s.vx c).get (o.va + BitVec.ofNat 5 (e / 64))) (e % 64)) (List.range (n s))
          ⟨(s.vx c).get o.vd, (s.vx c).get (o.vd + 1), (s.thread c x.thr).srseed, 0⟩
        (if cvtScaled o.ty.toNat o.xf then s.setV c (o.vd + 1) r.sc else s).putVRes c x.thr o.vd
          (zeroPad o.ty.toNat (n s) r.dst, r.seed, r.fl))) ∧
      (cvtLegal o false = true → DoesV (.vcvtWiden x o) x (fun s =>
        let r := widenLoop o.ty.toNat o.xf (Rm.of o.rm) ((s.vx c).get o.va) ((s.vx c).get (o.va + 1)) (List.range (n s))
          ((List.range (cvtGroup o.ty.toNat)).map (fun i => (s.vx c).get (o.vd + BitVec.ofNat 5 i)),
            (s.thread c x.thr).srseed, 0)
        (s.putGroup c o.vd r.1).modThread c x.thr (fun y => { y.addFlags r.2.2 with srseed := r.2.1 })))) ∧
    (∀ (o : FmtVmovt) (s s1 : State), s.starts x none = some s1 → (s.core c).vectorBound x.thr = true →
      (s.core c).matrixBound x.thr = true →
      (vmovtLegal o false = true → exec (.vmovtToMatrix x o) s = .next (((s1.modCore c (fun k =>
        { k with mx := k.mx.putGroup o (k.vx.get o.vr) })).vecDone c).after x id)) ∧
      (vmovtLegal o true = true → exec (.vmovtToVector x o) s = .next (((s1.setV c o.vr
        ((s1.core c).mx.getGroup o)).vecDone c).after x id))) ∧
    (∀ o : FmtVsetvl, o.rm = 0 → o.z = 0 → o.ty.toNat < 11 →
      DoesV (.vsetvl x o) x (fun s =>
        let n := BitVec.ofNat 64 (Min.min ((s.thread c x.thr).getG o.ga).toNat (tyCap o.ty.toNat))
        (s.modCore c (fun k => { k with vx := { k.vx with vl := n } })).modThread c x.thr (fun y => y.setG o.gd n))) ∧
    (∀ o : FmtVmovg, o.rm = 0 → o.z = 0 →
      let get := fun (s : State) (j : Nat) => s.modThread c x.thr (fun y =>
        y.setG o.g ((lane ((s.vx c).get o.v) j).setWidth 64))
      DoesV (.vmovgGet0 x o) x (fun s => get s 0) ∧
      DoesV (.vmovgGet x o) x (fun s => get s (((s.thread c x.thr).getG o.g).toNat % 64)) ∧
      (∀ s s1, s.starts x none = some s1 → (s.core c).vectorBound x.thr = true →
        ∃ v, exec (.vmovgBcast x o) s = .next (((s1.setV c o.v v).vecDone c).after x id) ∧
          ∀ j < 64, lane v j = (s.gAt x o.g).setWidth 32)) ∧
    (∀ (o : FmtVftq) (s s1 : State), s.starts x none = some s1 → (s.core c).vectorBound x.thr = true → o.rm = 0 → o.z = 0 →
      (∀ e rest, (s.core c).mx.ftq = e :: rest →
        exec (.vftqRead x o) s = .next (((s1.setV c o.r (BitVec.ofNat 2048 (e.bytes.toNat >>> (2048 * o.g.toNat)))).after x
          (fun y => { y with wait := none })).vecDone c) ∧
        (o.r = 0 → o.g = 0 → exec (.vftqPop x o) s = .next ((((s1.modCore c (fun k =>
          { k with mx := { k.mx with ftq := rest, ftOut := k.mx.ftOut + 1 } })).setPenn c 21).after x
            (fun y => { y with wait := none })).vecDone c))) ∧
      ((s.core c).mx.ftq = [] →
        exec (.vftqRead x o) s = .next (s1.modThread c x.thr (fun y => { y with wait := some (.vftqRead o.r o.g none) })) ∧
        (o.r = 0 → o.g = 0 → exec (.vftqPop x o) s =
          .next (s1.modThread c x.thr (fun y => { y with wait := some .vftqPop })))) ∧
      (o.g = 0 → exec (.vftqStat x o) s = .next (((s1.modThread c x.thr (fun y => y.setG o.r
        (ftqStat (s.core c).mx.ftq))).vecDone c).after x id)))

/-- R85, R123, R140: `VLD` fills its register with four rows of 64 bytes that resolve and are readable, and `VST` writes
its register to four that are writable. R83, R136, R148: a vector instruction of a thread not bound to the engine
raises `ACCESS` with 57; a reserved element type raises `TILE_FMT` with the instruction word. -/
def Obligations.VectorMemory : Prop :=
  (∀ (x : Iss) (o : FmtCM) (s s1 s2 : State), s.starts x (some (baseReg o.bn, true)) = some s1 →
      let c := x.core.toNat
      (s.core c).vectorBound x.thr = true →
      let rows := rowLines (s.gAt x (baseReg o.bn) + o.disp.signExtend 64 * 64) (s.gAt x (BitVec.ofNat 5 (16 + o.bn.toNat))) 4 1
      (∀ bs, s1.bytesOf x 64 rows = some (s2, bs) →
        exec (.vld x o) s = .next (((s2.setV c o.vr (BitVec.ofNat 2048 (ofLE bs))).vecDone c).after x id)) ∧
      (∀ ls, s1.placesOf x rows = some (s2, ls) →
        exec (.vst x o) s = .next (((s2.writeLines c x.thr ls
          (cutLines ((s2.vx c).get o.vr).toNat 4)).vecDone c).after x id))) ∧
  (∀ (x : Iss) (s s1 : State), s.starts x none = some s1 →
      let c := x.core.toNat
      ((s.core c).vectorBound x.thr = false →
        let access := s1.enterExc c x.thr { code := 0x0E, stval := 57 }
        (∀ o : FmtVV, o.rm = 0 → o.z = 0 → exec (.vbitMov x o) s = .next access ∧ exec (.vsfExp x o) s = .next access) ∧
        (∀ o : FmtVar, o.rm = 0 → exec (.varithAdd x o) s = .next access) ∧
        (∀ o : FmtVmovg, o.rm = 0 → o.z = 0 → exec (.vmovgGet x o) s = .next access)) ∧
      ((s.core c).vectorBound x.thr = true →
        (∀ o : FmtVcvt, 11 ≤ o.ty.toNat →
          (cvtLegal o true = true → exec (.vcvtNarrow x o) s =
            .next (s1.enterExc c x.thr { code := 0x06, stval := BitVec.ofNat 64 (encVcvt 57 4 0 x o) })) ∧
          (cvtLegal o false = true → exec (.vcvtWiden x o) s =
            .next (s1.enterExc c x.thr { code := 0x06, stval := BitVec.ofNat 64 (encVcvt 57 4 1 x o) }))) ∧
        (∀ o : FmtVsetvl, o.rm = 0 → o.z = 0 → 11 ≤ o.ty.toNat → exec (.vsetvl x o) s =
          .next (s1.enterExc c x.thr { code := 0x06, stval := BitVec.ofNat 64 (encVsetvl 57 10 x o) }))))

/-- R108, R110, R111, R114, R117, R118, R120: on an idle engine of the thread's, a `TMMA` whose checks pass enters the
queue with its configurations and its run of the generator, marks its accumulator, and takes its draws; `TFIN` enters
and frees its accumulator for what follows; `TZERO` and `TFREE` act at once, and pennant 16 says that the engine has
retired everything. R83, R99, R112, R128, R129: what stops a matrix instruction: `ACCESS` with 56 for a thread that is not bound;
for `TMMA`, `TILE_FMT` for a reserved format, and `TILE_SHAPE` with the sub-code, the unit and the operand in
`TFAULT`, in this order: the operand pair, `ROWS`, `RBYTES` and K, the scale setting, the accumulator's type. It rests
on the model's own choices of log 12. -/
def Obligations.MatrixIssue : Prop :=
  (∀ (x : Iss) (s s1 : State), s.starts x none = some s1 →
      let c := x.core.toNat
      (s.core c).matrixBound x.thr = true →
      let m := (s.core c).mx
      (∀ o : FmtTmma, o.rm ≠ 3 → o.z = 0 →
        let a := m.tcfgOf o.ta
        let b := m.tcfgOf o.tb
        srcRowFault a = none → srcRowFault b = none → cfgFmt a < 9 → cfgFmt b < 9 →
        tmmaShape m o.acc o.ta o.tb o.zf = none →
        let seed := (s.thread c x.thr).srseed
        exec (.tmma x o) s = .next (((((s1.addCollect c x.thr a).addCollect c x.thr b).enqueue c x.thr
          (.tmma o.rm o.acc o.ta o.tb o.zf a b seed none)
          (fun m => m.markAcc o.acc.toNat (pairInt (cfgFmt a)))).after x
            (fun y => { y with srseed := srAfter (tmmaDraws a b (Rm.of o.rm)) seed })))) ∧
      (∀ o : FmtTfin, o.rm = 0 → o.z = 0 →
        exec (.tfin x o) s = .next (((s1.enqueue c x.thr (.tfin o.acc o.tag false)
          (fun m => m.unmarkAcc o.acc.toNat)).armTfin c).after x id)) ∧
      (∀ o : FmtTzero, o.rm = 0 → o.z = 0 → (s.core c).matrixBusy = false →
        exec (.tzero x o) s = .next (((s1.modCore c (fun k => { k with
          mx := (k.mx.zeroMasks 0 o.accs).markAccs o.accs o.types })).setPenn c 16).after x id)) ∧
      (∀ o : FmtTfree, o.rm = 0 → o.z = 0 → (s.core c).matrixBusy = false →
        exec (.tfree x o) s = .next (((s1.modCore c (fun k => { k with
          mx := (k.mx.zeroMasks o.tiles o.accs).unmarkMasks o.tiles o.accs })).setPenn c 16).after x id))) ∧
  (∀ (x : Iss) (s s1 : State), s.starts x none = some s1 →
      let c := x.core.toNat
      let m := (s.core c).mx
      (∀ o : FmtTmma, o.rm ≠ 3 → o.z = 0 →
        ((s.core c).matrixBound x.thr = false →
          exec (.tmma x o) s = .next (s1.enterExc c x.thr { code := 0x0E, stval := 56 })) ∧
        ((s.core c).matrixBound x.thr = true → srcRowFault (m.tcfgOf o.ta) = none → srcRowFault (m.tcfgOf o.tb) = none →
          (9 ≤ cfgFmt (m.tcfgOf o.ta) ∨ 9 ≤ cfgFmt (m.tcfgOf o.tb) →
            exec (.tmma x o) s = .next (s1.enterExc c x.thr { code := 0x06, stval := BitVec.ofNat 64 (encTmma 56 2 x o) })) ∧
          (cfgFmt (m.tcfgOf o.ta) < 9 → cfgFmt (m.tcfgOf o.tb) < 9 →
            ∀ sub unit opndB, tmmaShape m o.acc o.ta o.tb o.zf = some (sub, unit, opndB) →
              exec (.tmma x o) s = .next ((s1.modCore c (fun k => { k with mx := { k.mx with
                tfault := BitVec.ofNat 64 (sub % 8 + unit % 8 * 16 + opndB.toNat * 128 + 2 * 256) } })).enterExc c x.thr
                  { code := 0x05, stval := 0 })))) ∧
      (∀ o : FmtTfin, o.rm = 0 → o.z = 0 → (s.core c).matrixBound x.thr = false →
        exec (.tfin x o) s = .next (s1.enterExc c x.thr { code := 0x0E, stval := 56 })))

/-- R110, R111, R121, R126: with their lines readable or writable, `TSLD`, `TSST`, `TALD` and `TAST` move a scale register
or an accumulator and mark it; `TLD` and `TST` of valid rows, the first of which resolves, take an entry of the
scoreboard for all of them, and make the thread move rows, from the one that `TROW` names. R126: a row of a waiting
`TLD` or `TST` whose line may move now is loaded into the tile, which is then in use, or stored from it; `TROW` then
names the next row, and the last one ends the instruction with `TROW` 0. -/
def Obligations.MatrixMemory : Prop :=
  (∀ (x : Iss) (o : FmtCM) (s s1 s2 : State), s.starts x (some (baseReg o.bn, true)) = some s1 →
      let c := x.core.toNat
      (s.core c).matrixBound x.thr = true →
      let base := s.gAt x (baseReg o.bn) + o.disp.signExtend 64 * 64
      let stride := s.gAt x (BitVec.ofNat 5 (16 + o.bn.toNat))
      let tile : BitVec 3 := o.vr.setWidth 3
      let acc : BitVec 2 := o.vr.setWidth 2
      let tcfg := (s.core c).mx.tcfgOf tile
      let mx (f : Matrix → Matrix) : State := s2.modCore c (fun k => { k with mx := f k.mx })
      (o.vr.toNat < 8 → (s.core c).matrixBusy = false → ∀ bs, s1.bytesOf x 64 (rowLines base stride 8 1) = some (s2, bs) →
        exec (.tsld x o) s = .next (((mx (fun m =>
          (m.setScales tile (BitVec.ofNat 4096 (ofLE bs))).markTile tile.toNat)).setPenn c 16).after x id)) ∧
      (o.vr.toNat < 8 → (s.core c).matrixBusy = false → ∀ bs, s1.bytesOf x 64 (rowLines base stride 32 2) = some (s2, bs) →
        exec (.tald x o) s = .next (((mx (fun m => (m.setAcc acc (BitVec.ofNat 32768 (ofLE bs))).markAcc acc.toNat
          (o.vr.getLsbD 2))).setPenn c 16).after x id)) ∧
      (o.vr.toNat < 8 → ∀ ls, s1.placesOf x (rowLines base stride 8 1) = some (s2, ls) →
        exec (.tsst x o) s = .next ((((s2.writeLines c x.thr ls (cutLines ((s2.core c).mx.scales tile).toNat 8)).modCore c
          (fun k => { k with mx := k.mx.markTile tile.toNat })).afterMatrix c).after x id)) ∧
      (o.vr.toNat < 4 → ∀ ls, s1.placesOf x (rowLines base stride 32 2) = some (s2, ls) →
        exec (.tast x o) s = .next (((s2.writeLines c x.thr ls (cutLines ((s2.core c).mx.acc acc).toNat 64)).afterMatrix
          c).after x id)) ∧
      (o.vr.toNat < 8 → rowsOk tcfg = true → fld (s.core c).mx.trow 0 5 < cfgRows tcfg → ∀ store ls,
        let rows := rowLines base stride (cfgRows tcfg) 1
        s1.resolveLines c (if store then .write else .read) (!s.supAt x) 64
          ((rows.drop (fld (s.core c).mx.trow 0 5)).take 1) = (s2, .ok ls) →
        exec (if store then .tst x o else .tld x o) s =
          .next ((s2.modCore c (fun k => k.addLines c x.thr rows 64 store)).modThread c x.thr (fun y =>
            { y with wait := some (.rows (s2.nextAcc x) store tile base stride) })))) ∧
  (∀ (s s2 s3 : State) (core : BitVec 10) (t : BitVec 2) (id : Nat) (store : Bool) (tile : BitVec 3) (base stride ea : W64)
      (dest : Resolved),
      let c := core.toNat
      let r := fld (s.core c).mx.trow 0 5
      let row := base + BitVec.ofNat 64 r * stride
      (s.thread c t).wait = some (.rows id store tile base stride) → s.coreRuns c = true → s.eventDue c t = false →
      s.resolveLines c (if store then .write else .read) (!(s.thread c t).sup) 64 [⟨row, row⟩] = (s2, .ok [(ea, dest)]) →
      s2.orderLines c t id [(ea, dest)] store 64 = .ok s3 →
      let counted := s3.countLines c [(ea, dest)] store
      (∀ pa, store = false → dest.place = .here pa → s3.poisoned pa 64 = false → s3.homeUp pa = true →
        exec (.tileRowTransfer core t .good) s = .next ((counted.modCore c (fun k =>
          { k with mx := (k.mx.setTile tile (setFld (k.mx.tile tile) (512 * r) 512
            (ofLE (Memory.readBytes s3.mem pa 64)))).markTile tile.toNat })).rowDone c t id false tile r base stride)) ∧
      (store = true → (∀ pa, dest.place = .here pa → s3.homeUp pa = true) →
        exec (.tileRowTransfer core t .good) s = .next ((counted.writeLines c t [(ea, dest)]
          [toLE 64 (fld ((s3.core c).mx.tile tile) (512 * r) 512)]).rowDone c t id true tile r base stride)))

/-- R119, R120, R131, R150: the head `TMMA` copies its operands; once it has them and nothing earlier may fail it adds its
products to its accumulator, counts, sets its flags and leaves the queue; a `TFIN` whose accumulator nothing writes
makes an entry of the finished-tile queue of it, frees it, and sets pennant 18. It rests on the model's own choices of
log 51. -/
def Obligations.MatrixEvents : Prop :=
  ∀ (s : State) (core : BitVec 10) (q : MOp) (rest : List MOp),
    let c := core.toNat
    let k := s.core c
    k.mx.queue = q :: rest → s.coreRuns c = true →
    (∀ rm acc ta tb zf a b seed, q.kind = .tmma rm acc ta tb zf a b seed none → cfgSrc a = false → cfgSrc b = false →
      k.mx.buffers < 2 → s.collectHeld c q = false →
      let buf : Collected := ⟨k.mx.tile ta, k.mx.tile tb, k.mx.scales ta, k.mx.scales tb⟩
      exec (.tmmaCollect core .good) s = .next (s.modCore c (fun k => { k with
        mx := { k.mx with queue := { q with kind := .tmma rm acc ta tb zf a b seed (some buf) } :: rest }
        mem := { k.mem with
          accs := k.mem.accs.filter (fun a => !(a.kind == .collect && a.thr == q.thr && a.n == q.n)) } }))) ∧
    (∀ rm acc ta tb zf a b seed buf, q.kind = .tmma rm acc ta tb zf a b seed (some buf) →
      k.unsettled q.thr q.n = false →
      let res := tmmaResult a b buf (Rm.of rm) zf seed (k.mx.acc acc)
      exec (.tmmaFinish core false) s = .next ((s.modCore c (fun k =>
        { k with
          mx := { k.mx.setAcc acc res.1 with queue := rest }
          cnt := { k.cnt with
            pcTmma := k.cnt.pcTmma + 1
            pcArray := k.cnt.pcArray + BitVec.ofNat 64 (arrayCycles a) } }.modThrAll q.thr
              (fun y => y.addFlags res.2))).afterMatrix c |>.ftqServeAll c)) ∧
    (∀ rm acc ta tb zf a b seed buf, q.kind = .tmma rm acc ta tb zf a b seed (some buf) →
      (∀ z ∈ k.mem.accs, ¬(z.thr = q.thr ∧ z.n < q.n)) →
      k.vx.queue = [] → k.vx.done = [] → (k.discard q.thr q.n q.snap).mx.queue = [] → q.snap.stat.getLsbD 4 = false →
      ∃ t, exec (.checksumFail core) s = .next t ∧ (t.thread c q.thr).scause = 0x09 ∧
        (t.thread c q.thr).stval = acc.setWidth 64 ∧ (t.thread c q.thr).sepc = q.snap.pc ∧
        (t.core c).mx.a = k.mx.a ∧ (t.core c).penn.getLsbD 31 = true ∧
        (t.core c).cnt.pcReissue = k.cnt.pcReissue + 1 ∧ t.mem = s.mem) ∧
    (∀ acc tag, q.kind = .tfin acc tag false → rest = [] → k.vx.queue = [] → k.vx.done = [] → k.mx.ftq.length < 4 → k.unsettled q.thr q.n = false →
      (∀ t, (s.thread c t).inMatrix = false ∧ (s.thread c t).wait ≠ some .vftqPop ∧
        ∀ r g e, (s.thread c t).wait ≠ some (.vftqRead r g e)) →
      ∃ t, exec (.tfinCopyDone core) s = .next t ∧ (t.core c).mx.queue = [] ∧ (t.core c).mx.acc acc = 0 ∧
        (t.core c).mx.ftq = k.mx.ftq ++ [⟨k.mx.acc acc, tag, q.tiu.getLsbD (12 + acc.toNat), acc⟩] ∧
        (t.core c).mx.ftIn = k.mx.ftIn + 1 ∧ (t.core c).penn.getLsbD 18 = true ∧ (t.core c).penn.getLsbD 16 = true ∧
        t.mem = s.mem ∧ t.regs = s.regs)

/-- R115, R116, R117: element (i, j) of the result lies at row i, word j of the accumulator. With integer operands it is
the old element, or zero with `Z`, plus the products of row i of A and row j of B, held within 32 bits; with others,
the exact sum rounded once, with the draw of its number in row-major order under stochastic rounding. The words
outside `ROWS` of A by `ROWS` of B keep their contents. -/
def Obligations.TmmaElements : Prop :=
  ∀ (a b : W64) (buf : Collected) (rm : Rm) (zf : Bool) (seed : W32) (old : BitVec 32768) (i j : Nat),
    let n := cfgRows b
    let res := (tmmaResult a b buf rm zf seed old).1
    let word (v : BitVec 32768) : Nat := fld v (1024 * i + 32 * j) 32
    cfgRows a ≤ 32 → n ≤ 32 → i < 32 → j < 32 →
    (word res = if i < cfgRows a ∧ j < n then
        (tmmaElem a b buf rm (if rm = .sr ∧ pairInt (cfgFmt a) = false then srAfter (n * i + j + 1) seed else seed) zf
          (word old) i j).1
      else word old) ∧
    (∀ r w, pairInt (cfgFmt a) = true →
      let e (rows : BitVec 16384) (r k : Nat) : Int :=
        intOf (tyWidth (cfgFmt a)) (fld rows (512 * r + tyWidth (cfgFmt a) * k) (tyWidth (cfgFmt a)))
      tmmaElem a b buf rm r zf w i j = intSat 32 ((if zf then 0 else intOf 32 w) +
        ((List.range (cfgK a)).map (fun k => e buf.rowsA i k * e buf.rowsB j k)).sum))

/-- R103, R104, R105: `CTXSV` by a supervisor of a stopped thread other than its own writes that thread's context, with
the engines bound to it, to an aligned area that resolves and is writable. `CTXLD` reads one, and it takes effect: the
matrix part is first read for the `TIU` that gives its size, and the record of the finished-tile queue is not read
(R152); all its reads are made under one entry of the scoreboard (R217). A target that is the issuing thread or not stopped raises
`ACCESS`, and a base that is not a multiple of 64 `ALIGN`. R104: a thread with an aligned `PC` that is saved and
loaded again has the registers that it had; a loaded context leaves no load in flight and clears `HALTED`. It rests on
the model's own choices of logs 55, 128, 133. -/
def Obligations.Contexts : Prop :=
  (∀ (x : Iss) (o : FmtS) (s s1 s2 : State), s.starts x none = some s1 → s.supAt x = true →
      let c := x.core.toNat
      let target : BitVec 2 := o.imm.setWidth 2
      let base := s.gAt x o.ra
      let stopped := target ≠ x.thr ∧ (s.ctl c target).stopped = true
      let ms := (s.core c).matrixBound target
      let vs := (s.core c).vectorBound target
      let sound (a b : State) (need : Need) (nos : List Nat) : Prop :=
        a.areaExc c need false 64 base none (ctxLines base nos) = (b, none)
      let first (need : Need) : Prop := sound s1 s2 need (List.range 8)
      (base.toNat % 64 ≠ 0 → exec (.ctxsv x o) s = .next (s1.enterExc c x.thr { code := 0x03, stval := base }) ∧
        exec (.ctxld x o) s = .next (s1.enterExc c x.thr { code := 0x03, stval := base })) ∧
      (base.toNat % 64 = 0 → ¬stopped →
        (first .write → exec (.ctxsv x o) s = .next (s2.enterExc c x.thr { code := 0x0E, stval := base })) ∧
        (first .read → exec (.ctxld x o) s = .next (s2.enterExc c x.thr { code := 0x0E, stval := base }))) ∧
      (base.toNat % 64 = 0 → stopped → first .write →
        let nos := ctxLineNos ms vs (s.core c).mx.tiu.toNat
        ∀ s3 s4 ls, sound s2 s3 .write nos → s3.placesOf x (ctxLines base nos) = some (s4, ls) →
        exec (.ctxsv x o) s = .next ((s4.writeLines c x.thr ls (ctxScalar (s4.thread c target) ms vs ++
          (if ms then ctxMatrix (s4.core c).mx else []) ++ (if vs then ctxVector (s4.core c) else []) ++
          (if ms then ctxTiles (s4.core c).mx else []))).after x id)) ∧
      (base.toNat % 64 = 0 → stopped → first .read →
        let no := s2.nextAcc x
        let held := s2.modCore c (fun k => k.addLines c x.thr (ctxLines base (List.range 716)) 64 false)
        ∀ s3 head, held.bytesHeld x no 64 (ctxLines base (List.range 8)) = some (s3, head) →
          let lm := (wordAt head 0).getLsbD 8
          let lv := (wordAt head 0).getLsbD 9
          let loads (s4 : State) (tiu : Nat) : Prop := ∀ s5 s6 bs,
            sound s4 s5 .read (ctxLineNos lm lv tiu) →
            s5.bytesHeld x no 64 (ctxLines base ((ctxLineNos lm lv tiu).filter (· != 11))) = some (s6, bs) →
            exec (.ctxld x o) s = .next (((s6.ctxPut c target lm lv bs).ends x no).after x id)
          ((lm = true ∧ ms = false) ∨ (lv = true ∧ vs = false) →
            exec (.ctxld x o) s = .next ((s3.ends x no).enterExc c x.thr { code := 0x0E, stval := base })) ∧
          ((lv = true → vs = true) →
            (lm = false → loads s3 0) ∧
            (lm = true → ms = true → ∀ s4 ctl, s3.bytesHeld x no 64 (ctxLines base [8, 9]) = some (s4, ctl) →
              loads s4 (fld (wordAt ctl 8) 0 12))))) ∧
  (∀ (y z : Thread) (ms vs : Bool), y.pc.toNat % 4 = 0 →
      let w := z.ofContext (ctxScalar y ms vs).flatten
      (∀ r, w.getG r = y.getG r) ∧ (∀ r, w.getP r = y.getP r) ∧ w.pc = y.pc ∧ w.sepc = y.sepc ∧
      w.scause = y.scause &&& 0x1FF ∧ w.stval = y.stval ∧ w.svec = y.svec ∧ w.sscr = y.sscr ∧ w.barPend = y.barPend ∧ w.barPar = y.barPar ∧
      w.stat = y.stat &&& 0x7001F ∧ w.rptcnt = y.rptcnt &&& 0x1FFFFFFFFFFF ∧ w.imask = y.imask &&& 0xFFFF ∧
      w.pmask = y.pmask &&& 0xFFFFFFFF ∧ w.swlim = y.swlim &&& 0xFFFFFFFF ∧ w.loads = [] ∧
      (y.srseed ≠ 0 → w.srseed = y.srseed)) ∧
  (∀ (s : State) (c : Nat) (target : BitVec 2) (lm lv : Bool) (bs : List Byte),
      (s.ctxPut c target lm lv bs).ctl c target = { s.ctl c target with halted := false })

/-- R159, R160, R161, R179: `SDESC POST` of no descriptor goes on; on a channel that is not executing and that no earlier
`SDESC` waits for, it checks a readable list of 1 to 16 descriptors inside one address space and starts the channel, or
raises `ALIGN` or `ACCESS` for the list, or `ACCESS` at the first descriptor that fails; on one that is executing it
waits, with its place in the order of issue and its entry of the scoreboard (R217). `RESUME` waits so too, and runs a stopped channel and a faulted one whose
fault allows it. `SSTOP` stops a running channel at its next descriptor, and `SSTAT` reads the word that it names. It
rests on the model's own choices of logs 99, 100, 134. -/
def Obligations.StreamInstructions : Prop :=
  ∀ (x : Iss) (s s1 : State), s.starts x none = some s1 →
    let c := x.core.toNat
    let numbered := s1.modCore c (fun k => { k with mem := { k.mem with nextId := k.mem.nextId + 1 } })
    (∀ o : FmtSdesc, o.rm = 0 → o.z = 0 →
      let list := s.gAt x o.ra
      let n := (s.gAt x o.rb).toNat
      let h := s.chan c o.ch
      let no := s.nextAcc x
      let held := s1.modCore c (fun k => k.addLines c x.thr (listLines list (Min.min n 16)) 32 false)
      let waits (z : State) (list n : W64) (resume : Bool) : State := z.modThread c x.thr (fun y =>
        { y with wait := some (.sdesc no o.ch list n resume) })
      let turn : Prop := ∀ t, (s.thread c t).ahead o.ch no = false
      (n = 0 → exec (.sdescPost x o) s = .next (s1.after x id)) ∧
      (n ≠ 0 → h.active = true → exec (.sdescPost x o) s = .next (waits held list (s.gAt x o.rb) false)) ∧
      (n ≠ 0 → h.active = false → turn →
        (list.toNat % 32 ≠ 0 →
          exec (.sdescPost x o) s = .next ((held.ends x no).enterExc c x.thr { code := 0x03, stval := list })) ∧
        (list.toNat % 32 = 0 → ∀ s2,
          held.areaExc c .read (!s.supAt x) 32 list none (listLines list (Min.min n 16)) = (s2, none) →
          (16 < n ∨ s.spanOk list.toNat (32 * n) = false →
            exec (.sdescPost x o) s = .next ((s2.ends x no).enterExc c x.thr { code := 0x0E, stval := list })) ∧
          (n ≤ 16 → s.spanOk list.toNat (32 * n) = true → ∀ s3 bs, s2.bytesHeld x no 32 (listLines list n) = some (s3, bs) →
            let ds := (List.range n).map (fun i => BitVec.ofNat 256 (ofLE ((bs.drop (32 * i)).take 32)))
            ((∀ d ∈ ds, s.descOk d = true) → exec (.sdescPost x o) s =
              .next (((s3.chanStart c o.ch list ds (!s.supAt x) no).ends x no).after x id)) ∧
            (∀ i, ds.findIdx? (fun d => !s.descOk d) = some i → exec (.sdescPost x o) s =
              .next ((s3.ends x no).enterExc c x.thr { code := 0x0E, stval := list + BitVec.ofNat 64 (32 * i) }))))) ∧
      (o.ra = 0 → o.rb = 0 →
        (h.active = true → exec (.sdescResume x o) s = .next (waits numbered 0 0 true)) ∧
        (turn →
          let runs := numbered.setChan c o.ch { h with state := .running, since := no }
          (h.state = .stopped ∨ (h.state = .faulted ∧ h.fnr = false) →
            exec (.sdescResume x o) s = .next (runs.after x id)) ∧
          (h.state = .idle → exec (.sdescResume x o) s = .next (numbered.after x id)) ∧
          (h.state = .faulted → h.fnr = true →
            exec (.sdescResume x o) s = .next (numbered.enterExc c x.thr { code := 0x0E, stval := h.faddr }))))) ∧
    (∀ o : FmtSstop, o.rm = 0 → o.zhi = 0 → o.zlo = 0 →
      ((s.chan c o.ch).state = .running → exec (.sstop x o) s =
        .next ((s1.setChan c o.ch { s.chan c o.ch with state := .stopping }).after x id)) ∧
      ((s.chan c o.ch).state ≠ .running → exec (.sstop x o) s = .next (s1.after x id))) ∧
    (∀ o : FmtSstat, o.rm = 0 → o.zhi = 0 → o.zlo = 0 →
      exec (.sstat x o) s = .next (s1.after x (fun y => y.setG o.rd ((s.chan c o.ch).word o.sel.toNat))))

/-- R165, R166, R167, R168: a beat of an executing channel whose turn it is, at home on this device, moves the bytes of one
side, from memory into the holding register or from it to memory, as many as the block, the entry and the register
allow; an entry of a block list is read, checked and put in use. R158, R166, R172: a descriptor whose writes are all
acknowledged is complete: the channel goes to the next one, stops where a stop was asked for, or is idle after the last;
its pennant is set at a stop, at the end, and where the descriptor asks for it. It rests on the model's own choices of
logs 59, 60, 103, 112. -/
def Obligations.Channels : Prop :=
  (∀ (s s' s2 : State) (core : BitVec 10) (ch : BitVec 3) (d : BitVec 256) (a room pa lo : Nat) (sp : Space)
      (need : Nat × Nat),
      let c := core.toNat
      let h := s.chan c ch
      let addr := BitVec.ofNat 64 a
      let r : Resolved := ⟨.here pa, sp, lo⟩
      let turn (kind : BeatKind) : Prop := s.beatNeeds c ch kind = some need ∧ s.granted c ch need = true
      s.coreRuns c = true → h.active = true → h.cur = some d → s' = s.modCore c (fun k => k.serve ch need.1) →
      s2.homeUp pa = true →
      (turn .source → h.srcAt d = some (some a, room) →
        let n := h.fit d (Min.min room (64 - a % 64))
        s'.resolve c addr .read h.user = (s2, .ok r) → s2.beatFree c h addr r n false = true → s2.poisoned pa n = false →
        exec (.channelBeat core ch .source ⟨.good, .good⟩) s =
          .next ((s2.countLines c [(addr, r)] false).srcArrive c ch d (Memory.readBytes s2.mem pa n))) ∧
      (turn .destination → h.dstAt d = some (some a, room) →
        let n := Min.min room (64 - a % 64)
        s'.resolve c addr .write h.user = (s2, .ok r) → s2.beatFree c h addr r n true = true →
        exec (.channelBeat core ch .destination ⟨.good, .good⟩) s =
          .next ((((s2.countLines c [(addr, r)] true).modCore c (fun k => k.invalidate (touches r.place n))).homeWrite pa
            (h.hold.take n)).dstLeave c ch d n)) ∧
      (∀ i list n width, turn (.entry true) → h.needsEntry d true = some (i, list, n, width) → a = list + 16 * i →
        s'.resolve c addr .read h.user = (s2, .ok r) → s2.beatFree c h addr r 16 false = true → s2.poisoned pa 16 = false →
        let e := BitVec.ofNat 128 (ofLE (Memory.readBytes s2.mem pa 16))
        entryOk e width = true →
        exec (.blockListEntryRead core ch .destination .good) s = .next ((s2.countLines c [(addr, r)] false).setChan c ch
          { h with dstEnt := some e, dstOff := 0, dstIdx := i + 1 }))) ∧
  (∀ (s : State) (core : BitVec 10) (ch : BitVec 3) (d : BitVec 256),
      let c := core.toNat
      let h := s.chan c ch
      s.coreRuns c = true → h.active = true → h.cur = some d → h.complete = true →
      (∀ t seq ch' list n resume, (s.thread c t).wait ≠ some (.sdesc seq ch' list n resume)) →
      ∃ t, exec (.descriptorComplete core ch) s = .next t ∧ (t.chan c ch).didx = h.didx + 1 ∧
        (t.chan c ch).state = (if h.n ≤ h.didx + 1 then .idle else if h.state = .stopping then .stopped else .running) ∧
        (h.n ≤ h.didx + 1 ∨ h.state = .stopping ∨ dPen d = true → (t.core c).penn.getLsbD (8 + ch.toNat) = true) ∧
        t.mem = s.mem ∧ (∀ ch', ch' ≠ ch → t.chan c ch' = s.chan c ch') ∧ (∀ e, e ≠ c → t.core e = s.core e))

/-- R182, R183, R184: `SEND` checks its header; a message that passes leaves for its destination with the send time and
the delivered header of R181, and the thread stays blocked; the first check that fails raises `ACCESS` with the
header. R192, R193, R198: `MOVQ` pops one word, zero-extended, or two, the older one low; `RECV.SEL` pops one word of
the queue that its order chooses among those of the mask that hold one. Both wait while there is no such word. -/
def Obligations.MessageInstructions : Prop :=
  (∀ (x : Iss) (o : FmtSend) (s s1 : State), s.starts x none = some s1 → o.rm = 0 → o.z = 0 →
      let c := x.core.toNat
      let h := s.gAt x o.ra
      let dst := fld h 0 10
      let dev := fld h 10 17
      let len := fld h 44 4
      let here : Bool := h.getLsbD 27 || dev == s.devid
      let ws := (List.range len).map (fun i => BitVec.ofNat 32 (fld (s.gAt x (o.rb + BitVec.ofNat 5 (i / 2))) (32 * (i % 2)) 32))
      let msg : Msg := ⟨deliveredHeader c s.devid x.thr.toNat (!here) false (fld h 28 16) len, s.devtime, ws⟩
      let passes := fld h 48 16 = 0 ∧ len ≤ 8 ∧ (h.getLsbD 27 = true → dev = 0) ∧ o.rb.toNat + (len + 1) / 2 ≤ 32 ∧
        (here = true → s.present dst = true ∧ s.partOf dst = s.partOf c)
      let blocked (y : Thread) : Thread := { y with wait := some (.send h ws s.devtime .flying false) }
      (¬passes → exec (.send x o) s = .next (s1.enterExc c x.thr { code := 0x0E, stval := h })) ∧
      (passes → here = true → exec (.send x o) s =
        .next (({ s1 with msgs := s.msgs ++ [⟨s.nextMsg, .thread c x.thr, dst, msg⟩], nextMsg := s.nextMsg + 1 } :
          State).modThread c x.thr blocked)) ∧
      (passes → here = false → exec (.send x o) s =
        .next ((s1.sendReq (.send c x.thr) 0 (fun q => .msg q c dev dst msg)).modThread c x.thr blocked))) ∧
  (∀ (x : Iss) (s s1 : State), s.starts x none = some s1 →
      let c := x.core.toNat
      let mu := (s.core c).mu
      let pops (q : BitVec 3) (n : Nat) (rest : List QMsg) : State := s1.modCore c (fun k => { k with
        mu := { k.mu.setQueue q rest with counts := { k.mu.counts with wordsPop := k.mu.counts.wordsPop + BitVec.ofNat 64 n } } })
      (∀ o : FmtMovq, o.rm = 0 → o.z = 0 →
        (∀ w rest, o.w = false → popWords 1 (mu.queue o.q) = some (none, [w], rest) →
          exec (.movq x o) s = .next ((pops o.q 1 rest).after x (fun y => y.setG o.rd (w.setWidth 64)))) ∧
        (∀ w v rest, o.w = true → popWords 2 (mu.queue o.q) = some (none, [w, v], rest) →
          exec (.movq x o) s = .next ((pops o.q 2 rest).after x (fun y => y.setG o.rd (v ++ w)))) ∧
        (popWords (if o.w then 2 else 1) (mu.queue o.q) = none → mu.forms o.q = [] →
          exec (.movq x o) s = .next (s1.modThread c x.thr (fun y => { y with wait := some (.movq o.rd o.q o.w) })))) ∧
      (∀ o : FmtRecvSel, o.rm = 0 → o.z = 0 → o.qmask ≠ 0 →
        let holds (i : Nat) : Prop := o.qmask.getLsbD i = true ∧ mu.words (BitVec.ofNat 3 i) ≠ 0
        let order (k : Nat) : Nat := if o.rot then ((s.thread c x.thr).rot.toNat + 1 + k) % 8 else k
        (∀ k w rest, k < 8 → holds (order k) → (∀ j, j < k → ¬holds (order j)) →
          popWords 1 (mu.queue (BitVec.ofNat 3 (order k))) = some (none, [w], rest) →
          exec (.recvSel x o) s = .next ((pops (BitVec.ofNat 3 (order k)) 1 rest).after x (fun y =>
            let y' := y.setG o.rd (w.setWidth 64 ||| BitVec.ofNat 64 (order k * 2 ^ 32))
            if o.rot then { y' with rot := BitVec.ofNat 3 (order k) } else y'))) ∧
        ((∀ i, i < 8 → ¬holds i) → (∀ q, mu.forms q = []) → exec (.recvSel x o) s =
          .next (s1.modThread c x.thr (fun y => { y with wait := some (.recvSel o.rd o.qmask o.rot) })))))

/-- R203, R204: `PSET` sets and `PCLR` clears the pennants that g(`ra`) names, but for pennants 19 and 23, which read 0 (R133,
R153); a user thread may set only pennants 0 to 7.
`PWAIT` returns the pennants of `PMASK` that are set, with `CLR` clearing them, at once or once one is set or its
limit passes; with `PMASK` = 0 it returns 0. -/
def Obligations.PennantInstructions : Prop :=
  ∀ (x : Iss) (s s1 : State), s.starts x none = some s1 →
    let c := x.core.toNat
    let penn := (s.core c).penn
    let set := penn &&& (s.thread c x.thr).pmask.setWidth 32
    let keeps (p : W32) : State := s1.modCore c (fun k => { k with penn := p })
    (∀ o : FmtPset, o.rm = 0 → o.z = 0 →
      let v : W32 := (s.gAt x o.ra).setWidth 32
      (s.supAt x = false → v.toNat ≥ 256 → exec (.pset x o) s =
        .next (s1.enterExc c x.thr { code := 0x02, stval := BitVec.ofNat 64 ((encode (.pset x o)).getD 0) })) ∧
      (s.supAt x = true ∨ v.toNat < 256 → exec (.pset x o) s = .next ((keeps (penn ||| (v &&& 0xFF77FFFF))).after x id)) ∧
      exec (.pclr x o) s = .next ((keeps (penn &&& ~~~v)).after x id) ∧
      ∃ w u, encode (.pset x o) = some w ∧ w / 2 ^ 26 = 59 ∧ w / 2 ^ 18 % 16 = 3 ∧ w % 2 ^ 18 = o.ra.toNat * 2 ^ 11 ∧
        encode (.pclr x o) = some u ∧ u / 2 ^ 26 = 59 ∧ u / 2 ^ 18 % 16 = 4 ∧ u % 2 ^ 18 = o.ra.toNat * 2 ^ 11) ∧
    (∀ o : FmtPwait, o.rm = 0 → o.z = 0 →
      ((s.thread c x.thr).pmask.setWidth 32 = (0 : W32) →
        exec (.pwait x o) s = .next (s1.after x (fun y => y.setG o.rd 0))) ∧
      (set ≠ 0 → exec (.pwait x o) s = .next ((keeps (if o.clr then penn &&& ~~~set else penn)).after x
        (fun y => y.setG o.rd (set.setWidth 64)))) ∧
      ((s.thread c x.thr).pmask.setWidth 32 ≠ (0 : W32) → set = 0 → exec (.pwait x o) s =
        .next (s1.modThread c x.thr (fun y => { y with wait := some (.pwait o.rd (s.gAt x o.ra) o.clr) }))))

/-- R206, R207, R208, R200: what `BARR` returns or waits for at a barrier of each state, with the arrival that it makes;
`BARM` arms or disarms a barrier and refuses an `ARMED` one and a value with reserved bits; `HSIG` hands its signal
over while the control complex holds fewer than 64, and waits else. It rests on the model's own choices of log 56. -/
def Obligations.BarrierInstructions : Prop :=
  ∀ (x : Iss) (s s1 : State), s.starts x none = some s1 →
    let c := x.core.toNat
    let n := (s.partOf c).getD 0
    let y := s1.thread c x.thr
    (∀ o : FmtBarr, o.rm = 0 → o.z = 0 → o.id.toNat ≤ 79 →
      let b := o.id.toNat
      let st := s.barState n b
      let gen := s.barGen n b
      let same : Bool := y.barPar.getLsbD b == (gen % 2 == 1)
      let bars := (s.part n).bars
      let ends (i : Instr) (z : Thread) (bs : List BarArr) : Prop :=
        ∃ t, exec i s = .next t ∧ t.thread c x.thr = z ∧ (t.part n).bars = bs ∧ t.mem = s.mem ∧ t.barState n b = st ∧
          t.barGen n b = gen
      let tells (z : Thread) (v : Nat) : Thread := (z.setG o.rd (BitVec.ofNat 64 v)).retire
      let observed (v : Nat) : Prop := ∀ i ∈ [Instr.barrWait x o, Instr.barrArrive x o, Instr.barrTest x o],
        ends i (tells { y with barPend := setBit y.barPend b false } v) bars
      let arrived : Thread := { y with barPend := setBit y.barPend b true, barPar := setBit y.barPar b (gen % 2 == 1) }
      let waits (z : Thread) : Thread := { z with wait := some (.barr o.rd o.id) }
      (st = 0 → ∀ i ∈ [Instr.barrWait x o, Instr.barrArrive x o, Instr.barrTest x o], ends i (tells y 4) bars) ∧
      (st = 2 → observed 1) ∧ (st = 3 → observed 2) ∧
      (st = 1 → y.barPend.getLsbD b = true → same = false → observed 0) ∧
      (st = 1 → y.barPend.getLsbD b = true → same = true → ends (.barrWait x o) (waits y) bars ∧
        ends (.barrArrive x o) (tells y 3) bars ∧ ends (.barrTest x o) (tells y 3) bars) ∧
      (st = 1 → y.barPend.getLsbD b = false →
        ends (.barrWait x o) (waits arrived) (bars ++ [⟨b, c, x.thr, false, false⟩]) ∧
        ends (.barrArrive x o) (tells arrived 3) (bars ++ [⟨b, c, x.thr, true, false⟩]) ∧
        ends (.barrTest x o) (tells y 5) bars)) ∧
    (∀ o : FmtBarm, o.rm = 0 → o.z = 0 → o.id.toNat ≤ 79 → s.supAt x = true →
      let b := o.id.toNat
      let v := s.gAt x o.ra
      let count := fld v 0 13
      let bad := fld v 13 3 ≠ 0 ∨ fld v 40 24 ≠ 0 ∨ 4096 < count ∨ s.barState n b = 1
      (bad → exec (.barm x o) s = .next (s1.enterExc c x.thr { code := 0x0E, stval := v })) ∧
      (¬bad → ∃ t, exec (.barm x o) s = .next t ∧ t.barCount n b = count ∧ t.barTmo n b = fld v 16 24 ∧
        t.barArrived n b = 0 ∧ t.barState n b = (if count = 0 then 0 else 1) ∧ t.barGen n b = s.barGen n b ∧
        t.thread c x.thr = y.retire ∧ t.mem = s.mem ∧ ∀ off, off ≠ barOff n b → t.reg off = s.reg off)) ∧
    (∀ o : FmtHsig, o.rm = 0 → o.z = 0 →
      let held := (s.part n).hsigs
      (s.rfld (prt n 0x130) 6 1 = 0 → exec (.hsig x o) s = .next (s1.enterExc c x.thr { code := 0x0E, stval := 0 })) ∧
      (s.rfld (prt n 0x130) 6 1 ≠ 0 → s.hsigHeld n < 64 → exec (.hsig x o) s = .next ((s1.modPart n (fun p =>
        { p with hsigs := held ++ [⟨c, x.thr, o.n, s.gAt x o.ra, s.devtime⟩] })).after x id)) ∧
      (s.rfld (prt n 0x130) 6 1 ≠ 0 → 64 ≤ s.hsigHeld n → exec (.hsig x o) s =
        .next (s1.modThread c x.thr (fun z => { z with wait := some (.hsig (s.gAt x o.ra) o.n s.devtime) }))))

/-- R208, R210: an arrival that reaches the root of an `ARMED` barrier counts there; the one that completes `COUNT` of a
barrier of this device releases the generation. A generation not released in time makes its barrier `TIMEDOUT`. A
thread that waits in `BARR` returns with the outcome. It rests on the model's own choices of log 56. -/
def Obligations.BarrierEvents : Prop :=
  (∀ (s : State) (part : BitVec 3) (bar : BitVec 7) (core : BitVec 10) (thr : BitVec 2) (a : BarArr),
    let n := part.toNat
    let b := bar.toNat
    s.barState n b = 1 → s.fbarOn n b = false → (s.isFinal n b = true → s.planDone n core.toNat = true) →
    (s.part n).bars.find? (fun a => a.bar == b && a.core == core.toNat && a.thr == thr && !a.counted) = some a →
    (s.barArrived n b + 1 < s.barCount n b → ∃ t, exec (.barrierArrival part bar core thr) s = .next t ∧
      t.barArrived n b = s.barArrived n b + 1 ∧ t.barGen n b = s.barGen n b ∧ t.barState n b = 1 ∧
      { a with counted := true } ∈ (t.part n).bars ∧ t.mem = s.mem ∧ t.cores = s.cores ∧
      ∀ off, off ≠ barOff n b → t.reg off = s.reg off) ∧
    (s.barArrived n b + 1 = s.barCount n b → ∃ t, exec (.barrierArrival part bar core thr) s = .next t ∧
      t.barArrived n b = 0 ∧ t.barGen n b = (s.barGen n b + 1) % 256 ∧ t.barState n b = 1 ∧ t.mem = s.mem ∧
      (∀ a ∈ (t.part n).bars, a.bar = b → a.counted = false))) ∧
  (∀ (s : State) (part : BitVec 3) (bar : BitVec 7),
    let n := part.toNat
    let b := bar.toNat
    s.barState n b = 1 → s.barTmo n b ≠ 0 → s.barArrived n b ≠ 0 → s.fbarOn n b = false →
    (AMap.get 0 (s.part n).barFirst b).toNat + 1000 * s.barTmo n b ≤ s.elapsed.toNat →
    ∃ t, exec (.barrierTimeout part bar) s = .next t ∧ t.barState n b = 2 ∧ t.barGen n b = s.barGen n b ∧ t.mem = s.mem ∧
      (∀ a ∈ (t.part n).bars, a.bar = b → a.counted = false)) ∧
  (∀ (s : State) (n : Nat) (c : Nat) (thr : BitVec 2) (rd : BitVec 5) (bar : BitVec 7) (v : Nat),
    let y := s.thread c thr
    y.wait = some (.barr rd bar) → s.barOutcome n bar.toNat y = some v →
    (s.barServe n bar.toNat c thr).thread c thr =
      (({ y with wait := none, barPend := setBit y.barPend bar.toNat false } : Thread).setG rd (BitVec.ofNat 64 v)).retire)

/-- R188, R190, R191, R184, R195, R199, R368: a message that reaches its core, from a thread, a host `SIGNAL` or the fabric,
enters the queue that its tag matches when all its words fit, else a spill record in local memory where the queue has a
ring with room, else it is refused with pennant 29; one for an absent core is dead-lettered while the control complex
takes records. The outcome goes to its sender: the `SEND` of a thread is answered; a host `SIGNAL` is held after a
refusal, sets its pennant after an acceptance and is `DONE`, with `DETAIL` 1 after a dead letter; the fabric carries
an `ANSWER`. -/
def Obligations.MessageArrives : Prop :=
  (∀ (s : State) (id : Nat) (m : Flight),
    s.msgs.find? (fun f => f.id == id) = some m → s.halfRuns (coreHalf m.dst) = true → s.noReader m.dst →
    let d := m.dst
    let mu := (s.core d).mu
    let q := mu.matchTag (fld m.msg.header 32 16)
    let cfg := mu.cfg q
    let ws := m.msg.placed (fld cfg 0 2)
    let fits := mu.forms q = [] ∧ mu.words q + ws.length ≤ 32
    let spills := ¬fits ∧ cfg.getLsbD 2 = true ∧ (mu.forms q).length < mu.ringRecs q
    let counted (k : MsgCounts) : MsgCounts :=
      { k with inn := k.inn + 1, wordsIn := k.wordsIn + BitVec.ofNat 64 ws.length }
    let marked (t : State) (p : Nat) : Prop := (t.core d).penn = setBit (s.core d).penn p true
    let pa := lmAddr d (mu.recOff q (mu.head q + (mu.forms q).length))
    ∃ (u : State) (a : Arrival), exec (.messageArrival id .good) s = .next (u.senderTold m.src a) ∧
      u.msgs = s.msgs.filter (fun f => f.id != id) ∧ (∀ c t, u.thread c t = s.thread c t) ∧
      (∀ n, (u.part n).signals = (s.part n).signals) ∧ u.compl = s.compl ∧
      (s.present d = true → u.parts = s.parts ∧
        (fits → a = .accepted ∧ (u.core d).mu.queue q = mu.queue q ++ (if ws = [] then [] else [⟨mu.counts.inn.toNat, m.msg, 0, ws, false⟩]) ∧
          (u.core d).mu.counts = counted mu.counts ∧ (cfg.getLsbD 7 = true → marked u (fld cfg 4 3)) ∧ u.mem = s.mem) ∧
        (spills → a = .accepted ∧ u.mem = Memory.writeBytes s.mem pa (spillRecord m.msg) ∧
          (u.core d).mu.forms q = mu.forms q ++ [(fld cfg 0 2, mu.counts.inn.toNat)] ∧ (u.core d).mu.queue q = mu.queue q ∧
          (u.core d).mu.counts = counted mu.counts ∧ (cfg.getLsbD 7 = true → marked u (fld cfg 4 3))) ∧
        (¬fits → ¬spills → a = .refused ∧ (u.core d).mu = { mu with counts := { mu.counts with
          refused := mu.counts.refused + 1 } } ∧ marked u 29 ∧ u.mem = s.mem)) ∧
      (∀ n, s.present d = false → s.partOf d = some n → u.mem = s.mem ∧ u.cores = s.cores ∧
        ((s.part n).dead.length < 65535 → a = .dead ∧
          (u.part n).dead = (s.part n).dead ++ [deadRecord m.msg m.msg.words d q.toNat 0 0 s.devtime]) ∧
        (65535 ≤ (s.part n).dead.length → a = .refused ∧ u.parts = s.parts))) ∧
  (∀ (u : State) (c : Nat) (t : BitVec 2) (h : W64) (ws : List W32) (time : W64) (ev : Bool) (a : Arrival),
    (u.thread c t).wait = some (.send h ws time .flying ev) →
    (u.senderTold (.thread c t) a).thread c t = { u.thread c t with wait := some (.send h ws time (.answered (a ≠ .refused)) ev) } ∧
      ∀ v, v ≠ t → (u.senderTold (.thread c t) a).thread c v = u.thread c v) ∧
  (∀ (u : State) (n i : Nat) (g : HostSignal), (u.part n).signals.find? (fun g => g.pkt.id == i) = some g →
    let told (a : Arrival) : State := u.senderTold (.host n i) a
    let done (d : W64) : List Compl := u.compl ++ [g.pkt.reply 0x00 g.pkt.read d]
    let taken := (u.part n).signals.filter (fun x => x.pkt.id != i)
    ((told .refused).part n).signals =
        (u.part n).signals.map (fun x => if x.pkt.id = i then { x with flying := false } else x) ∧
      (told .refused).compl = u.compl ∧ (told .refused).cores = u.cores ∧
      ((told .accepted).part n).signals = taken ∧ (told .accepted).compl = done 0 ∧
      (u.present g.core = true → ((told .accepted).core g.core).penn = setBit (u.core g.core).penn (24 + g.n) true) ∧
      ((told .dead).part n).signals = taken ∧ (told .dead).compl = done 1 ∧ (told .dead).cores = u.cores) ∧
  (∀ (u : State) (r : RemIn) (a : Arrival),
    u.senderTold (.fabric r) a = u.fabSend (.answer r (a ≠ .refused)) ∧ FabItem.answer r (a ≠ .refused) ∈ (u.fabSend (.answer r (a ≠ .refused))).fabOut)

/-- R184, R185, R191, R196: an acceptance retires its `SEND` and a refusal holds its message, which is sent again whole;
`SWLIM` withdraws a held one, or one that a port of this device has discarded (R379), with `SEND_WAIT` and waits for the
answer of one in flight. The oldest spill record moves
into its queue when its words fit, and the oldest dead letter into its ring while that has room. -/
def Obligations.MessageEvents : Prop :=
  (∀ (s : State) (core : BitVec 10) (thr : BitVec 2) (h : W64) (ws : List W32) (time : W64) (ev : Bool),
    let c := core.toNat
    let y := s.thread c thr
    s.coreRuns c = true →
    let goes (i : Instr) (z : Thread) : Prop := ∃ t, exec i s = .next t ∧ t.thread c thr = z ∧ t.mem = s.mem ∧
      (∀ u, u ≠ thr → t.thread c u = s.thread c u) ∧ (∀ d, d ≠ c → t.core d = s.core d)
    (y.wait = some (.send h ws time (.answered true) ev) → ∃ t, exec (.sendAnswerArrival core thr) s = .next t ∧
      t.thread c thr = Thread.retire { y with wait := none } ∧ (t.core c).mu.counts.out = (s.core c).mu.counts.out + 1 ∧
      t.mem = s.mem) ∧
    (y.wait = some (.send h ws time (.answered false) false) → s.eventDue c thr = false →
      goes (.sendAnswerArrival core thr) { y with wait := some (.send h ws time .held false) }) ∧
    (y.wait = some (.send h ws time .held ev) → h.getLsbD 27 = true →
      ∃ t, exec (.messageResend (.thread core thr)) s = .next t ∧
        t.thread c thr = { y with wait := some (.send h ws time .flying ev) } ∧
        t.msgs = s.msgs ++ [⟨s.nextMsg, .thread c thr, fld h 0 10,
          ⟨deliveredHeader c s.devid thr.toNat false false (fld h 28 16) ws.length, time, ws⟩⟩]) ∧
    (y.wait = some (.send h ws time .flying ev) → fld y.swlim 0 32 ≠ 0 →
      goes (.sendWait core thr) { y with wait := some (.send h ws time .flying true) }) ∧
    (y.wait = some (.send h ws time .held ev) → fld y.swlim 0 32 ≠ 0 → s.stillAt c thr = true →
      exec (.sendWait core thr) s = .next ((s.modThread c thr (fun z => { z with wait := none })).enterExc c thr
        { code := 0x07, stval := h })) ∧
    (y.wait = some (.send h ws time .lost ev) → fld y.swlim 0 32 ≠ 0 → s.stillAt c thr = true →
      exec (.sendWait core thr) s = .next (((s.dropSend c thr).modThread c thr (fun z => { z with wait := none })).enterExc c thr
        { code := 0x07, stval := h }))) ∧
  (∀ (s : State) (core : BitVec 10) (q : BitVec 3) (form seq : Nat) (rest : List (Nat × Nat)),
    let c := core.toNat
    let mu := (s.core c).mu
    let pa := lmAddr c (mu.recOff q (mu.head q))
    let msg := recordMsg (Memory.readBytes s.mem pa 64)
    let ws := msg.placed form
    s.coreRuns c = true → mu.forms q = (form, seq) :: rest → s.poisoned pa 64 = false → s.noReader c → mu.words q + ws.length ≤ 32 →
    ∃ t, exec (.spillRecordMove core q .good) s = .next t ∧ t.mem = s.mem ∧
      (t.core c).mu = { mu with
        q := if ws.isEmpty then mu.q else rset mu.q (qix q) (mu.queue q ++ [⟨seq, msg, 0, ws, false⟩])
        spForms := rset mu.spForms (qix q) rest
        spHead := rset mu.spHead (qix q) ((mu.head q + 1) % mu.ringRecs q) }) ∧
  (∀ (s : State) (part : BitVec 3) (r : BitVec 512) (rest : List (BitVec 512)),
    let n := part.toNat
    let prod := s.rfld (prt n 0x110) 0 32
    let log := s.rfld (prt n 0x108) 0 5
    let pa := s.rfld (prt n 0x100) 0 43 + 64 * (prod % 2 ^ log)
    (s.part n).dead = r :: rest → s.rfld (prt n 0x108) 5 1 = 1 →
    (prod + 2 ^ 32 - s.rfld (prt n 0x118) 0 32) % 2 ^ 32 < 2 ^ log → s.homeUp pa = true →
    ∃ t, exec (.deadLetterWrite part) s = .next t ∧ t.mem = Memory.writeBytes s.mem pa (toLE 64 r.toNat) ∧
      t.rfld (prt n 0x110) 0 32 = (prod + 1) % 2 ^ 32 ∧ (t.part n).dead = rest)

/-- R242, R244, R250, R251: of the lines of a core's slot plan in a direction the next that launches is read from its local
memory and leaves, in the cycle of its plan within a half and by the table of R250 across the seam, where an `ELASTIC` one takes
a credit of its seam queue; the first line that travels to a core in a direction, by the cycle of its write, is written into
its local memory, and returns the credit. R101, R102: a stop request and a pending interrupt are
taken at a boundary of a thread with nothing in flight. R204: a thread that waits in `PWAIT` goes on, with the
pennants of its mask, once one is set or its limit, if it has one, is reached; a `PWAIT` that clears goes on after those that the same
pennant wakes before it. It rests on the model's own choices of
logs 13, 57, 140. -/
def Obligations.LinkAndThreadEvents : Prop :=
  ((∀ (s : State) (core : BitVec 10) (dir : BitVec 2) (n d l pos : Nat) (far : Bool) (e : BitVec 128) (r : StepRun) (g : Program),
      let c := core.toNat
      let p := s.part n
      s.partOf c = some n → p.step = some r → p.prog = some g →
      s.nextLine p (s.seamPoints g) c dir.toNat = some (far, e, l, pos) → hopCore c dir.toNat (fld e 34 5) = some d → s.present c = true → s.halfRuns (coreHalf c) = true →
      (g.seam = 2 → crosses c d = true → p.seamHeld c dir.toNat < 16) →
      let pa := lmAddr c (64 * (fld e 64 13 + l))
      let line : LinkLine := ⟨c, dir.toNat, d, fld e 80 13 + l, Memory.readBytes s.mem pa 64, s.poisoned pa 64,
        (p.lineCycles g (s.seamPoints g) c d dir.toNat e l).2, g.seam == 2 && crosses c d⟩
      let key := seamKey c dir.toNat
      ∃ t, exec (.linkLineSend core dir) s = .next t ∧ (t.part n).lines = p.lines ++ [line] ∧
        (t.part n).sent c dir.toNat (crosses c d) = pos ∧
        t.seamFree key = s.seamFree key - (if line.credit then 1 else 0) ∧
        t.mem = s.mem ∧ t.cores = s.cores ∧ t.regs = s.regs) ∧
    (∀ (p : Part) (g : Program) (pts c d dir l : Nat) (e : BitVec 128), l < fld e 40 16 →
      let at0 := fld e 0 32 + l
      let h := fld e 34 5
      let cyc := p.lineCycles g pts c d dir e l
      let fast (a b : Nat) : Prop := pts / 4 ^ coreHalf a % 4 = 2 ∧ pts / 4 ^ coreHalf b % 4 = 1
      (crosses c d = false → g.seam ≠ 2 → cyc = (at0, at0 + h)) ∧
      (crosses c d = true → g.seam = 1 → fast c d → cyc = (2 * at0, at0 + h + 3)) ∧
      (crosses c d = true → g.seam = 1 → fast d c → cyc = (at0, 2 * (at0 + h + 3))) ∧
      (crosses c d = true → g.seam = 1 → ¬fast c d → ¬fast d c → cyc = (at0, at0 + h + 6)) ∧
      (g.seam = 2 → AMap.get 0 p.link.free (4 * c + dir) ≤ at0 →
        (crosses c d = true → (AMap.get [] p.link.dues (4 * coreRow c + dir)).length < 16) →
        (crosses c d = false → cyc = (at0, at0 + h)) ∧
        (crosses c d = true → fast c d → cyc = (at0, (at0 + 1) / 2 + h + 3)) ∧
        (crosses c d = true → fast d c → cyc = (at0, 2 * at0 + h + 6)) ∧
        (crosses c d = true → ¬fast c d → ¬fast d c → cyc = (at0, at0 + h + 6)))) ∧
    (∀ (s : State) (core : BitVec 10) (dir : BitVec 2) (n : Nat) (l : LinkLine),
      let d := core.toNat
      s.partOf d = some n → s.halfRuns (coreHalf d) = true ∨ crosses l.src d = true → l.bad = false →
      firstDue ((s.part n).lines.filter (fun l => l.dst == d && l.dir == dir.toNat)) = some l →
      ∃ t, exec (.linkLineWrite core dir .good) s = .next t ∧ (t.part n).lines = (s.part n).lines.erase l ∧
        t.mem = Memory.writeBytes s.mem (lmAddr d (64 * l.line)) l.bytes ∧ t.regs = s.regs ∧
        let key := seamKey l.src l.dir
        t.seamFree key = s.seamFree key + (if l.credit then 1 else 0)) ∧
    (∀ (s : State) (core : BitVec 10) (thr : BitVec 2),
      let c := core.toNat
      let y := s.thread c thr
      s.present c = true → s.halfRuns (coreHalf c) = true → s.stillAt c thr = true → y.wait = none →
      (y.rptOn = true → y.rptN = false) →
      ((s.ctl c thr).stopReq = true → ∃ t, exec (.threadStop core thr) s = .next t ∧
        t.ctl c thr = { s.ctl c thr with stopped := true, stopReq := false, run := false } ∧
        t.thread c thr = y ∧ (∀ u, u ≠ thr → t.thread c u = s.thread c u) ∧ t.mem = s.mem) ∧
      (∀ k, (s.ctl c thr).stopped = false → y.stat.getLsbD 2 = true → y.stat.getLsbD 4 = false → k < 16 →
        (s.core c).penn.getLsbD (16 + k) = true → y.imask.getLsbD k = true →
        (∀ j, k < j → j < 16 → ¬((s.core c).penn.getLsbD (16 + j) = true ∧ y.imask.getLsbD j = true)) →
        ∃ t, exec (.interruptEntry core thr) s = .next t ∧ t.thread c thr = y.enter { code := 0x10 + k, stval := 0 } ∧
          (∀ u, u ≠ thr → t.thread c u = s.thread c u) ∧ t.mem = s.mem))) ∧
  (∀ (s : State) (core : BitVec 10) (thr : BitVec 2) (rd : BitVec 5) (lim : W64) (clr limit : Bool),
      let c := core.toNat
      let y := s.thread c thr
      let set := (s.core c).penn &&& y.pmask.setWidth 32
      y.wait = some (.pwait rd lim clr) → s.coreRuns c = true →
      (clr = true → s.wokenFirst c thr = false ∧ s.plainWoken c thr = false) → set ≠ 0 ∨ (limit = true ∧ lim ≠ 0) →
      ∃ t, exec (.pwaitWake core thr limit) s = .next t ∧
        t.thread c thr = Thread.retire { y.setG rd (set.setWidth 64) with wait := none } ∧
        (t.core c).penn = (if clr then (s.core c).penn &&& ~~~set else (s.core c).penn) ∧ t.mem = s.mem ∧
        (∀ u, u ≠ thr → t.thread c u = s.thread c u) ∧ (∀ d, d ≠ c → t.core d = s.core d))

/-- R383, R30, R35, R52, R402: a tick of the time base; the boundary of a step that another step covers, of a held
partition, and of one whose step starts; the end of a step; the three thresholds of a step that lasts, the second of
which marks the items that run (R51), and the third the threads, here where none waits; a snapshot that is complete. It
rests on the model's own choices of logs 20, 67, 91, 96, 104, 109. -/
def Obligations.StepEvents : Prop :=
  (∀ s : State, s.dstate ≠ 0 → s.west.window = false → s.east.window = false →
    let add := (2 ^ 32 + (BitVec.ofNat 32 (s.rfld 0x60030 0 32)).toInt * 2 ^ 32 / 1000000000).toNat
    exec .devtimeTick s = .next { s with
      devtime := s.devtime + BitVec.ofNat 64 ((s.frac.toNat + add) / 2 ^ 32)
      frac := BitVec.ofNat 32 (s.frac.toNat + add), elapsed := s.elapsed + 1 }) ∧
  (∀ (s : State) (part : BitVec 3) (found : Option Mismatch),
    let n := part.toNat
    let p := s.part n
    let k := p.nextK
    let time := BitVec.ofNat 64 (s.t0 n + k * s.period n)
    s.pstate n ≠ 0 → s.dstate ≠ 7 → s.t0 n + k * s.period n ≤ s.devtime.toNat →
    let s1 := s.modPart n (fun p => { p with nextK := k + 1 })
    let halves := (s1.pointBoundary n time).1
    (∀ r, p.step = some r → ∃ t, exec (.stepBoundary part found) s = .next t ∧ (t.part n).step = some r ∧
      (t.part n).nextK = k + 1 ∧ t.mem = halves.mem ∧ t.cores = halves.cores) ∧
    (p.step = none → s1.auditSeam = none → s.consHold n = true →
      ∃ t, exec (.stepBoundary part found) s = .next t ∧ (t.part n).step = none ∧
        (t.part n).nextK = k + 1 ∧ t.mem = halves.mem ∧ t.cores = halves.cores) ∧
    (let s2 := ((s1.configBoundary n).pointBoundary n time).1.berthBoundary n
      let s3 := (s2.part n).items.foldl (fun s i => s.hardStart n k i) s2
      let s4 := (s3.bulkQueue n).foldl (fun s i => s.placeBulk n k i) s3
      let run := (s4.part n).items.filter (·.running)
      let band := bandFor ((s4.part n).prog.elim [] (·.bands)) run.length ((run.map (·.weight)).foldl (· + ·) 0)
      p.step = none → s1.auditSeam = none → s.consHold n = false → s1.audit n found = none → s2.pstate n = 2 → s2.dstate = 6 →
      s2.meetsDecl n = true →
      ∃ t, exec (.stepBoundary part found) s = .next t ∧
        (t.part n).step = some ⟨k, time, s4.elapsed - (s4.devtime - time), band, false, false, false, false⟩ ∧
        (t.part n).items = (s4.part n).items ∧ (t.part n).finalDone = false ∧ t.reg (prt n 0x28) = BitVec.ofNat 64 k ∧
        t.mem = s4.mem ∧ ∀ c ∈ s4.partCores n, (t.core c).penn.getLsbD 30 = true)) ∧
  (∀ (s : State) (part : BitVec 3) (r : StepRun),
    let n := part.toNat
    let p := s.part n
    p.step = some r →
    let lasts (ns : Nat) : Prop := p.finalDone = false ∧ ns ≤ (s.elapsed - r.began).toNat
    (r.broken = false → p.finalDone = true → (∀ i ∈ p.items, i.running = false) →
      ∃ t, exec (.stepEnd part) s = .next t ∧ (t.part n).step = none ∧ (t.part n).items = p.items ∧
        t.rfld (prt n 0x70) 0 32 = min (s.elapsed - r.began).toNat (2 ^ 32 - 1) ∧ t.rfld (prt n 0x70) 32 4 = r.band % 16 ∧
        t.pstate n = (if r.late = true ∨ s.pstate n = 3 ∨ r.quar = true then 1 else s.pstate n) ∧ t.mem = s.mem) ∧
    let mine := ∀ i ∈ p.items, i.pkt.part = n
    let breaks (t : State) : Prop := (t.part n).step = none ∧ t.pstate n = 1 ∧
      (∀ i ∈ (t.part n).items, i.running = false) ∧
      (∀ i ∈ p.items, i.running = true → i.cancelled = true →
        (∃ c ∈ t.compl, c.pkt = i.pkt.id ∧ c.final = true ∧ c.status = 0x31 ∧ c.cause = 0x11) ∧
          ∀ j ∈ (t.part n).items, j.pkt.id ≠ i.pkt.id) ∧
      ((∀ i ∈ p.items, i.running = true → i.cancelled = false) → t.mem = s.mem)
    (r.broken = true → (∀ c ∈ s.partCores n, c ∈ p.finalSeen) → mine → ∃ t, exec (.stepEnd part) s = .next t ∧ breaks t) ∧
    (∀ g, p.prog = some g → lasts (g.bands.getD r.band ⟨0, 0, 0⟩).ns → r.banded = false →
      ∃ t, exec (.bandOverrun part) s = .next t ∧ (t.part n).step = some { r with banded := true } ∧
        t.rfld (prt n 0x70) 40 16 = min (s.rfld (prt n 0x70) 40 16 + 1) 65535 ∧ t.mem = s.mem ∧ t.cores = s.cores) ∧
    (lasts (s.rfld (prt n 0x18) 0 32) → r.late = false → ∃ t, exec (.overrun part) s = .next t ∧
      (t.part n).step = some { r with late := true } ∧ t.rfld (prt n 0x70) 56 1 = 1 ∧
      (t.part n).items = p.items.map (fun i => if i.running then { i with causes := i.causes.set 5 0 } else i) ∧
      t.mem = s.mem ∧ t.cores = s.cores) ∧
    (lasts (s.period n) → mine → (∀ c ∈ s.partCores n, ∀ u, (s.thread c u).waitsOpen = false) → ∃ t, exec (.wdogFired part) s = .next t ∧ breaks t ∧
      t.rfld (prt n 0x70) 57 1 = 1 ∧ t.noHold n = false ∧
      ((∀ i ∈ p.items, i.running = true → i.cancelled = false) → ∀ c ∈ s.partCores n, ∀ u, (s.ctl c u).stopped = false → (s.ctl c u).halted = false →
        (∀ g, p.prog = some g → (s.thread c u).barPend.getLsbD g.finalBar = false) → p.prog ≠ none →
        t.thread c u = { s.thread c u with wdog := true }))) ∧
  (∀ (s : State) (part : BitVec 3) (no : Nat) (b : List Byte),
    let n := part.toNat
    let j := 1 - s.rfld (trc n 0x30) 0 1
    (s.part n).snap = some (no, b) → ∃ t, exec (.snapshotComplete part) s = .next t ∧ (t.part n).snap = none ∧
      t.mem = (s.putBytes (s.rfld (trc n 0x28) 0 43 + j * ((b.length + 4095) / 4096 * 4096)) b).mem ∧
      t.rfld (trc n 0x30) 0 1 = j ∧ t.rfld (trc n 0x30) 1 1 = 1 ∧ t.rfld (trc n 0x30) 32 32 = no % 2 ^ 32 ∧
      t.rfld (trc n 0x30) 16 16 = s.rfld (trc n 0x30) 16 16)

/-- R285, R287, R288, R290: a restore starts in commitment order, not before its planned time; its end empties the index
and leaves the item ready, or fails with the item ended `ABORTED`. A `MOOR`'s record is written, its index becomes
`MOORED` and its berth `FREE`; one that cannot be written leaves the index `EMPTY`. It rests on the model's own
choices of logs 61, 69, 117. -/
def Obligations.MooringEvents : Prop :=
  (∀ (s : State) (part : BitVec 3) (i : Item) (r : Restore),
    let n := part.toNat
    s.restItem n = some (i, r) →
    (r.started = false → r.startAt.toNat ≤ s.devtime.toNat → exec (.restoreStart part) s =
      .next (s.setItem { i with rest := some { r with started := true } })) ∧
    (∀ b s2, r.started = true → i.berth = some b → s.restoreInto n b r.idx = (s2, none) →
      ∃ t, exec (.restoreEnd part) s = .next t ∧ t.idxState r.idx = 0 ∧
        t.parts = (s2.setItem { i with rest := some { r with ended := true } }).parts ∧
        t.reg (prt n 0xC8) = (s2.setIdx r.idx 0).reg (prt n 0xC8) + 1 ∧ t.mem = s2.mem ∧ t.compl = s2.compl) ∧
    (∀ b s2 e, r.started = true → i.berth = some b → s.restoreInto n b r.idx = (s2, some e) → i.pkt.part = n →
      ∃ t c, exec (.restoreEnd part) s = .next t ∧ t.idxState r.idx = 2 ∧ (t.berth n b).st = .free ∧
        t.mem = (((s2.recordFault n e).setIdx r.idx 2).moveBerth n b .free).mem ∧
        t.compl = s2.compl ++ [c] ∧ c.pkt = i.pkt.id ∧ c.final = true ∧ c.status = 0x31 ∧ c.cause = 0x12 ∧
        ∀ j ∈ (t.part n).items, j.pkt.id ≠ i.pkt.id)) ∧
  (∀ (s : State) (part : BitVec 3) (j : Job) (b i : Nat),
    let n := part.toNat
    let s1 := s.modPart n (fun p => { p with moors := p.moors.erase (j, true) })
    (s.part n).moors.find? (·.2) = some (j, true) → j.kind = .moor b i →
    let ends (t : State) (ix : Nat) (status cause : Nat) (units : Nat) : Prop :=
      t.idxState i = ix ∧ (t.berth n b).st = .free ∧ (t.part n).moors = (s.part n).moors.erase (j, true) ∧
      ∃ c, t.compl = s.compl ++ [c] ∧ c.pkt = j.pkt.id ∧ c.status = status ∧ c.cause = cause ∧ c.berth = b ∧
        c.detail = BitVec.ofNat 64 units
    (s1.pageList n b = none → ∃ t, exec (.moorRecordComplete part) s = .next t ∧
      t.mem = ((s1.recLost n i).moveBerth n b .free).mem ∧ t.reg (prt n 0xC0) = s.reg (prt n 0xC0) + 1 ∧
      t.reg (prt n 0xD0) = s.reg (prt n 0xD0) + 1 ∧ ends t 0 0x31 0x15 (s1.moorSize n b)) ∧
    (∀ es pa, i < 65536 → s1.pageList n b = some es → s1.pageData n es = none → s1.pagePoison n es = some pa →
      ∃ t, exec (.moorRecordComplete part) s = .next t ∧ s.counts t 0x80158 32 32 ∧
        rget (t.part n).cause 1 = rget (s.part n).cause 1 + 1 ∧ ends t 0 0x31 0x15 (s1.moorSize n b)) ∧
    (∀ es ds blk, s1.pageList n b = some es → s1.pageData n es = some ds →
      s1.devRead n (s1.blockAddr n b) 64 = some blk →
      let a := s1.slotAddr n i
      let body := ds.flatMap padUnits
      let s2 := (s1.putBytes (a + 4096) body).putBytes a
        (recHeader n (s1.berth n b).cls s.devtime blk es (ds.flatMap id))
      let s3 : State := { s2.setIdx i 2 with moorUnits := AMap.put s2.moorUnits i (recUnits es) }
      s1.rangeUp a (4096 + body.length) = true → ∃ t, exec (.moorRecordComplete part) s = .next t ∧
        t.mem = ((s3.countRec n 0xC0).moveBerth n b .free).mem ∧ t.moorUnits = s3.moorUnits ∧
        ends t 2 0x00 0 (recUnits es)))

/-- R302, R301, R303, R294: a write of 4 bytes to the doorbell page of a ring pair, in BAR2 of the PF for a partition that it
serves itself or of the VF that serves it, publishes slots, or consumes completions, where it leaves its ring consistent; otherwise
its error bit is set, `OFF` for a ring that is not enabled, and the ring keeps its previous value. A write of another
size is ignored. -/
def Obligations.Doorbells : Prop :=
  ∀ (s : State) (fn : BitVec 4) (page : BitVec 8) (g : Nat),
    let pair := page.toNat
    s.pins.perst = true → s.outOfReset = true → s.link.d3hot.getLsbD fn.toNat = false →
    (fn = 0 ∧ s.fnOf (pair / 32) = 0 ∧ g = 64 * (pair / 32) + pair % 32) ∨
      (fn ≠ 0 ∧ s.vfOn fn.toNat = true ∧ pair < 64 ∧ g = 64 * (fn.toNat - 1) + pair) → ∀ v : W32,
      let used := cdiff (s.sqTail g) (s.sqHead g)
      let held := cdiff (s.cqProd g) (s.cqCons g)
      (s.sqEn g = true → cdiff v.toNat (s.sqTail g) ≤ s.sqSize g - used → ∃ t, exec (.sqTail ⟨fn, page, 4⟩ v) s = .next t ∧
        t.sqTail g = v.toNat ∧ t.sqHead g = s.sqHead g ∧ t.reg (rg g 0x30) = s.devtime ∧
        AMap.get [] t.link.bells g = AMap.get [] s.link.bells g ++ [(v.toNat, s.devtime)]) ∧
      (s.sqEn g = true → s.sqSize g - used < cdiff v.toNat (s.sqTail g) →
        exec (.sqTail ⟨fn, page, 4⟩ v) s = .next (s.setRfld (rg g 0x38) 0 1 1)) ∧
      (s.sqEn g = false → exec (.sqTail ⟨fn, page, 4⟩ v) s = .next (s.setRfld (rg g 0x38) 2 1 1)) ∧
      (s.cqEn g = true → cdiff v.toNat (s.cqCons g) ≤ held → ∃ t, exec (.cqHead ⟨fn, page, 4⟩ v) s = .next t ∧
        t.cqCons g = v.toNat ∧ t.cqProd g = s.cqProd g ∧ (∀ o, o ≠ rg g 0x28 → t.reg o = s.reg o)) ∧
      (s.cqEn g = true → held < cdiff v.toNat (s.cqCons g) →
        exec (.cqHead ⟨fn, page, 4⟩ v) s = .next (s.setRfld (rg g 0x38) 1 1 1)) ∧
      (s.cqEn g = false → exec (.cqHead ⟨fn, page, 4⟩ v) s = .next (s.setRfld (rg g 0x38) 2 1 1)) ∧
      (∀ size, size ≠ 4 → exec (.sqTail ⟨fn, page, size⟩ v) s = .next s ∧ exec (.cqHead ⟨fn, page, size⟩ v) s = .next s)

/-- R305-R309, R311: the decoder reads the packet at `HEAD` of the ring whose turn it is: padding is passed over, an opcode
that R316 does not list is answered `E_OPCODE`, a listed one with a wrong slot count and a header that cannot be trusted
`E_LENGTH`, and every other packet goes to its handler; a read that fails stops the ring. The oldest completion of a ring is
written at `PROD` with its phase, after the pad that it needs where its slots would run past the ring's end; with `IEN` its message
is sent, or marked pending where it is masked, once `COAL_CNT` completions are written or when the coalescing timer is due. It rests
on the model's own choices of logs 10, 118, 119. -/
def Obligations.RingTraffic : Prop :=
  ∀ (s : State) (ring : BitVec 9),
    let g := ring.toNat
    (∀ (bytes : List Byte) (heads : List (BitVec 9 × Byte × Byte)), s.mayRead g = true → s.inTurn g heads = true →
      g ∉ s.link.framed →
      let n := ofLE ((bytes.drop 2).take 1)
      let op := ofLE (bytes.take 1)
      let p : Packet := ⟨s.nextPkt, g, op, bytes.take (64 * max 1 n), s.arrivalOf g (max 1 n), s.devtime⟩
      let left := s.sqSize g - s.sqHead g % s.sqSize g
      let whole := 1 ≤ n ∧ n ≤ 16 ∧ n ≤ left ∧ n ≤ cdiff (s.sqTail g) (s.sqHead g)
      let room (k : Nat) : Prop := s.entriesUsed (g / 64) + k ≤ 8192
      let goes (k : Nat) (t : State) : Prop := exec (.packetRead ring bytes ⟨true, heads⟩) s = .next t ∧
        t.sqHead g = (s.sqHead g + n) % 2 ^ 32 ∧ t.sqTail g = s.sqTail g ∧
        (0 < k → t.nextPkt = s.nextPkt + 1 ∧ t.owed = s.owed ++ [⟨s.nextPkt, g, k, false⟩])
      (whole → op = 0 → ∃ t, goes 0 t ∧ t.owed = s.owed ∧ t.compl = s.compl ∧ t.fwq = s.fwq ∧ t.fast = s.fast) ∧
      (whole → op ≠ 0 → opSlots op = none → room 1 → ∃ t, goes 1 t ∧ t.compl = s.compl ++ [p.reply 0x20 s.devtime]) ∧
      (∀ lo hi, whole → op ≠ 0 → opSlots op = some (lo, hi) → n < lo ∨ hi < n → room (opEntries op) →
        (op = 0x21 ∨ op = 0x22 → s.sluice.length < 64) →
        ∃ t, goes 1 t ∧ t.compl = s.compl ++ [s.replyTo p 0x21 s.devtime 2] ∧ t.fwq = s.fwq ∧ t.fast = s.fast ∧
          t.sluice = s.sluice) ∧
      (whole → (op = 0x01 ∨ op = 0x40) → n = 1 → room 1 → ∃ t, goes 1 t ∧ t.fast = s.fast ++ [p]) ∧
      (whole → (op ∈ [0x02, 0x03, 0x10, 0x11, 0x20, 0x23, 0x25, 0x30, 0x31, 0x32, 0x50, 0x51, 0x60, 0x61, 0x62] ∧ n = 1 ∨
        op = 0x70) → room 1 → s.fwq.length < 128 → ∃ t, goes 1 t ∧ t.fwq = s.fwq ++ [p]) ∧
      (whole → op = 0x24 → n = 1 → room 2 → s.fwq.length < 128 → ∃ t, goes 2 t ∧ t.fwq = s.fwq ++ [p]) ∧
      (whole → op = 0x21 → n ≤ 2 → room 2 → s.sluice.length < 64 → p.bad (s.submitFields p) = none →
        ∃ t, goes 2 t ∧ t.sluice = s.sluice ++ [p]) ∧
      (whole → op = 0x22 → n = 1 → room 1 → s.sluice.length < 64 → p.bad (s.cancelFields p) = none →
        ∃ t, goes 1 t ∧ t.sluice = s.sluice ++ [p]) ∧
      let frames (k : Nat) (t : State) : Prop := exec (.packetRead ring bytes ⟨true, heads⟩) s = .next t ∧
        t.sqHead g = (s.sqHead g + k) % 2 ^ 32 ∧ t.rfld (rg g 0x38) 3 1 = 1 ∧ t.compl = s.compl ++ [p.reply 0x21 s.devtime 2]
      (n = 0 ∨ 16 < n → s.entriesUsed (g / 64) < 8192 → ∃ t, frames 1 t) ∧
      (1 ≤ n → n ≤ 16 → left < n → s.entriesUsed (g / 64) < 8192 →
        (left ≤ cdiff (s.sqTail g) (s.sqHead g) → ∃ t, frames left t) ∧
        (cdiff (s.sqTail g) (s.sqHead g) < left → ∃ t, frames 0 t ∧ t.link.framed = s.link.framed ++ [g])) ∧
      (∃ t, exec (.packetRead ring bytes ⟨false, heads⟩) s = .next t ∧ t.rfld (rg g 8) 7 1 = 1 ∧ t.rfld (rg g 0x38) 4 1 = 1 ∧
        t.sqHead g = s.sqHead g)) ∧
    (∀ (bytes : List Byte) (ok : HostFetch), s.mayRead g = true → s.inTurn g ok.heads = true → g ∈ s.link.framed →
      let left := s.sqSize g - s.sqHead g % s.sqSize g
      (cdiff (s.sqTail g) (s.sqHead g) < left → exec (.packetRead ring bytes ok) s = .next s) ∧
      (left ≤ cdiff (s.sqTail g) (s.sqHead g) → ∃ t, exec (.packetRead ring bytes ok) s = .next t ∧
        t.sqHead g = (s.sqHead g + left) % 2 ^ 32 ∧ g ∉ t.link.framed ∧ t.compl = s.compl ∧ t.owed = s.owed)) ∧
    (let fn := s.fnOf (g / 64)
      let vec := s.rfld (rg g 0x20) 8 11
      let masked := (s.reg (fn * 0x100000000 + msixEntry vec + 8)).getLsbD 32 = true ∨ s.fnSends fn = false
      ∀ c : Compl, s.compl.find? (fun c => c.ring == g) = some c → s.cqEn g = true → s.hostUp g = true →
        (∀ d ∈ s.compl, d.pkt ∉ c.after) →
        let late := ∃ j, c.judge = some j ∧ c.promised.toNat < s.devtime.toNat
        let size := s.cqSize g
        let prod := s.cqProd g
        let n := 1 + c.extra.length
        let tail := size - prod % size
        let pad := if n ≤ tail then 0 else tail
        let base := (s.reg (rg g 0x18)).toNat / 4096 * 4096
        let slots (status cause : Nat) : List (List Byte) :=
          List.replicate pad (toLE 2 0 ++ toLE 1 pad ++ toLE 61 0) ++ c.slot0 status cause s.devtime ::
            c.extra.map (fun b => b ++ toLE (64 - b.length) 0)
        let cell (b : List Byte) (i : Nat) : HostOut :=
          let at_ := (prod + i) % 2 ^ 32
          .write (g / 64) (base + 64 * (at_ % size)) (b.take 63 ++ [BitVec.ofNat 8 (1 - at_ / size % 2)])
        let k := (AMap.get (0, 0) s.link.coal g).1
        let ien := s.rfld (rg g 0x20) 7 1
        let full := max 1 (s.rfld (rg g 0x20) 20 8) ≤ k + 1
        pad + n ≤ s.cqFree g →
        ∃ t status cause, exec (.completionWrite ⟨ring, .good⟩) s = .next t ∧ (late → status = 0x30) ∧
          (¬late → status = c.status ∧ cause = c.cause) ∧
          t.cqProd g = (prod + pad + n) % 2 ^ 32 ∧ t.cqCons g = s.cqCons g ∧ t.compl = s.compl.erase c ∧ t.mem = s.mem ∧
          let out := s.hostOut ++ ((slots status cause).zipIdx.map (fun p => cell p.1 p.2))
          (ien = 0 → t.hostOut = out ∧ t.link.coal = s.link.coal) ∧
          (ien = 1 → ¬full → t.hostOut = out ∧ AMap.get (0, 0) t.link.coal g =
            (k + 1, if k = 0 then s.elapsed else (AMap.get (0, 0) s.link.coal g).2)) ∧
          (ien = 1 → full → AMap.get (0, 0) t.link.coal g = (0, 0) ∧
            (¬masked → t.hostOut = out ++ [.msix fn vec]) ∧
            (masked → t.hostOut = out ∧ (t.reg (fn * 0x100000000 + msixPba vec)).getLsbD (vec % 64) = true))) ∧
    (∀ k since, AMap.get (0, 0) s.link.coal g = (k, since) → k ≠ 0 → s.rfld (rg g 0x20) 7 1 = 1 →
      s.rfld (rg g 0x20) 28 12 ≠ 0 → since.toNat + 1000 * s.rfld (rg g 0x20) 28 12 ≤ s.elapsed.toNat →
      let fn := s.fnOf (g / 64)
      let vec := s.rfld (rg g 0x20) 8 11
      (s.reg (fn * 0x100000000 + msixEntry vec + 8)).getLsbD 32 = false → s.fnSends fn = true →
      ∃ t, exec (.coalescingTimer ring) s = .next t ∧ t.hostOut = s.hostOut ++ [.msix fn vec] ∧
        AMap.get (0, 0) t.link.coal g = (0, 0) ∧ t.regs = s.regs)

/-- R329, R330, R332, R333, R405, R406: what `NOP`, `SIGNAL`, `QUERY`, `FENCE`, `TRACE_CONTROL` `READ` and
`COUNTER_SNAPSHOT` answer, and what they change beside the completion that they form. It rests on the model's own
choices of log 72. -/
def Obligations.PacketQueries : Prop :=
  ∀ (s : State) (ring : BitVec 9) (p : Packet),
    let g := ring.toNat
    let n := p.part
    let u := s.unqueued p
    let now := s.devtime
    (s.fastHead g 0x01 = some p →
      (p.bad [] = none → s.answers (.nopCmd ring) (s.dropFast p) (p.reply 0x00 p.read now)) ∧
      (∀ off, p.bad [] = some off → s.answers (.nopCmd ring) (s.dropFast p) (p.reply 0x22 p.read (BitVec.ofNat 64 off)))) ∧
    (s.fastHead g 0x40 = some p → p.bad (s.signalFields p) = none →
      let core := p.num 16 2
      let words := (List.range (p.num 18 1 / 4 % 16)).map (fun i => BitVec.ofNat 32 (p.num (32 + 4 * i) 4))
      let m : Msg := ⟨deliveredHeader 0 s.devid 0 false true (p.num 20 2) (p.num 18 1 / 4 % 16), now, words⟩
      (s.dstate ≠ 6 ∨ s.present core = false → s.answers (.signal ring) (s.dropFast p) (p.reply 0x23 p.read 0xFF)) ∧
      (s.dstate = 6 → s.present core = true → s.pstate n = 0 →
        s.answers (.signal ring) (s.dropFast p) (p.reply 0x23 p.read 0)) ∧
      (s.dstate = 6 → s.present core = true → s.pstate n ≠ 0 → ∃ t, exec (.signal ring) s = .next t ∧
        t.msgs = s.msgs ++ [⟨s.nextMsg, .host n p.id, core, m⟩] ∧ t.compl = s.compl ∧ t.fast = (s.dropFast p).fast ∧
        ⟨p, core, p.num 18 1 % 4, m, true⟩ ∈ (t.part n).signals)) ∧
    (s.takesPkt g 0x02 p (s.queryFields p) →
      let b := p.num 20 4
      (p.num 16 1 = 0 → s.answers (.queryDevice ring .good) u (p.reply 0x00 now
        (BitVec.ofNat 64 (s.dstate + s.devid * 8 + s.rfld 0x10 16 16 * 2 ^ 24)))) ∧
      (p.num 16 1 = 1 → s.answers (.queryPartition ring .good) u { p.reply 0x00 now (s.reg (prt n 0x28)) with
        extra := [wordBytes [BitVec.ofNat 64 (s.heldBy n 0 + s.heldBy n 1 * 2 ^ 16 + s.heldBy n 2 * 2 ^ 32 +
          s.heldBy n 3 * 2 ^ 48), BitVec.ofNat 64 (s.sharedUsed n), BitVec.ofNat 64 (s.bulkCount n), s.reg (prt n 0xD8),
          s.reg (prt n 0xC0), s.reg (prt n 0xC8), s.reg (prt n 0xD0)]] }) ∧
      (p.num 16 1 = 2 → (∀ i ∈ (s.part n).items, i.berth ≠ some b) →
        s.answers (.queryBerth ring .good) u { p.reply 0x00 now (BitVec.ofNat 64 (s.berth n b).st.num) with
          berth := b, kind := if (s.berth n b).held then (s.berth n b).cls else 0xFF }) ∧
      (p.num 16 1 = 2 → ∀ i, (s.part n).items.find? (fun i => i.berth == some b) = some i →
        s.answers (.queryBerth ring .good) u { p.reply 0x00 now
            (BitVec.ofNat 64 ((s.berth n b).st.num + i.pkt.tag * 2 ^ 32)) with
          berth := b, kind := if (s.berth n b).held then (s.berth n b).cls else 0xFF, promised := i.promise
          start := if i.cls = 3 then ones64 else BitVec.ofNat 64 i.k0 }) ∧
      (p.num 16 1 = 3 → s.answers (.queryIndex ring .good) u (p.reply 0x00 now (BitVec.ofNat 64 (s.idxState b +
        if s.idxState b = 2 then AMap.get 1 s.moorUnits b * 2 ^ 32 else 0))))) ∧
    ((∀ j ∈ s.jobs, j.pkt.ring = g → j.kind = .fence → s.fenceOpen j.pkt = false) →
      s.takesPkt g 0x03 p [⟨16, 1, p.num 16 1 ≤ 1⟩] →
      exec (.fence ring .good) s = .next { u with jobs := s.jobs ++ [⟨p, now, .fence⟩] }) ∧
    (∀ j, s.jobs.find? (fun j => j.pkt.ring == g && j.kind == .fence && s.fenceOpen j.pkt) = some j →
      s.answers (.fence ring .good) { s with jobs := s.jobs.erase j } (j.pkt.reply 0x00 j.accepted)) ∧
    (s.takesPkt g 0x50 p (traceFields p) → p.num 16 1 = 4 →
      s.answers (.traceControlRead ring .good) u { p.reply 0x00 now (s.reg (trc n 0x10)) with start := s.reg (trc n 0x20) }) ∧
    (s.takesPkt g 0x51 p [⟨8, 8, p.param.toNat % 64 == 0⟩, ⟨16, 1, p.num 16 1 ≤ 1⟩, ⟨24, 4, true⟩] →
      let len := p.num 24 4
      let size := 256 + 704 * (s.sectCores n).length
      let addr := s.snapAddr n (s.rfld (trc n 0x30) 0 1) size
      (p.num 16 1 = 0 → len ≠ 0 → len < size →
        s.answers (.counterSnapshotLatest ring .good) u (s.replyTo p 0x22 now (BitVec.ofNat 64 size))) ∧
      (p.num 16 1 = 0 → size ≤ len → s.rfld (trc n 0x30) 1 1 = 1 → s.poisoned addr size = false →
        exec (.counterSnapshotLatest ring .good) s = .next { u with
          jobs := s.jobs ++ [⟨p, now, .snapshot (Memory.readBytes s.mem addr size)⟩] }) ∧
      (p.num 16 1 = 0 → size ≤ len → s.rfld (trc n 0x30) 1 1 = 0 →
        s.answers (.counterSnapshotLatest ring .good) u (s.replyTo p 0x23 now 0xFF)) ∧
      (p.num 16 1 = 1 → len = 0 → s.answers (.counterSnapshotNow ring .good) u (p.reply 0x00 now)) ∧
      (p.num 16 1 = 1 → size ≤ len → exec (.counterSnapshotNow ring .good) s = .next { u with
        jobs := s.jobs ++ [⟨p, now, .snapshot (s.snapBytes n ones64 now)⟩] }))

/-- R45, R47, R48, R53, R289, R328: the decision of a `SUBMIT`: the refusals in their order, capacity among them; for a hard class
the earliest start at which the work fits, and its promise; for `BULK` the queue; the berth that it names, or the free one that
`BERTH_ANY` takes, and the restore of the mooring that it names; what `CANCEL` does to an item that has not
started, to one that runs, and to one whose last step has ended. It rests on the model's own choices of logs 75, 89, 105, 106. -/
def Obligations.Admission : Prop :=
  (∀ (s : State) (p : Packet),
    let n := p.part
    let c := p.cls
    let now := s.devtime.toNat
    let u : State := { s with sluice := s.sluice.filter (fun q => q.id != p.id), decided := some s.devtime }
    let fails (status : Nat) (detail : W64) : Prop := ∃ t, exec (.submit .good) s = .next t ∧ t.sluice = u.sluice ∧
      t.compl = s.compl ++ [{ s.replyTo p status s.devtime detail with done := false }] ∧ (t.part n).items = (s.part n).items ∧
      (t.part n).berths = (s.part n).berths ∧ t.mem = s.mem ∧
      ∀ k, outcomeIx status = some k → t.reg (0x20100 + n * 0x40 + 8 * k) = s.reg (0x20100 + n * 0x40 + 8 * k) + 1
    let refuses (status : Nat) : Prop := fails status 0
    let named := p.num 16 2
    let x := s.berth n named
    let idx := p.num 28 2
    let slots := s.t2slots n
    let from_ := max now (s.reg (prt n 0xD8)).toNat
    let until_ := from_ + (1500 + (64 * ((AMap.get 1 s.moorUnits idx + 23) / 24) + slots - 1) / slots * 60)
    let rest : Option Restore :=
      if p.moored then some ⟨idx, BitVec.ofNat 64 from_, BitVec.ofNat 64 until_, false, false, slots⟩ else none
    let takes (status : Nat) (b : Option Nat) (k0 : Nat) (promise start : W64) (rest : Option Restore) : Prop :=
      ∃ t i r, exec (.submit .good) s = .next t ∧ t.sluice = u.sluice ∧ (t.part n).items = (s.part n).items ++ [i] ∧
        i.pkt = p ∧ i.cls = c ∧ i.berth = b ∧ i.named = decide (named ≠ 0xFFFF) ∧ i.k0 = k0 ∧ i.steps = p.num 20 4 ∧
        i.weight = p.num 24 1 ∧ i.started = false ∧ i.promise = promise ∧ i.rest = rest ∧
        (∀ d, b = some d → (t.berth n d).st = .admitted ∧ (t.berth n d).cls = c) ∧
        (∀ q, rest = some q → t.idxState idx = 3 ∧ t.reg (prt n 0xD8) = q.endAt) ∧
        t.compl = s.compl ++ [r] ∧ r.status = status ∧ r.promised = promise ∧ r.start = start ∧ r.final = false ∧
        r.berth = b.getD 0xFFFF
    nextSubmit s.sluice = some p → s.mayDecide = true →
    (s.pstate n ≠ 2 ∨ s.overrun n = true → refuses 0x13) ∧
    (s.pstate n = 2 → s.overrun n = false → s.clsOpen n c = false → refuses 0x14) ∧
    (s.pstate n = 2 → s.overrun n = false → s.clsOpen n c = true → p.num 20 4 = 0 → ∃ t, exec (.submit .good) s = .next t ∧
      t.compl = s.compl ++ [{ p.reply 0x00 s.devtime with promised := s.devtime }] ∧ (t.part n).items = (s.part n).items) ∧
    (s.pstate n = 2 → s.overrun n = false → s.clsOpen n c = true → p.num 20 4 ≠ 0 →
      let full := s.maxBerths n c < s.heldBy n c + 1
      let noPool := s.sharedBerths n < s.sharedUsed n + 1
      (named ≠ 0xFFFF → p.moored = true ∨ x.st ≠ .opened ∨ x.cls ≠ c →
        fails 0x23 (if x.opening.isSome then 1 else BitVec.ofNat 64 x.st.num)) ∧
      (named = 0xFFFF → p.moored = true → s.idxState idx ≠ 2 → fails 0x23 (BitVec.ofNat 64 (s.idxState idx))) ∧
      (c < 3 → ∀ b : Nat,
        (named = 0xFFFF → (p.moored = true → s.idxState idx = 2) →
          (full → refuses 0x12) ∧
          (¬full → s.rsvBerths n c ≤ s.heldBy n c → noPool → refuses 0x10) ∧
          (¬full → ¬(s.rsvBerths n c ≤ s.heldBy n c ∧ noPool) → s.freeBerth? n = none → refuses 0x10)) ∧
        (named ≠ 0xFFFF ∧ p.moored = false ∧ x.st = .opened ∧ x.cls = c ∧ b = named ∨
          named = 0xFFFF ∧ (p.moored = true → s.idxState idx = 2) ∧ ¬full ∧ ¬(s.rsvBerths n c ≤ s.heldBy n c ∧ noPool) ∧
            s.freeBerth? n = some b →
          (s.below n = true → refuses 0x11) ∧
          (s.below n = false → p.moored = true → slots = 0 → refuses 0x11) ∧
          (s.below n = false → (p.moored = true → slots ≠ 0) →
            let ready := (if p.moored then (BitVec.ofNat 64 until_ : W64).toNat else now) + s.rfld 0x20000 0 16
            let k := (ready - s.t0 n + s.period n - 1) / s.period n
            let cur := (now - s.t0 n) / s.period n
            (cur + 256 < k → refuses 0x11) ∧
            (k ≤ cur + 256 →
              (∀ k0 promise, s.search p cur (cur + 257 - k) k = some (k0, promise) →
                takes (if promise ≤ p.param.toNat then 0x01 else 0x02) (some b) k0 (BitVec.ofNat 64 promise) (BitVec.ofNat 64 k0) rest) ∧
              (s.search p cur (cur + 257 - k) k = none →
                let ran := s.t0 n + (k + p.num 20 4 - 1) * s.period n + s.declB n + 2000 ≤ p.param.toNat ∨ p.late = true
                let tooMany := s.overMax n c (p.num 24 1) cur k (min (k + p.num 20 4 - 1) (cur + 256))
                refuses (if ran ∧ tooMany = true then 0x12 else 0x11)))))) ∧
      (c = 3 →
        let free := takes 0x02
        (named ≠ 0xFFFF → p.moored = false → x.st = .opened → x.cls = c → s.bulkCount n < 1024 →
          free (some named) 0 ones64 ones64 none) ∧
        (named = 0xFFFF → p.moored = false → s.bulkCount n < 1024 → free none 0 ones64 ones64 none) ∧
        (named ≠ 0xFFFF ∧ p.moored = false ∧ x.st = .opened ∧ x.cls = c ∨ named = 0xFFFF ∧ (p.moored = true → s.idxState idx = 2) →
          1024 ≤ s.bulkCount n → refuses 0x12) ∧
        (named = 0xFFFF → p.moored = true → s.idxState idx = 2 → s.bulkCount n < 1024 →
          (full → refuses 0x12) ∧ (¬full → noPool → refuses 0x10) ∧
          (¬full → ¬noPool → s.freeBerth? n = none → refuses 0x10) ∧
          (∀ b, ¬full → ¬noPool → s.freeBerth? n = some b →
            (slots = 0 → refuses 0x11) ∧ (slots ≠ 0 → free (some b) 0 ones64 ones64 rest)))))) ∧
  (∀ (s : State) (p : Packet) (cur k fuel k0 promise : Nat), s.search p cur fuel k = some (k0, promise) →
    let fits (j : Nat) : Bool := s.fits p.part p.cls p.sWeight cur j (min (j + p.sSteps - 1) (cur + 256))
    k ≤ k0 ∧ k0 < k + fuel ∧ fits k0 = true ∧ (∀ j, k ≤ j → j < k0 → fits j = false) ∧
      promise = s.t0 p.part + (k0 + p.sSteps - 1) * s.period p.part + s.declB p.part + 2000 ∧
      (p.late = false → promise ≤ p.param.toNat)) ∧
  (∀ (s : State) (ring : BitVec 9) (p : Packet),
    let g := ring.toNat
    let n := p.part
    let target := s.cancelTarget n (p.num 16 4) (p.num 20 2)
    let u : State := { s with sluice := s.sluice.filter (fun q => q.id != p.id), decided := some s.devtime }
    nextCancel (s.sluice.filter (fun q => q.ring != g)) (s.sluice.filter (fun q => q.ring == g)) = some p →
    s.mayDecide = true → s.dstate = 6 →
    (target = none → s.answers (.cancel ring .good) u (s.replyTo p 0x23 s.devtime 0xFF)) ∧
    (∀ i, target = some i → i.cancelled = true ∨ s.itemEnds i = true →
      s.answers (.cancel ring .good) u (s.replyTo p 0x23 s.devtime 0xFF)) ∧
    (∀ i, target = some i → i.cancelled = false → i.broken = false → i.running = true → s.itemEnds i = false →
      s.answers (.cancel ring .good) (u.setItem { i with cancelled := true }) (s.replyTo p 0x00 s.devtime)) ∧
    (∀ i, target = some i → i.cancelled = false → i.broken = false → i.running = false → i.started = false →
      i.pkt.part = n → ∃ t r, exec (.cancel ring .good) s = .next t ∧
        t.compl = s.compl ++ [r, { t.replyTo p 0x00 s.devtime with after := [i.pkt.id] }] ∧ r.pkt = i.pkt.id ∧ r.final = true ∧
        r.status = 0x31 ∧ r.cause = 0x11 ∧ ∀ j ∈ (t.part n).items, j.pkt.id ≠ i.pkt.id))

/-- R334, R335, R285, R286: what opening and closing a berth, `MOOR` and `UNMOOR` make of a berth and an index in a state
that allows them, and how they are refused in one that does not. It rests on the model's own choices of logs 61, 89. -/
def Obligations.PacketBerths : Prop :=
  ∀ (s : State) (ring : BitVec 9) (p : Packet),
    let g := ring.toNat
    let n := p.part
    let b := p.num 16 2
    let x := s.berth n b
    let u := s.unqueued p
    let now := s.devtime
    (s.mayDecide = true → s.sluice.length < 64 →
      s.takesPkt g 0x20 p [⟨3, 1, p.cls < 4⟩, ⟨16, 2, s.inBerths n b⟩, ⟨32, 32, true⟩] → s.pstate n ≠ 0 →
      let c := p.cls
      let refuses (status : Nat) (d : W64) : Prop := ∃ t, exec (.openBerth ring .good) s = .next t ∧
        t.compl = s.compl ++ [s.replyTo p status now d] ∧ (t.part n).berths = (s.part n).berths ∧ t.jobs = s.jobs
      (s.clsOpen n c = false → refuses 0x14 0) ∧
      (s.clsOpen n c = true → x.held = true →
        refuses 0x23 (BitVec.ofNat 64 (if x.opening.isSome then 1 else x.st.num))) ∧
      (s.clsOpen n c = true → x.held = false → s.maxBerths n c ≤ s.heldBy n c → refuses 0x12 0) ∧
      (s.clsOpen n c = true → x.held = false → s.heldBy n c < s.maxBerths n c → s.rsvBerths n c ≤ s.heldBy n c →
        s.sharedBerths n ≤ s.sharedUsed n → refuses 0x10 0) ∧
      (s.clsOpen n c = true → x.held = false → s.heldBy n c < s.maxBerths n c →
        (s.heldBy n c < s.rsvBerths n c ∨ s.sharedUsed n < s.sharedBerths n) →
        ∃ t, exec (.openBerth ring .good) s = .next t ∧ t.berth n b = ⟨.free, c, some ((p.bytes.drop 32).take 32)⟩ ∧
          t.jobs = s.jobs ++ [⟨p, now, .openB b⟩] ∧ t.compl = s.compl ∧ t.mem = s.mem)) ∧
    (s.takesPkt g 0x23 p [⟨16, 2, s.inBerths n b⟩] → s.pstate n ≠ 0 →
      (x.st ≠ .opened → s.answers (.closeBerth ring .good) u
        (s.replyTo p 0x23 now (BitVec.ofNat 64 (if x.opening.isSome then 1 else x.st.num)))) ∧
      (x.st = .opened → exec (.closeBerth ring .good) s =
        .next { u.setBerth n b { x with st := .closing } with jobs := s.jobs ++ [⟨p, now, .closeB b⟩] })) ∧
    (s.takesPkt g 0x24 p [⟨16, 2, s.inBerths n b⟩, ⟨20, 2, s.inIdx n (p.num 20 2)⟩] → s.inBerths n b = true →
      s.inIdx n (p.num 20 2) = true →
      let i := p.num 20 2
      (x.st ≠ .opened → s.answers (.moor ring .good) u
        (s.replyTo p 0x23 now (BitVec.ofNat 64 (if x.opening.isSome then 1 else x.st.num)))) ∧
      (x.st = .opened → s.idxState i ≠ 0 →
        s.answers (.moor ring .good) u (s.replyTo p 0x23 now (BitVec.ofNat 64 (s.idxState i)))) ∧
      (x.st = .opened → s.idxState i = 0 → u.moorBad n b = none →
        ∃ t, exec (.moor ring .good) s = .next t ∧ t.berth n b = { x with st := .closing } ∧ t.idxState i = 1 ∧
          (t.part n).moors = (s.part n).moors ++ [(⟨p, now, .moor b i⟩, false)] ∧
          t.compl = s.compl ++ [{ p.reply 0x00 now with final := false, berth := b, kind := x.cls, waited := true }])) ∧
    (s.takesPkt g 0x25 p [⟨20, 2, s.inIdx n (p.num 20 2)⟩] → s.inIdx n (p.num 20 2) = true →
      let i := p.num 20 2
      (s.idxState i ≠ 2 → s.answers (.unmoor ring .good) u (p.reply 0x23 now (BitVec.ofNat 64 (s.idxState i)))) ∧
      (s.idxState i = 2 → ∃ t, exec (.unmoor ring .good) s = .next t ∧ t.idxState i = 0 ∧
        t.reg (prt n 0xD0) = s.reg (prt n 0xD0) + 1 ∧ t.compl = s.compl ++ [p.reply 0x00 now] ∧ t.parts = s.parts))

/-- R336, R200: a copy of no bytes is done at once; one whose lines all translate becomes the job whose bytes
`COPY_COMPLETE` moves to or from host memory; the oldest signal that the control complex holds becomes a completion of
the ring that `PRT_HSIG` names. It rests on the model's own choices of logs 15, 28. -/
def Obligations.PacketCopies : Prop :=
  (∀ (s : State) (ring : BitVec 9) (p : Packet),
    let g := ring.toNat
    let n := p.part
    let u := s.unqueued p
    let len := p.num 24 4
    let copies (i : Instr) (op : Nat) (fill : Bool) (need : Need) : Prop :=
      s.takesPkt g op p [⟨8, 8, true⟩, ⟨16, 8, !fill || p.num 16 8 % 8 == 0⟩, ⟨24, 4, !fill || p.num 24 4 % 8 == 0⟩] →
      p.op = op →
      (len = 0 → s.answers i u (p.reply 0x00 s.devtime)) ∧
      (∀ a, len ≠ 0 → u.devBad n (p.num 16 8) len need false = some a →
        s.answers i u (s.replyTo p 0x22 s.devtime (BitVec.ofNat 64 (16 + a % 2 ^ 48 * 65536)))) ∧
      (len ≠ 0 → u.devBad n (p.num 16 8) len need false = none → exec i s = .next { u with
        jobs := s.jobs ++ [⟨p, s.devtime, .copy ((spans (p.num 16 8) len).map (fun x =>
          ((u.devAddr n x.1 need).getD 0, x.2)))⟩] })
    copies (.copyIn ring .good) 0x30 false .write ∧ copies (.copyOut ring .good) 0x31 false .read ∧
      copies (.fill ring .good) 0x32 true .write) ∧
  (∀ (s : State) (ring : BitVec 9) (j : Job) (pa k : Nat) (bytes : List Byte),
    s.jobs.find? (fun j => j.pkt.ring == ring.toNat && (match j.kind with
      | .copy _ => true
      | .stage _ _ => true
      | .snapshot _ => true
      | _ => false)) = some j → j.kind = .copy [(pa, k)] → 0 < k → j.pkt.num 24 4 = k → s.homeUp pa = true →
    let ends (t : State) : Prop := exec (.copyComplete ring bytes true) s = .next t ∧ t.jobs = s.jobs.erase j ∧
      t.compl = s.compl ++ [{ j.pkt.reply 0x00 j.accepted with waited := true, moved := k }]
    (j.pkt.op = 0x30 → bytes.length = k → ∃ t, ends t ∧ t.mem = Memory.writeBytes s.mem pa bytes ∧ t.hostOut = s.hostOut) ∧
    (j.pkt.op = 0x31 → s.poisoned pa k = false → ∃ t, ends t ∧ t.mem = s.mem ∧ t.hostOut = s.hostOut ++
      [.write j.pkt.part j.pkt.param.toNat (Memory.readBytes s.mem pa k)]) ∧
    (j.pkt.op = 0x32 → k % 8 = 0 → ∃ t, ends t ∧ t.hostOut = s.hostOut ∧ t.mem = Memory.writeBytes s.mem pa
      ((List.replicate (k / 8) (toLE 8 j.pkt.param.toNat)).flatten))) ∧
  (∀ (s : State) (part : BitVec 3) (h : HSig) (rest : List HSig),
    let n := part.toNat
    let g := 64 * n + s.rfld (prt n 0x130) 0 6
    (s.part n).hsigs = h :: rest → s.cqEn g = true → 1 ≤ s.cqFree g →
    ∃ t c, exec (.hsigCompletionPost part) s = .next t ∧ (t.part n).hsigs = rest ∧ t.compl = s.compl ++ [c] ∧ c.ring = g ∧
      c.hsig = true ∧ c.status = 0 ∧ c.accepted = h.time ∧ c.detail = h.value ∧ c.berth = h.core ∧
      c.kind = h.thr.toNat + 4 * h.n.toNat ∧ t.cores = s.cores)

/-- R337, R445, R406, R380, R338: an image is staged where its checks pass, and committed where nothing stops it; register
words of a packet are written as the host would write them, all or none; a point of operation is staged for the halves
named. It rests on the model's own choices of logs 19, 25, 27, 29. -/
def Obligations.PacketConfig : Prop :=
  ∀ (s : State) (ring : BitVec 9) (p : Packet),
    let g := ring.toNat
    let n := p.part
    let u := s.unqueued p
    let now := s.devtime
    let sel := p.num 16 1
    (∀ head, s.takesPkt g 0x10 p [⟨8, 8, true⟩, ⟨24, 4, true⟩] → s.stageScope head p = true →
      let len := p.num 24 4
      (len = 0 → s.answers (.stageConfig ring .good head true) u (p.reply 0x00 now)) ∧
      (s.stageMib * 2 ^ 20 < len →
        exec (.stageConfig ring .good head true) s =
          .next ((u.post (s.replyTo p 0x22 now (BitVec.ofNat 64 24))).markWaited p.id)) ∧
      (0 < len → len ≤ s.stageMib * 2 ^ 20 → exec (.stageConfig ring .good head true) s =
        .next (({ u with jobs := s.jobs ++ [⟨p, now, .stage (head.take (min 64 len)) len⟩] } : State).markWaited p.id))) ∧
    (∀ (j : Job) (head bytes : List Byte) (len : Nat),
      s.jobs.find? (fun j => j.pkt.ring == g && (match j.kind with
        | .copy _ => true
        | .stage _ _ => true
        | .snapshot _ => true
        | _ => false)) = some j → j.kind = .stage head len → head.length + bytes.length = len → 13 ≤ len →
      (∀ c ∈ s.compl, c.pkt ≠ j.pkt.id) →
      let b := head ++ bytes
      (imgBad b .command = none → ∃ t, exec (.copyComplete ring bytes true) s = .next t ∧
        t.stagedFor (imgTarget b) = b ∧ t.rfld (cfgStage (imgTarget b)) 0 1 = 1 ∧ t.mem = (s.fillBuf (imgTarget b) b).mem ∧
        t.compl = s.compl ++ [{ j.pkt.reply 0x00 now with waited := true, moved := len }]) ∧
      (∀ off, imgBad b .command = some off → ∃ t, exec (.copyComplete ring bytes true) s = .next t ∧
        t.compl = s.compl ++ [{ j.pkt.reply 0x25 now (BitVec.ofNat 64 off) with waited := true, moved := len }] ∧
        t.staged = s.staged ∧ t.mem = (if imgTarget b ≤ 8 then s.fillBuf (imgTarget b) b else s).mem)) ∧
    (s.takesPkt g 0x11 p [⟨8, 8, true⟩, ⟨16, 1, sel ≤ 8⟩] → sel < 8 → s.otherScope p = true →
      let b := s.stagedFor sel
      let q := programOf b
      (b = [] → s.answers (.commitConfig ring .good) u (p.reply 0x23 now 0xFF)) ∧
      (b ≠ [] → s.sects sel ≠ 0 → u.commitBad sel b q = none → s.pstate sel ≤ 1 → (∀ i ∈ (s.part sel).items, i.cls = 3) →
        let job : Job := ⟨p, now, .commit sel⟩
        let t0 := if s.changes sel q then
          some (BitVec.ofNat 64 (newT0 p.param.toNat now.toNat (1000 * q.pus))) else none
        ∃ t, exec (.commitConfig ring .good) s = .next t ∧ t.jobs = s.jobs ++ [job] ∧ t.compl = s.compl ∧
          (t.part sel).commits = (s.part sel).commits ++ [⟨q, t0, job⟩] ∧ t.stagedFor sel = [])) ∧
    (s.takesPkt g 0x11 p [⟨8, 8, true⟩, ⟨16, 1, true⟩] → sel = 8 → s.otherScope p = true →
      let b := s.stagedFor 8
      let d := deviceOf b (match sectsOf b 0x10 with | t :: _ => t.off | [] => 0)
      (b = [] → s.answers (.commitConfigDevice ring .good) u (s.replyTo p 0x23 now 0xFF)) ∧
      (b ≠ [] → s.dstate = 5 ∨ s.dstate = 6 → u.deviceStop d p.id = none → u.slotsOk d = true →
        exec (.commitConfigDevice ring .good) s = .next ((u.consume 8).installDevice d [⟨p, now, .commit 8⟩]))) ∧
    (s.takesPkt g 0x50 p (traceFields p) →
      let writes (i : Instr) (ws : List (Nat × W64)) (d : State → W64) : Prop :=
        (∀ t, u.regWrites ws = some t → s.answers i t (p.reply 0x00 t.devtime (d t))) ∧
        (u.regWrites ws = none → s.answers i u (s.replyTo p 0x23 now 0xFF))
      (sel = 0 → writes (.traceControlSetRing ring .good) [(trc n 0, p.word 0), (trc n 8, p.word 1)] (fun t => t.reg (trc n 8))) ∧
      (sel = 1 → writes (.traceControlSetCfg ring .good) [(trc n 8, p.word 0)] (fun t => t.reg (trc n 8))) ∧
      (sel = 2 → writes (.traceControlSetCons ring .good) [(trc n 0x18, p.word 0)] (fun t => t.reg (trc n 0x10))) ∧
      (sel = 3 → writes (.traceControlSetSnapbase ring .good) [(trc n 0x28, p.word 0)] (fun _ => 0))) ∧
    (s.takesPkt g 0x62 p [⟨16, 1, 1 ≤ sel && sel ≤ 3⟩, ⟨17, 1, p.num 17 1 ≤ 2⟩] → s.privScope p = true →
      let v := p.num 17 1
      (∀ h, (sel.testBit 0 = true ∧ h = 0) ∨ (sel.testBit 1 = true ∧ h = 1) → s.reqRefused h v = true →
        s.answers (.setOperatingPoint ring .good) u (s.replyTo p 0x23 now 0xFF)) ∧
      (sel = 1 → s.reqRefused 0 v = false → ∃ t, exec (.setOperatingPoint ring .good) s = .next t ∧
        t.compl = s.compl ++ [p.reply 0x00 now (BitVec.ofNat 64 ((u.stageReq 0 v).live 0 + 4 * (u.stageReq 0 v).live 1))] ∧
        t.west = (u.stageReq 0 v).west ∧ t.east = s.east)) ∧
    (s.takesPkt g 0x70 p (fabFields p) → s.privScope p = true →
      let i := p.num 17 1
      let writes (c : Instr) (ws : List (Nat × W64)) (o : Nat) : Prop :=
        (∀ t, u.regWrites ws = some t → s.answers c t (p.reply 0x00 t.devtime (t.reg o))) ∧
        (u.regWrites ws = none → s.answers c u (s.replyTo p 0x23 now 0xFF))
      (sel = 0 → writes (.fabricControlPort ring .good) [(0x51008 + 0x100 * i, p.word 0)] (0x51008 + 0x100 * i)) ∧
      (sel = 1 → writes (.fabricControlTorus ring .good)
        ((0x50008, p.word 0) :: (List.range 8).map (fun d => (0x50040 + 8 * d, p.word (1 + d)))) 0x50008) ∧
      (sel = 2 → writes (.fabricControlExport ring .good)
        [(0x54000 + n * 0x100 + i * 0x10, p.word 0), (0x54008 + n * 0x100 + i * 0x10, p.word 1)]
        (0x54000 + n * 0x100 + i * 0x10)) ∧
      (sel = 3 → writes (.fabricControlPostRing ring .good)
        [(0x58000 + 0x20 * i, p.word 0), (0x58008 + 0x20 * i, p.word 1)] (0x58000 + 0x20 * i)) ∧
      (sel = 4 → writes (.fabricControlBarrier ring .good)
        [(0x56000 + n * 0x100 + i * 0x10, p.word 0), (0x56008 + n * 0x100 + i * 0x10, p.word 1)]
        (0x56000 + n * 0x100 + i * 0x10)) ∧
      (sel = 5 → writes (.fabricControlTime ring .good) [(0x50028, p.word 0), (0x50018, p.word 1)] 0x50028) ∧
      (sel = 6 → s.answers (.fabricControlReadPort ring .good) u (p.reply 0x00 now (s.reg (0x51000 + 0x100 * i)))))

/-- R339, R340, R445: a hold of a partition with no step makes it `HELD`; one with a step drains it first; a release runs
it again where no watchdog, conservation or quarantine hold is left. A reset clears its cores, ends its work and
answers with the number of commands that it aborted. A commit whose T0 has come takes effect, or, where hard work has
been admitted meanwhile, is refused (R37). It rests on the model's own choices of logs 66, 68, 120. -/
def Obligations.PartitionControl : Prop :=
  (∀ (s : State) (ring : BitVec 9) (p : Packet),
    let g := ring.toNat
    let n := p.num 16 1
    let u := s.unqueued p
    let now := s.devtime
    s.takesPkt g 0x61 p [⟨16, 1, n ≤ 7⟩, ⟨17, 1, p.num 17 1 ≤ 1⟩] → n ≤ 7 → s.otherScope p = true →
    (p.num 17 1 = 0 → s.pstate n = 0 → s.answers (.holdPartitionHold ring .good) u (s.replyTo p 0x23 now 0)) ∧
    (p.num 17 1 = 0 → s.pstate n ≠ 0 → (s.part n).step = none → ∃ t, exec (.holdPartitionHold ring .good) s = .next t ∧
      t.pstate n = 1 ∧ t.compl.getLast? = some (p.reply 0x00 now) ∧ rget (t.part n).cause 6 = rget (s.part n).cause 6 + 1) ∧
    (p.num 17 1 = 0 → s.pstate n = 2 → (s.part n).step.isSome = true → ∃ t,
      exec (.holdPartitionHold ring .good) s = .next t ∧ t.pstate n = 3 ∧ t.jobs = s.jobs ++ [⟨p, now, .hold n⟩] ∧
      t.compl = s.compl) ∧
    (p.num 17 1 = 1 → s.pstate n = 0 ∨ s.pstate n = 3 →
      s.answers (.holdPartitionRelease ring .good) u (s.replyTo p 0x23 now (BitVec.ofNat 64 (s.pstate n)))) ∧
    (p.num 17 1 = 1 → s.pstate n = 2 → s.answers (.holdPartitionRelease ring .good) u (p.reply 0x00 now)) ∧
    (p.num 17 1 = 1 → s.pstate n = 1 → s.noHold n = false →
      s.answers (.holdPartitionRelease ring .good) u (s.replyTo p 0x23 now 1)) ∧
    (p.num 17 1 = 1 → s.pstate n = 1 → s.noHold n = true → ∃ t, exec (.holdPartitionRelease ring .good) s = .next t ∧
      t.pstate n = 2 ∧ t.compl = s.compl ++ [p.reply 0x00 now] ∧ (t.part n).lateHold = false ∧ t.cores = s.cores)) ∧
  (∀ (s : State) (ring : BitVec 9) (p : Packet),
    let n := p.num 16 1
    let u : State := { s.unqueued p with decided := some s.devtime }
    let r := u.resetPart n p.id
    s.mayDecide = true → s.takesPkt ring.toNat 0x60 p [⟨16, 1, n ≤ 7⟩] → n ≤ 7 → s.otherScope p = true →
    (s.pstate n = 0 → s.answers (.resetPartition ring .good) (s.unqueued p) (s.replyTo p 0x23 s.devtime 0)) ∧
    (s.pstate n ≠ 0 → ∃ t c, exec (.resetPartition ring .good) s = .next t ∧ t.compl = r.1.compl ++ [c] ∧ c.pkt = p.id ∧
      c.status = 0 ∧ c.detail = BitVec.ofNat 64 r.2 ∧ t.cores = r.1.cores ∧ t.mem = r.1.mem ∧ t.regs = r.1.regs)) ∧
  (∀ (s : State) (n : Nat) (id : Nat), n < 8 → (∀ i ∈ (s.part n).items, i.pkt.part = n) →
    let t := (s.resetPart n id).1
    (t.part n).step = none ∧ (t.part n).items = [] ∧ (t.part n).moors = [] ∧
      ∀ c ∈ s.partCores n, (t.core c).penn = 0 ∧ (t.core c).mem.accs.all Acc.writes = true ∧ ∀ q, (t.core c).mu.queue q = []) ∧
  (∀ (s : State) (target : BitVec 3) (c : Commit),
    let n := target.toNat
    (s.part n).commits.find? (fun c => match c.t0 with | some t => t ≤ s.devtime | none => false) = some c →
    (s.part n).step = none →
    (s.hardWork n = true → ∃ t, exec (.commitTakesEffect target) s = .next t ∧ (t.part n).prog = (s.part n).prog ∧
      t.compl = s.compl ++ [{ c.job.pkt.reply 0x23 c.job.accepted (BitVec.ofNat 64 (s.pstate n)) with waited := true }] ∧
      (t.part n).commits = (s.part n).commits.erase c) ∧
    (s.hardWork n = false →
    ∃ t, exec (.commitTakesEffect target) s = .next t ∧ (t.part n).prog = some c.prog ∧ t.rfld (prt n 0x10) 0 18 = c.prog.pus % 2 ^ 18 ∧
      (∃ r, t.compl.getLast? = some r ∧ r.pkt = c.job.pkt.id ∧ r.status = 0) ∧
      (∀ t0, c.t0 = some t0 → t.reg (prt n 0x20) = t0 ∧ (t.part n).nextK = 0)))

/-- R416, R417, R419, R446, R453, R457, R464, R412: each event that leads to `FAULT` takes the device there with its cause, stops
every thread of the partitions' present cores, leaves no partition `RUNNING`, and records the time; after a thermal trip
`THERMTRIP_N` is low. In `FAULT` an event is counted and nothing more. A rail out of its window in `POR` faults when `POR`
ends. It rests on the model's own choices of logs 20, 84, 85, 142. -/
def Obligations.FaultEntry : Prop :=
  (∀ s : State, 2 ≤ s.dstate → s.dstate ≠ 7 →
    let faults (i : Instr) (cause : Nat) (t : State) : Prop := exec i s = .next t ∧ t.dstate = 7 ∧
      (s.rfld 0x10000 10 1 = 0 ∨ cause ∈ [1, 3, 6] → t.rfld 0x80000 0 1 = 1 ∧ t.rfld 0x80000 8 8 = cause ∧
        t.reg 0x80008 = s.devtime ∧ ∀ n, n < 8 → t.pstate n = if s.pstate n = 2 then 1 else s.pstate n) ∧
      ∀ n, n < 8 → ∀ c ∈ s.partCores n, ∀ u, (t.ctl c u).stopped = true ∧ (t.ctl c u).run = false ∧ (t.thread c u).wait = none
    (∃ t, faults .thermalTrip 4 t ∧ t.pins.therm = true) ∧
    (∃ t, faults .supplyRailOutOfWindow 5 t) ∧ (∃ t, faults .referenceClockLoss 5 t) ∧
    (∀ mv : BitVec 12, mv.toNat < 1620 → ∃ t, faults (.vddAuxLoss mv) 5 t ∧
      (mv.toNat < 180 → t.boot.posReq = [] ∧ t.boot.coreReq = [])) ∧
    (4 ≤ s.dstate → (∃ t, faults (.lockstepMismatch ⟨false, false⟩) 1 t) ∧ ∃ t, faults (.lockstepMismatch ⟨true, false⟩) 2 t) ∧
    (∀ stack, ∃ t, faults (.hbmStackFailure stack) 7 t) ∧ (∃ t, faults .d2dRetrainTimeout 6 t) ∧
    (∀ half : Bool, s.inWindow half.toNat = false → s.pins.porst = true → s.pins.therm = false →
      ∃ t, faults (.pgChange half false) 5 t) ∧
    (∀ half : Bool, (s.half half.toNat).window = true → s.inWindow half.toNat = false → (s.half half.toNat).pg = false →
      s.pins.therm = false → ∃ t, faults (.pgWindowExpiry half) 5 t) ∧
    (∀ m : Mismatch, s.boot.held = true → 0x81 ≤ m.check.toNat → m.check.toNat ≤ 0x84 →
      ∃ t, faults (.deviceConservationAudit (some m)) 9 t) ∧
    (∀ m, s.boot.held = true → s.auditSeam = some m → ∃ t, faults (.deviceConservationAudit none) 9 t)) ∧
  (∀ s : State, s.dstate = 7 →
    let only (i : Instr) (src : Nat) : Prop := ∃ t, exec i s = .next t ∧ s.counts t (0x80100 + 8 * src) 32 32 ∧ t.dstate = 7 ∧
      t.rfld 0x80000 8 8 = s.rfld 0x80000 8 8 ∧ t.reg 0x80008 = s.reg 0x80008 ∧ t.cores = s.cores ∧ t.mem = s.mem
    only .thermalTrip 21 ∧ only .supplyRailOutOfWindow 21 ∧ only .referenceClockLoss 21 ∧ only .d2dRetrainTimeout 13 ∧
      (∀ stack, only (.hbmStackFailure stack) 11) ∧ ∀ cp1, only (.lockstepMismatch ⟨cp1, false⟩) 17) ∧
  (∀ s : State, s.dstate = 1 → s.pins.porst = true →
    exec .supplyRailOutOfWindow s = .next { s with boot := { s.boot with railBad := true } } ∧
    ∀ failed d2d, s.boot.porDone = true → s.boot.railBad = true → ∃ t, exec (.selftest failed d2d) s = .next t ∧ t.dstate = 7)

/-- R413, R415, R278, R423-R426: a tier 2 port whose link fails leaves service for every partition; a die-to-die CRC error,
and an error that the code of a control processor's memories corrects, are counted; a scrub pass that ends is counted; a suspect core is
quarantined: it becomes absent, its threads stop, its partition is told, and held at once or when its step ends. It rests on the
model's own choices of log 48. -/
def Obligations.ErrorEvents : Prop :=
  (∀ (s : State) (port : BitVec 5), port.toNat < 24 → 3 ≤ s.dstate → s.rfld 0x40000 (32 + port.toNat) 1 = 1 →
    ∃ t, exec (.tier2PortLinkFailure port) s = .next t ∧ t.rfld 0x40000 (32 + port.toNat) 1 = 0 ∧ t.dstate = s.dstate ∧
      t.mem = s.mem ∧ ∀ n, n < 8 → rget (t.part n).cause 1 = rget (s.part n).cause 1 + 1) ∧
  (∀ s : State, 2 ≤ s.dstate → ∃ t, exec .d2dFlitCrcError s = .next t ∧
    t.rfld 0x80168 0 32 = min (s.rfld 0x80168 0 32 + 1) (2 ^ 32 - 1) ∧ t.mem = s.mem ∧ t.cores = s.cores) ∧
  (∀ (s : State) (cp1 : Bool), 4 ≤ s.dstate → ∃ t, exec (.lockstepMismatch ⟨cp1, true⟩) s = .next t ∧
    s.counts t (0x80100 + 8 * 17) 0 32 ∧ t.dstate = s.dstate ∧ t.mem = s.mem ∧ t.cores = s.cores) ∧
  (∀ (s : State) (pa : W64), 4 ≤ s.dstate → s.dstate ≠ 7 → s.homeUp pa.toNat = true →
    (inTier1 pa.toNat = true → ∃ t, exec (.scrubAccess pa .good true) s = .next t ∧
      t.rfld 0x40010 32 16 = (s.rfld 0x40010 32 16 + 1) % 2 ^ 16 ∧ t.mem = s.mem) ∧
    (inTier2 pa.toNat = true → ∃ t, exec (.scrubAccess pa .good true) s = .next t ∧
      t.rfld 0x40010 48 16 = (s.rfld 0x40010 48 16 + 1) % 2 ^ 16 ∧ t.mem = s.mem)) ∧
  (∀ (s : State) (core : BitVec 10) (n : Nat),
    let c := core.toNat
    (s.reg (0x80800 + 8 * (c / 64))).getLsbD (c % 64) = true → s.rfld 0x80030 0 1 = 1 → s.present c = true →
    s.partOf c = some n → n < 8 →
    ∃ t, exec (.quarantine core) s = .next t ∧ t.present c = false ∧ (t.reg (0x80880 + 8 * (c / 64))).getLsbD (c % 64) = true ∧
      ((s.part n).step = none → t.quarHold n = true ∧ t.pstate n ≠ 2) ∧
      (∀ r, (s.part n).step = some r → t.quarHold n = s.quarHold n ∧
        (t.part n).step = some { r with broken := r.broken || !(s.part n).finalDone, quar := true }) ∧
      (∀ u, (t.ctl c u).stopped = true ∧ (t.thread c u).wait = none) ∧
      (∀ a ∈ (t.core c).mem.accs, a.orphan = true ∧ a.writes = true) ∧
      (∀ q, (t.core c).mu.queue q = []) ∧ (∀ d ∈ t.partCores n, (t.core d).penn.getLsbD 31 = true))

/-- R257, R457, R462, R463: the voltage request is lowered when it is due; `PG` is read, and judged when the window of a
change has passed; a half that is too hot is throttled and one of the halves is capped above the limit. It rests on
the model's own choices of logs 17, 32. -/
def Obligations.PowerEvents : Prop :=
  ∀ (s : State) (half : Bool),
    let h := half.toNat
    let x := s.half h
    let plain := s.stM (halfop 0) &&& ~~~0xC = 0 ∧ s.stM (halfop 1) &&& ~~~0xC = 0
    (∀ t0, x.lowDue = some t0 → t0.toNat ≤ s.elapsed.toNat → ∃ t, exec (.voltageLowerRequest half) s = .next t ∧
      (t.half h).vsel = false ∧ (t.half h).lowDue = none ∧ t.regs = s.regs ∧
      (x.vsel = true → (t.half h).vselAt = s.elapsed ∧ (t.half h).window = true)) ∧
    (∃ t, exec (.pgChange half true) s = .next t ∧ (t.half h).pg = true ∧ t.mem = s.mem ∧
      (s.halfEmpty h = false ∨ s.live h ≠ 0 → t.cores = s.cores)) ∧
    (s.pins.therm = true → ∀ level, exec (.pgChange half level) s = .next (s.setHalf h { x with pg := level })) ∧
    (x.window = true → s.inWindow h = false → x.pg = true →
      exec (.pgWindowExpiry half) s = .next (s.setHalf h { x with window := false })) ∧
    (∀ temp : BitVec 8, 2 ≤ s.dstate → s.cp1Runs = true → plain →
      (∃ t, exec (.throttleEvaluation half temp) s = .next t ∧ t.rfld 0x90010 (8 * h) 8 = temp.toNat ∧
        (s.rfld 0x90010 16 8 ≤ temp.toNat → x.thrAt = none → (t.half h).thr = true ∧ t.rfld 0x90010 (24 + h) 1 = 1 ∧
          t.rfld (halfop h) 4 2 = 1) ∧
        (∀ a, temp.toNat + 5 ≤ s.rfld 0x90010 16 8 → x.thr = true → x.coolSince = some a →
          a.toNat + 100000000 ≤ s.elapsed.toNat → (t.half h).thr = false ∧
          t.rfld (halfop h) 4 2 = (if x.cap then 1 else 2)))) ∧
    (∀ avg peak west east : BitVec 16, 2 ≤ s.dstate → s.cp1Runs = true → plain →
      let lim := s.rfld 0x90018 0 16
      let first := if west.toNat < east.toNat then 1 else 0
      ∃ t, exec (.powerCapEvaluation avg peak west east) s = .next t ∧ t.rfld 0x90020 0 16 = avg.toNat ∧
        t.rfld 0x90020 16 16 = max peak.toNat (s.rfld 0x90020 16 16) ∧
        (lim ≠ 0 → lim < avg.toNat → (s.half first).cap = false → (t.half first).cap = true ∧
          t.capped = first :: s.capped ∧ t.rfld (halfop first) 4 2 = 1 ∧ t.calmSince = none) ∧
        (∀ k rest t0, lim ≠ 0 → avg.toNat ≤ lim → 100 * avg.toNat < 95 * lim → s.capped = k :: rest → k < 2 →
          s.calmSince = some t0 → t0.toNat + 100000000 ≤ s.elapsed.toNat → (t.half k).cap = false ∧ t.capped = rest))

/-- R428-R433, R455: what each reset keeps and clears, and how the device passes from `POR` to `HOLD` and from `TRAIN` to
`RUN`. It rests on the model's own choices of logs 80, 81, 143. -/
def Obligations.BringUp : Prop :=
  ∀ s : State,
    let kept (t : State) : Prop := t.pending = s.pending ∧ t.boot.fusedPos = s.boot.fusedPos ∧
      t.boot.fusedCore = s.boot.fusedCore ∧ t.hostOut = s.hostOut
    let warm (t : State) : Prop := kept t ∧ t.dstate = 1 ∧ t.mem = s.mem.filter (fun c => inTier2 c.1) ∧
      t.devtime = s.devtime ∧ t.elapsed = s.elapsed ∧ (∀ c, (t.core c).thr = Vector.replicate 4 Thread.reset) ∧
      t.parts = [] ∧ t.moorUnits = s.moorUnits ∧ t.boot.porDone = false
    (s.pins.porst = true → ∃ t, exec .porstNFall s = .next t ∧ kept t ∧ t.pins.porst = false ∧ t.dstate = 0 ∧ t.mem = [] ∧
      t.cores = [] ∧ t.parts = []) ∧
    (∀ straps, s.pins.porst = false → ∃ t, exec (.porstNRise straps) s = .next t ∧ kept t ∧ t.pins.porst = true ∧
      t.pins.straps = straps ∧ t.dstate = 1 ∧ t.mem = [] ∧ t.cores = [] ∧ t.parts = [] ∧ t.devtime = 0) ∧
    (s.pins.warm = true → exec .warmrstNAssert s =
      .next { s with pins := { s.pins with warm := false, warmAt := s.elapsed } }) ∧
    (s.pins.porst = true → s.pins.warm = false → s.pins.therm = false → s.pins.inReset = false →
      s.pins.warmAt.toNat + 10000 ≤ s.elapsed.toNat → ∃ t, exec .warmReset s = .next t ∧ warm t ∧ t.pins.inReset = true) ∧
    (s.pins.porst = true → s.pins.warm = false → s.pins.therm = false →
      (s.pins.inReset = true → exec .warmrstNRise s = .next { s with
        pins := { s.pins with warm := true, inReset := false }, boot := { s.boot with highAt := s.elapsed } }) ∧
      (s.pins.inReset = false → s.elapsed.toNat - s.pins.warmAt.toNat < 1000 → exec .warmrstNRise s =
        .next { s with pins := { s.pins with warm := true } }) ∧
      (s.pins.inReset = false → 10000 ≤ s.elapsed.toNat - s.pins.warmAt.toNat → ∃ t, exec .warmrstNRise s = .next t ∧
        warm t ∧ t.pins.inReset = false ∧ t.pins.warm = true)) ∧
    (∀ f : Flash, s.dstate = 1 → s.pins.porst = true → s.pins.warm = true → s.boot.porDone = false →
      ∃ t, exec (.por f) s = .next t ∧ t.boot.porDone = true ∧ t.boot.posReq = [] ∧ t.boot.coreReq = [] ∧
        t.rfld 0x28 0 32 = slotErr (imgSlotA f) % 2 ^ 32 ∧ t.rfld 0x28 32 32 = slotErr (imgSlotB f) % 2 ^ 32 ∧
        t.boot.fw = pickSlot (fwSlotA f) (fwSlotB f) .firmware ∧ t.dstate = 1 ∧
        (pickSlot (imgSlotA f) (imgSlotB f) .flash = none → t.boot.image = s.boot.image) ∧
        (∀ j, pickSlot (imgSlotA f) (imgSlotB f) .flash = some j →
          t.boot.image = some (flashImage (if j = 0 then imgSlotA f else imgSlotB f)))) ∧
    (∀ failed, s.dstate = 1 → s.boot.porDone = true → s.boot.railBad = false → (∀ h, h < 2 → (s.half h).pg = true) →
      let bad := (List.range 1088).filter (fun c => failed.contains c || s.boot.fusedCore.contains c)
      ∃ t, exec (.selftest failed false) s = .next t ∧ t.dstate = 2 ∧ t.rfld 0x20 8 11 = bad.length ∧ t.boot.failed = bad ∧
        ∀ row half col, row < 32 → half < 2 → col < 16 →
          t.present (32 * row + 16 * half + col) = !bad.contains (s.physCore (2 * row + half) col)) ∧
    (∀ lp : BitVec 24, s.dstate = 2 → ∃ t, exec (.train 0 lp) s = .next t ∧ t.dstate = 3 ∧
      t.rfld 0x40000 32 24 = 2 ^ 24 - 1 - lp.toNat ∧ t.boot.trained = s.boot.image) ∧
    (s.dstate = 3 → s.boot.held = false → ∃ t, exec .boot s = .next t ∧ t.dstate = 4 ∧
      ∀ j, j < 2 → s.boot.fw = some j → t.rfld 0x20 0 1 = 1 ∧ t.rfld 0x20 1 1 = j) ∧
    (s.dstate = 4 → s.rfld 0x20 0 1 = 1 → (∀ d, s.boot.image = some d → d.auto = false) →
      ∃ t, exec .hold s = .next t ∧ t.dstate = 5 ∧ t.boot.held = true ∧ t.reg 0x18 = s.devtime) ∧
    (s.dstate = 3 → s.boot.held = true → s.trainDone = true → ∃ t, exec .trainPassComplete s = .next t ∧ t.dstate = 6)

/-- R4, R7, R221, R294, R429, R469: a read of a register word, or of a half of it, returns its value, and clears the counts
that it covers, but nothing else; an access of another size or alignment returns 0 and clears nothing. The scoreboard's largest
count goes on from the entries held. A VF reads the `PRT_` page of its partition; one in D3hot reads nothing. Before the device
has entered `HOLD` a read returns 0. -/
def Obligations.RegisterReads : Prop :=
  ∀ (s : State) (acc : RegHalf),
    let part (v : W64) : W64 := match acc with | .all => v | .low => v &&& 0xFFFFFFFF | .high => v >>> 32 | .other => 0
    let mask : W64 := match acc with
      | .all => 0xFFFFFFFFFFFFFFFF | .low => 0xFFFFFFFF | .high => 0xFFFFFFFF00000000 | .other => 0
    let reads (i : Instr) (o : Nat) (v rc : W64) : Prop := ∃ t, exec i s = .next t ∧ t.lastRead = part v ∧
      t.reg o = s.reg o &&& ~~~(rc &&& mask) ∧ (∀ p, p ≠ o → t.reg p = s.reg p) ∧ t.mem = s.mem ∧ t.cores = s.cores ∧
      t.parts = s.parts ∧ t.ports = s.ports
    let count (i : Instr) (o : Nat) (rc : W64) : Prop := reads i o (s.reg o) rc
    (s.hostOpen →
      reads (.slcStatRead acc) 0x20008 (setFld (s.reg 0x20008) 0 7 s.sluice.length) 0xFFFF0000 ∧
      (∀ (h : Bool), reads (.pwrHalfopRead h acc) (halfop h.toNat) (s.view (halfop h.toNat)) 0xFFFF0000) ∧
      (∀ n k : BitVec 3, count (.slcCntRead n k acc) (0x20100 + 0x40 * n.toNat + 8 * k.toNat)
        (if acc = .all then 0xFFFFFFFFFFFFFFFF else 0)) ∧
      (∀ n : BitVec 3, count (.prtWdogRead ⟨false, n⟩ acc) (prt n.toNat 0x70) 0xFFFF0000000000 ∧
        (s.link.d3hot.getLsbD (n.toNat + 1) = false →
          (s.vfOn (n.toNat + 1) = true → count (.prtWdogRead ⟨true, n⟩ acc) (prt n.toNat 0x70) 0xFFFF0000000000) ∧
          (s.vfOn (n.toNat + 1) = false → exec (.prtWdogRead ⟨true, n⟩ acc) s = .next { s with lastRead := 0 })) ∧
        (s.link.d3hot.getLsbD (n.toNat + 1) = true → exec (.prtWdogRead ⟨true, n⟩ acc) s = .next s) ∧
        count (.trcSnapstatRead n acc) (trc n.toNat 0x30) 0xFFFF0000) ∧
      (∀ p : BitVec 4, count (.fabPstatRead p acc) (fabp p.toNat 0) 0xFFFF00000000 ∧
        count (.fabPfecRead p acc) (fabp p.toNat 0x10) 0xFFFFFFFFFFFFFFFF ∧
        count (.fabPretryRead p acc) (fabp p.toNat 0x18) 0xFFFFFFFFFFFFFFFF) ∧
      (∀ k : BitVec 5, k.toNat < 23 → count (.errCntRead k acc) (0x80100 + 8 * k.toNat) 0xFFFFFFFFFFFFFFFF) ∧
      count (.hstFlrlostRead acc) 0x10018 0xFFFFFFFF ∧ count (.fabRtoRead acc) 0x50018 0xFFFF00000000 ∧
      count (.timPpserrRead acc) 0x60020 0xFFFF00000000 ∧ count (.errLoglostRead acc) 0x80028 0xFFFFFFFF ∧
      count (.pwrPowerRead acc) 0x90020 0xFFFF0000 ∧
      (∀ core : BitVec 10,
        let c := core.toNat
        (s.present c = true → ∃ t, exec (.scoreboardRead core acc) s = .next t ∧ t.lastRead = part (s.core c).scoreWord ∧
          t.core c = { s.core c with mem := { (s.core c).mem with
            peak := if acc = .high ∨ acc = .other then (s.core c).mem.peak else (s.core c).mem.accs.length } } ∧ t.regs = s.regs ∧ t.mem = s.mem) ∧
        (s.present c = false → exec (.scoreboardRead core acc) s = .next { s with lastRead := 0 }))) ∧
    (s.pins.perst = true → s.link.d3hot.getLsbD 0 = false → s.boot.held = false →
      exec (.slcStatRead acc) s = .next { s with lastRead := 0 })

/-- R4, R6, R15, R255, R275, R300, R356, R372, R379, R384, R397, R420, R422, R426: what a write of a register does by its
access code and its own rule; a write that a rule ignores, that the host cannot make, or at no word, changes nothing.
R300: enabling a ring starts it at zero and takes its fields; a write of `EN` = 0 stops it, and its counts and its
`LOG` stay. R260: a trained port's bit of `FAB_ENTRY` stays. It rests on the model's own choices of logs 26, 78, 88, 93. -/
def Obligations.RegisterWrites : Prop :=
  (∀ s : State,
      let sets (i : Instr) (o : Nat) (v : W64) : Prop :=
        ∃ t, exec i s = .next t ∧ t.reg o = v ∧ (∀ p, p ≠ o → t.reg p = s.reg p) ∧ t.mem = s.mem ∧ t.cores = s.cores
      (s.hostOpen →
        (∀ v : W64,
          (fld v 0 43 % 2 ^ s.link.barLog = 0 → ∃ t, exec (.hstWinbaseWrite v) s = .next t ∧ t.rfld 0x10010 0 43 = fld v 0 43 ∧
            ∀ p, p ≠ 0x10010 → t.reg p = s.reg p) ∧
          (fld v 0 43 % 2 ^ s.link.barLog ≠ 0 → exec (.hstWinbaseWrite v) s = .next s) ∧
          (∀ k : BitVec 4, sets (.errSuspClear k v) (0x80800 + 8 * k.toNat) (s.reg (0x80800 + 8 * k.toNat) &&& ~~~v)) ∧
          (s.reg 0x80020 ≤ v → v ≤ s.reg 0x80018 → sets (.errLogconsWrite v) 0x80020 v) ∧
          (v < s.reg 0x80020 ∨ s.reg 0x80018 < v → exec (.errLogconsWrite v) s = .next s) ∧
          (v.getLsbD 10 = true → s.present (fld v 0 10) = true →
            exec (.errQforce v) s = .next (s.quarantine (fld v 0 10) 0xFD)) ∧
          (v.getLsbD 10 = false ∨ s.present (fld v 0 10) = false → exec (.errQforce v) s = .next s) ∧
          (∀ part : BitVec 3,
            let n := part.toNat
            exec (.prtTtflush part v) s = .next (if v.getLsbD 0 then s.setRfld (prt n 0x90) 1 1 1 else s) ∧
            (∃ t, exec (.prtDlconsWrite part v) s = .next t ∧ t.rfld (prt n 0x118) 0 32 = fld v 0 32 ∧
              ∀ p, p ≠ prt n 0x118 → t.reg p = s.reg p) ∧
            (s.reg (trc n 0x18) ≤ v → v ≤ s.reg (trc n 0x10) → sets (.trcConsWrite part v) (trc n 0x18) v) ∧
            (v < s.reg (trc n 0x18) ∨ s.reg (trc n 0x10) < v → exec (.trcConsWrite part v) s = .next s) ∧
            (∃ t, exec (.trcCfgWrite part v) s = .next t ∧ t.rfld (trc n 8) 5 1 = fld v 5 1 ∧
              t.rfld (trc n 8) 32 32 = fld v 32 32 ∧
              t.rfld (trc n 8) 0 5 = (if s.rfld (trc n 8) 5 1 = 0 ∧ 10 ≤ fld v 0 5 ∧ fld v 0 5 ≤ 24 then fld v 0 5
                else s.rfld (trc n 8) 0 5) ∧
              (s.rfld (trc n 8) 5 1 = 0 → fld v 5 1 = 1 → t.reg (trc n 0x10) = 0 ∧ t.reg (trc n 0x18) = 0) ∧
              (s.rfld (trc n 8) 5 1 = 1 → t.reg (trc n 0x10) = s.reg (trc n 0x10) ∧
                t.reg (trc n 0x18) = s.reg (trc n 0x18)))) ∧
          (∀ r : BitVec 6, s.rfld (prng r.toNat 0) 56 1 = 1 → v.getLsbD 56 = false →
            ∃ t, exec (.postRingDisable r v) s = .next t ∧ t.rfld (prng r.toNat 0) 56 1 = 0 ∧
              t.rfld (prng r.toNat 0) 0 56 = s.rfld (prng r.toNat 0) 0 56 ∧
              ∀ p, p ≠ prng r.toNat 0 → t.reg p = s.reg p) ∧
          (∀ port : BitVec 4,
            let p := port.toNat
            (s.pstat p = 2 → v.getLsbD 2 = true → v.getLsbD 3 = true → ∃ t, exec (.fabPctlRetrain port v) s = .next t ∧
              t.pstat p = 3 ∧ (t.port p).retrainWide = true ∧ (t.port p).retrainAt = some s.elapsed ∧
              s.counts t (fabp p 0) 32 16) ∧
            (s.rfld (fabp p 8) 2 1 = 1 → v.getLsbD 2 = false → ∃ t, exec (.fabPctlDisable port v) s = .next t ∧
              t.pstat p = 0 ∧ (t.port p).held = [] ∧ t.rfld (fabp p 8) 2 1 = 0)) ∧
          (∀ h : Bool, s.stM (halfop h.toNat) &&& ~~~0xC = 0 → ∀ i ∈ [Instr.halfopReqWrite h v, Instr.halfopCapWrite h v],
            let r := fld v 2 2
            let c := fld v 4 2
            let refused := s.reqRefused h.toNat r = true
            ∃ t, exec i s = .next t ∧ (refused → t.reqOf h.toNat = s.reqOf h.toNat) ∧ (¬refused → t.reqOf h.toNat = r) ∧
              t.capOf h.toNat = (if c = 3 then s.capOf h.toNat else c) ∧ t.mem = s.mem ∧
              (s.halfEmpty h.toNat = false ∨ s.live h.toNat ≠ 0 → t.cores = s.cores) ∧
              (c ≠ 3 →
                let low := min (t.reqOf h.toNat) (t.capOf h.toNat)
                (low = 2 → (t.half h.toNat).vsel = true) ∧
                (low ≠ 2 → s.halfEmpty h.toNat = true → t.live h.toNat = low))) ∧
          (s.rfld 0x50020 0 4 = 15 →
            (s.dstate ≠ 6 → ∃ t, exec (.timSet v) s = .next t ∧ t.devtime = v ∧ t.frac = 0 ∧ t.elapsed = s.elapsed ∧
              t.regs = s.regs ∧ ∀ n, n < 8 → s.pstate n ≠ 0 → 0 < s.period n →
                v.toNat ≤ s.t0 n + (t.part n).nextK * s.period n ∧
                ∀ k, k < (t.part n).nextK → s.t0 n + k * s.period n < v.toNat) ∧
            (s.dstate = 6 → exec (.timSet v) s = .next s))) ∧
        (∀ (n : BitVec 6) (v : W32),
          let o := 0x200 + 8 * (n.toNat / 2)
          let lo := 32 * (n.toNat % 2) + 7
          let f := fld v 7 5
          (f ≤ 16 ∨ f = 31 → ∃ t, exec (.refusePosWrite n v) s = .next t ∧ t.rfld o lo 5 = f ∧
            t.rfld o (39 - lo + 7) 5 = s.rfld o (39 - lo + 7) 5 ∧ (∀ p, p ≠ o → t.reg p = s.reg p) ∧
            (s.rfld o lo 5 ≠ f → ∀ d, AMap.get d t.boot.posReq n.toNat = f)) ∧
          (16 < f → f ≠ 31 → exec (.refusePosWrite n v) s = .next s)) ∧
        (∀ (half : RegHalf) (v : W64),
          let m : W64 := match half with
            | .all => 0xFFFFFFFFFFFFFFFF | .low => 0xFFFFFFFF | .high => 0xFFFFFFFF00000000 | .other => 0
          (∀ (o : W32) (w : W64), (o, w) ∈ [(0x10028, 0x3FF), (0x80010, 0x1FFF), (0x90018, 0xFFFF)] →
            sets (.registerWrite 0 o half v) o.toNat ((s.reg o.toNat &&& ~~~(m &&& w)) ||| (v &&& m &&& w))) ∧
          (∃ t, exec (.registerWrite 0 0x50010 half v) s = .next t ∧ (∀ p, p ≠ 0x50010 → t.reg p = s.reg p) ∧ ∀ p, p < 16 →
            (t.reg 0x50010).getLsbD p = (if s.pstat p ∈ [2, 3, 5] then (s.reg 0x50010).getLsbD p
              else ((s.reg 0x50010 &&& ~~~m) ||| (v &&& m)).getLsbD p)) ∧
          (∀ (fn : BitVec 4) (j : Nat), s.vfOn fn.toNat = true → fn.toNat ≤ 8 → s.link.d3hot.getLsbD fn.toNat = false → j < 64 →
            let g := 64 * (fn.toNat - 1) + j
            let i := Instr.registerWrite fn (BitVec.ofNat 32 (0x1000 + 0x40 * j)) half v
            (s.sqEn g = true → exec i s = .next s) ∧
            (s.sqEn g = false → sets i (rg g 0)
              ((s.reg (rg g 0) &&& ~~~(m &&& 0xFFFFFFFFFFFFF000)) ||| (v &&& m &&& 0xFFFFFFFFFFFFF000)))) ∧
          (∀ k, k < 128 →
            let o := 0x54000 + 16 * k
            let st : W64 := 0x7FFFFFFF00F
            ∃ t, exec (.registerWrite 0 (BitVec.ofNat 32 o) half v) s = .next t ∧ t.regs = s.regs ∧
              t.eff o = (s.eff o &&& ~~~(m &&& st)) ||| (v &&& m &&& st) ∧ ∀ p, p ≠ o → t.eff p = s.eff p) ∧
          (∀ (o : W32), o.toNat % 8 ≠ 0 → exec (.registerWrite 0 o half v) s = .next s))) ∧
      (∀ (part : BitVec 3),
        let n := part.toNat
        (s.rfld (prt n 0x90) 1 1 = 1 → ∃ t, exec (.ttflushComplete part) s = .next t ∧ t.rfld (prt n 0x90) 1 1 = 0 ∧
          (∀ c, c ∈ s.partCores n → t.core c = { s.core c with mem := { (s.core c).mem with tlb := [] } }) ∧
          (∀ c, c ∉ s.partCores n → t.core c = s.core c) ∧ t.mem = s.mem) ∧
        (s.rfld (prt n 0x90) 1 1 = 0 → exec (.ttflushComplete part) s = .next s)) ∧
      (∀ (fn : BitVec 4) (o : W32) (half : RegHalf) (v : W64), s.pins.perst = false →
        exec (.registerWrite fn o half v) s = .next s)) ∧
  (∀ (s : State) (ring : BitVec 9),
      let g := ring.toNat
      (∀ (v : W64) (log : Nat), log = fld v 0 5 → s.barOpen (rg g 0) = true → s.link.d3hot.getLsbD 0 = false →
        (s.fnOf (g / 64) ≠ 0 ∨ g % 64 < 32) → 6 ≤ log → log ≤ 16 → v.getLsbD 6 = true →
        (s.sqEn g = false → ∃ t, exec (.ringEnable ring false v) s = .next t ∧ t.sqEn g = true ∧ t.sqSize g = 2 ^ log ∧
          t.sqTail g = 0 ∧ t.sqHead g = 0 ∧ t.rfld (rg g 8) 7 1 = 0) ∧
        (s.cqEn g = false → ∃ t, exec (.ringEnable ring true v) s = .next t ∧ t.cqEn g = true ∧ t.cqSize g = 2 ^ log ∧
          t.cqProd g = 0 ∧ t.cqCons g = 0 ∧ t.rfld (rg g 0x20) 8 11 = fld v 8 11 ∧ t.rfld (rg g 0x20) 20 8 = fld v 20 8 ∧
          t.rfld (rg g 0x20) 28 12 = fld v 28 12 ∧ t.rfld (rg g 0x20) 7 1 = fld v 7 1)) ∧
      (∀ v : W64, s.barOpen (rg g 0) = true → s.link.d3hot.getLsbD 0 = false → v.getLsbD 6 = false →
        (s.sqEn g = true → ∃ t, exec (.ringDisable ring false v) s = .next t ∧ t.sqEn g = false ∧ t.sqSize g = s.sqSize g ∧
          t.sqTail g = s.sqTail g ∧ t.sqHead g = s.sqHead g) ∧
        (s.cqEn g = true → ∃ t, exec (.ringDisable ring true v) s = .next t ∧ t.cqEn g = false ∧ t.cqSize g = s.cqSize g ∧
          t.cqProd g = s.cqProd g ∧ t.cqCons g = s.cqCons g)))

/-- R377, R378, R384, R387-R389: what an edge of `PPS_IN` measures and does, and one that is ignored; one in the cycle of a set
is latched with the value from before it. The lock ends with no edge for 3 s; `PPS_OUT` rises at its phase of the second while
enabled. Each `TIME` flit of a peer is answered with one; the four times of an exchange with the time parent give the offset
and the link delay, steer the rate and tell `LOCKED` (log 24), and the first one in `TRAIN` sets the time; without one for
10 ms the rate is 0. The
rate of an edge is that of log 21. R398: the trace writer takes the oldest record of a partition: into the ring at
`PROD` while it has space; before it the record of the losses since the last; where there is no space the record is
lost and counted. The model's own choices: logs 7, 21, 24, 43, 70, 71. -/
def Obligations.TimeBase : Prop :=
  (∀ s : State,
      let unset := ∀ v, s.sync.set ≠ some (s.elapsed, v)
      let early := ∃ e, s.sync.ppsEdge = some e ∧ s.elapsed.toNat < e.toNat + 500000000
      let near := ∀ g, s.sync.ppsGood = some g → g.toNat + 999000000 ≤ s.devtime.toNat ∧ s.devtime.toNat ≤ g.toNat + 1001000000
      let held (t : State) : Prop := t.devtime = s.devtime ∧ t.mem = s.mem ∧ t.cores = s.cores ∧ t.ports = s.ports
      (s.rfld 0x60008 1 1 = 0 → exec .ppsInEdge s = .next s) ∧
      (s.rfld 0x60008 1 1 = 1 → ∀ v, s.sync.set = some (s.elapsed, v) → ∃ t, exec .ppsInEdge s = .next t ∧
        s.counts t 0x60020 32 16 ∧ t.sync = { s.sync with ppsEdge := some s.elapsed } ∧ t.reg 0x60018 = v ∧
        (∀ o, o ≠ 0x60020 → o ≠ 0x60018 → t.reg o = s.reg o) ∧ held t) ∧
      (s.rfld 0x60008 1 1 = 1 → unset → early → ∃ t, exec .ppsInEdge s = .next t ∧ s.counts t 0x60020 32 16 ∧ t.sync = s.sync ∧
        (∀ o, o ≠ 0x60020 → t.reg o = s.reg o) ∧ held t) ∧
      (s.rfld 0x60008 1 1 = 1 → unset → ¬early → ¬near → ∃ t, exec .ppsInEdge s = .next t ∧ s.counts t 0x60020 32 16 ∧
        t.sync = { s.sync with ppsEdge := some s.elapsed } ∧ t.reg 0x60018 = s.devtime ∧
        (∀ o, o ≠ 0x60020 → o ≠ 0x60018 → t.reg o = s.reg o) ∧ held t) ∧
      (s.rfld 0x60008 1 1 = 1 → unset → ¬early → near → ∃ (t : State) (e : Int), exec .ppsInEdge s = .next t ∧
        -500000000 < e ∧ e ≤ 500000000 ∧ (1000000000 : Int) ∣ s.devtime.toNat - s.rfld 0x60028 0 30 - e ∧
        t.rfld 0x60020 0 32 = (BitVec.ofInt 32 e).toNat ∧ t.rfld 0x60020 32 16 = s.rfld 0x60020 32 16 ∧ t.reg 0x60018 = s.devtime ∧
        (let run := if e.natAbs ≤ 20 then s.sync.ppsRun + 1 else 0;
          t.sync = { s.sync with
            ppsEdge := some s.elapsed, ppsGood := some s.devtime, ppsGoodAt := s.elapsed, ppsRun := run } ∧
          t.rfld 0x60008 3 1 = (if 3 ≤ run then 1 else if 100 < e.natAbs then 0 else s.rfld 0x60008 3 1)) ∧
        t.rfld 0x60030 0 32 = (if s.devid = s.rfld 0x50028 0 17 ∧ s.rfld 0x60008 0 1 = 1 then
          (BitVec.ofInt 32 (max (-50000) (min 50000 (-e)))).toNat else s.rfld 0x60030 0 32) ∧ held t) ∧
      (s.sync.ppsGoodAt.toNat + 3000000000 ≤ s.elapsed.toNat → ∃ t, exec .ppsLockTimeout s = .next t ∧
        t.sync = { s.sync with ppsRun := 0 } ∧
        t.rfld 0x60008 3 1 = 0 ∧ t.rfld 0x60008 0 3 = s.rfld 0x60008 0 3 ∧ (∀ o, o ≠ 0x60008 → t.reg o = s.reg o) ∧ held t) ∧
      (s.elapsed.toNat < s.sync.ppsGoodAt.toNat + 3000000000 → exec .ppsLockTimeout s = .next s) ∧
      (s.rfld 0x60028 0 30 < 1000000000 →
        let phase := ((s.devtime.toNat : Int) - s.rfld 0x60028 0 30) % 1000000000
        let on := s.rfld 0x60008 2 1 = 1 ∧ (s.dstate = 5 ∨ s.dstate = 6)
        (on → phase ≤ 1 → exec .ppsOutEdge s = .next { s with pins := { s.pins with
          ppsUntil := some (s.elapsed + BitVec.ofNat 64 (1000 * s.rfld 0x60028 32 16)) } }) ∧
        (¬on ∨ 1 < phase → exec .ppsOutEdge s = .next s)) ∧
      (∀ (port : BitVec 4) (peerRx peerTx : W64) (depth : BitVec 16),
        let p := port.toNat
        let d := depth.toNat + 1
        let i := Instr.timeExchange port peerRx peerTx depth
        let sent (t : State) : Prop := (t.port p).timeTx = some t.devtime ∧ (∀ q, q ≠ p → t.port q = s.port q) ∧
          t.mem = s.mem ∧ t.cores = s.cores
        (∀ t1, s.pstat p = 2 → s.parentPort = some p → (s.port p).timeTx = some t1 →
          let o2 := (t1 - peerRx).toInt + (s.devtime - peerTx).toInt
          let delay2 := (s.devtime - t1).toInt - (peerTx - peerRx).toInt
          ∃ (t : State) (r : Int), exec i s = .next t ∧ sent t ∧ t.rfld 0x50020 0 4 = p ∧
            t.rfld 0x50020 4 1 = (if 500 * o2.natAbs ≤ 2000 * d then 1 else 0) ∧
            t.rfld 0x50020 5 1 = 0 ∧ t.rfld 0x50020 16 16 = d % 65536 ∧
            t.rfld 0x50020 32 32 = (BitVec.ofInt 32 (max (-2147483648) (min 2147483647 (500 * o2)))).toNat ∧
            -50000 ≤ r ∧ r ≤ 50000 ∧ t.rfld 0x60030 0 32 = (BitVec.ofInt 32 r).toNat ∧ t.sync.last = s.elapsed ∧
            (s.dstate = 3 → s.rfld 0x10 4 1 = 0 →
              t.devtime = peerTx + BitVec.ofInt 64 (delay2 / 2) ∧ t.rfld 0x10 4 1 = 1) ∧
            (s.dstate ≠ 3 ∨ s.rfld 0x10 4 1 = 1 → t.devtime = s.devtime ∧ t.reg 0x10 = s.reg 0x10)) ∧
        (s.pstat p = 2 → (s.parentPort ≠ some p ∨ (s.port p).timeTx = none) → ∃ t, exec i s = .next t ∧ sent t ∧
          t.regs = s.regs ∧ t.devtime = s.devtime ∧ t.sync = s.sync) ∧
        (s.pstat p ≠ 2 → exec i s = .next s)) ∧
      (s.devid ≠ s.rfld 0x50028 0 17 → s.sync.last.toNat + 10000000 ≤ s.elapsed.toNat → 3 ≤ s.dstate →
        ∃ t, exec .timeHoldover s = .next t ∧ t.rfld 0x50020 4 1 = 0 ∧ t.rfld 0x50020 5 1 = 1 ∧ t.rfld 0x60030 0 32 = 0 ∧
          t.rfld 0x50020 0 4 = s.rfld 0x50020 0 4 ∧ (∀ o, o ≠ 0x50020 → o ≠ 0x60030 → t.reg o = s.reg o) ∧ held t) ∧
      (s.devid = s.rfld 0x50028 0 17 ∨ s.elapsed.toNat < s.sync.last.toNat + 10000000 ∨ s.dstate < 3 →
        exec .timeHoldover s = .next s)) ∧
  (∀ (s : State) (part : BitVec 3) (r : BitVec 256) (rest : List (BitVec 256)),
      let n := part.toNat
      let prod := (s.reg (trc n 0x10)).toNat
      let size := 2 ^ s.rfld (trc n 8) 0 5
      let a := s.rfld (trc n 0) 0 43 + 32 * (prod % size)
      let room := prod - (s.reg (trc n 0x18)).toNat < size ∧ inTiers a 32 = true ∧ s.homeUp a = true
      ((s.part n).trcPend = [] → (s.part n).trcLost = 0 → exec (.traceRecordWrite part) s = .next s) ∧
      (room → (s.part n).trcLost ≠ 0 → ((s.part n).trcPend ≠ [] ∨ s.rfld (trc n 8) 5 1 = 1) →
        ∃ t, exec (.traceRecordWrite part) s = .next t ∧ (t.part n).trcPend = (s.part n).trcPend ∧
          (t.part n).trcLost = 0 ∧ t.mem = (s.putBytes a (toLE 32 (traceRecord s.devtime s.devid 4 true 0
            (AMap.get 0 s.unitSeq 4) 0x18 (s.part n).trcLost).toNat)).mem ∧
          (t.reg (trc n 0x10)).toNat = (prod + 1) % 2 ^ 64 ∧ ∀ o, o ≠ trc n 0x10 → t.reg o = s.reg o) ∧
      ((s.part n).trcPend = r :: rest →
        (room → (s.part n).trcLost = 0 → ∃ t, exec (.traceRecordWrite part) s = .next t ∧ (t.part n).trcPend = rest ∧
          t.mem = (s.putBytes a (toLE 32 r.toNat)).mem ∧ (t.reg (trc n 0x10)).toNat = (prod + 1) % 2 ^ 64 ∧
          ∀ o, o ≠ trc n 0x10 → t.reg o = s.reg o) ∧
        (¬room → ∃ t, exec (.traceRecordWrite part) s = .next t ∧ (t.part n).trcPend = rest ∧
          (t.part n).trcLost = (s.part n).trcLost + 1 ∧ t.reg (trc n 0x20) = s.reg (trc n 0x20) + 1 ∧
          t.mem = s.mem ∧ ∀ o, o ≠ trc n 0x20 → t.reg o = s.reg o)))

/-- R346, R348-R351, R353, R356-R358, R361, R365, R379: what a port does with what arrives, when its timers run out, and as its
lanes, its light and its credits change. Codewords are counted; a flit that cannot be accepted asks for a replay once per gap, a
good one moves the port on. A retrain is entered, and ends in `UP` on the widest good lanes or in `FAILED`; training
ends in `UP` with every credit or in `MISWIRED`. An item in transit goes on by its route, not before one of its flow that
arrived earlier (R365), and its credits are free again. It rests on the model's own choices of logs 7, 22, 23, 94, 121-123. -/
def Obligations.PortEvents : Prop :=
  ∀ (s : State) (port : BitVec 4),
    let p := port.toNat
    let x := s.port p
    let control (t : State) (nak : Bool) : Prop := ∃ items, items.length = 244 ∧
      t.kflOut = s.kflOut ++ [(p, flitBytes x.txSeq true x.rxGood nak 0 0 items)]
    let quiet (t : State) : Prop := t.mem = s.mem ∧ t.cores = s.cores ∧ t.fabOut = s.fabOut
    let leaves (i : Instr) (st : Nat) : Prop := ∃ t, exec i s = .next t ∧ t.pstat p = st ∧ (t.port p).held = [] ∧
      (∀ v, v < 9 → t.rxUsed p v = 0) ∧ s.counts t 0x80178 32 32 ∧ quiet t
    let retrains (i : Instr) : Prop := ∃ t, exec i s = .next t ∧ t.pstat p = 3 ∧ (t.port p).retrainAt = some s.elapsed ∧
      (t.port p).retrainWide = false ∧ (t.port p).held = x.held ∧ s.counts t (fabp p 0) 32 16 ∧ quiet t
    let agrees (v : CreditView) : Prop := ∀ k, k < 9 →
      s.avail p k + v.tx.held.getD k 0 + v.tx.moving.getD k 0 = s.credSize p k ∧
        v.rx.held.getD k 0 + s.rxUsed p k + AMap.get 0 x.owed k + v.rx.moving.getD k 0 = s.credSize p k
    (∀ f : Flit,
      let i := Instr.kflFlitReceive port f
      let bad := f.fecUnc ≠ 0 ∨ f.crcOk = false ∨ f.ctl = false ∧ f.seq ≠ x.rxSeq
      let fec (t : State) : Prop := t.rfld (fabp p 0x10) 0 32 = min (s.rfld (fabp p 0x10) 0 32 + f.fecCorr) (2 ^ 32 - 1) ∧
        t.rfld (fabp p 0x10) 32 32 = min (s.rfld (fabp p 0x10) 32 32 + f.fecUnc) (2 ^ 32 - 1)
      let acked := x.ackTo ((f.ack + 1) % 4096)
      let recent := x.naks.filter (fun t => s.elapsed.toNat < t.toNat + 10000)
      (s.portLit p = false → exec i s = .next s) ∧
      (s.portLit p = true → s.pstat p ≠ 2 → ∃ t, exec i s = .next t ∧ fec t ∧ t.ports = s.ports ∧ t.kflOut = s.kflOut ∧ quiet t) ∧
      (s.pstat p = 2 → bad → ∃ t, exec i s = .next t ∧ fec t ∧ s.counts t (fabp p 0x18) 32 32 ∧ t.pstat p = 2 ∧ quiet t ∧
        (x.nakSent = true → t.ports = s.ports ∧ t.kflOut = s.kflOut) ∧
        (x.nakSent = false → control t true ∧
          t.port p = { x with nakSent := true, nakAt := some s.elapsed, lastTx := s.elapsed })) ∧
      (s.pstat p = 2 → ¬bad → f.nak = false → ∃ t, exec i s = .next t ∧ fec t ∧ t.pstat p = 2 ∧ quiet t ∧
        (t.port p).txAck = acked.txAck ∧ (t.port p).rxSeq = (if f.ctl then x.rxSeq else (x.rxSeq + 1) % 4096) ∧
        (f.ctl = false → (t.port p).nakSent = false ∧ (t.port p).rxPart = (takeItems 64 (x.rxPart ++ f.items)).2) ∧
        (f.ctl = false → x.queue = [] → f.cls < 9 →
          t.avail p f.cls = min (s.credSize p f.cls) (s.avail p f.cls + f.cret))) ∧
      (s.pstat p = 2 → ¬bad → f.ctl = true → f.nak = true → recent.length < 15 → acked.kept ≠ [] → x.queue = [] →
        x.out = [] → x.owed = [] → ∃ t, exec i s = .next t ∧ fec t ∧ t.pstat p = 2 ∧ s.counts t (fabp p 0x18) 0 32 ∧ quiet t ∧
          t.kflOut = s.kflOut ++ acked.kept.map (fun k => (p, flitBytes k.seq false x.rxGood false k.cls k.cret k.items))) ∧
      (s.pstat p = 2 → ¬bad → f.nak = true → 15 ≤ recent.length → ∃ t, exec i s = .next t ∧ fec t ∧ t.pstat p = 3 ∧
        (t.port p).retrainAt = some s.elapsed ∧ s.counts t (fabp p 0) 32 16 ∧ quiet t)) ∧
    (s.pstat p = 2 → x.lastTx.toNat + 200 ≤ s.elapsed.toNat → ∃ t, exec (.linkAckTimer port) s = .next t ∧ control t false ∧
      t.port p = { x with lastTx := s.elapsed } ∧ t.regs = s.regs ∧ quiet t) ∧
    (∀ t0 : W64, x.nakAt = some t0 → s.pstat p = 2 → t0.toNat + 2000 ≤ s.elapsed.toNat → retrains (.nakUnanswered port)) ∧
    (∀ lane : BitVec 2,
      let i := Instr.laneLockLoss port lane
      let off := s.setRfld (fabp p 0) (5 + lane.toNat) 1 0
      (s.pstat p = 2 → x.lanes.getLsbD lane.toNat = true → retrains i ∧
        ∃ t, exec i s = .next t ∧ t.rfld (fabp p 0) (5 + lane.toNat) 1 = 0) ∧
      (s.pstat p = 2 → x.lanes.getLsbD lane.toNat = false → exec i s = .next off) ∧
      (s.pstat p = 3 → exec i s = .next off) ∧ (s.portLit p = false → exec i s = .next s)) ∧
    (∀ (good : BitVec 4) (expect : BitVec 12) (view : CreditView), s.pstat p = 3 →
      let i := Instr.retrainComplete port good expect view
      let lanes := pickLanes good (if x.retrainWide then s.maxMode p else min (s.maxMode p) (laneMode x.lanes))
      let known := x.inWindow expect.toNat = true
      (x.held = [] → s.edges p = [] → lanes = 0 ∨ ¬agrees view → leaves i 4) ∧
      (x.held = [] → s.edges p = [] → lanes ≠ 0 → agrees view → ¬known → 3 ≤ x.fails → leaves i 4) ∧
      (lanes ≠ 0 → agrees view → ¬known → x.fails < 3 → ∃ t, exec i s = .next t ∧ t.pstat p = 3 ∧ quiet t ∧
        t.port p = { x with fails := x.fails + 1, retrainAt := some s.elapsed }) ∧
      (lanes ≠ 0 → agrees view → known → ∃ t, exec i s = .next t ∧ t.pstat p = 2 ∧ t.rfld (fabp p 0) 3 2 = laneMode lanes ∧
        (t.port p).lanes = lanes ∧ (t.port p).fails = 0 ∧ (t.port p).retrainAt = none ∧ (t.port p).nakSent = false ∧
        (t.port p).naks = [] ∧ (t.port p).txAck = (x.ackTo expect.toNat).txAck ∧ quiet t)) ∧
    (∀ t0 : W64, x.retrainAt = some t0 → s.pstat p = 3 →
      (t0.toNat + 100000 ≤ s.elapsed.toNat → x.held = [] → s.edges p = [] → leaves (.retrainTimeout port) 4) ∧
      (s.elapsed.toNat < t0.toNat + 100000 → exec (.retrainTimeout port) s = .next s)) ∧
    (∀ (good : BitVec 4) (peer : BitVec 17) (peerPort : BitVec 4) (dir : BitVec 3), s.pstat p = 1 →
      let i := Instr.portTrainingComplete port good peer peerPort dir
      let lanes := pickLanes good (s.maxMode p)
      let met (t : State) : Prop := t.rfld (fabp p 0) 5 4 = good.toNat ∧ t.rfld (fabp p 0) 10 17 = peer.toNat ∧
        t.rfld (fabp p 0) 27 4 = peerPort.toNat ∧ quiet t
      (lanes = 0 → exec i s = .next s) ∧
      (lanes ≠ 0 → s.identityOk p peer.toNat dir.toNat = false → ∃ t, exec i s = .next t ∧ t.pstat p = 5 ∧ met t ∧ t.ports = s.ports) ∧
      (lanes ≠ 0 → s.identityOk p peer.toNat dir.toNat = true → ∃ t, exec i s = .next t ∧ t.pstat p = 2 ∧ met t ∧
        t.rfld (fabp p 0) 3 2 = laneMode lanes ∧ (t.port p).lanes = lanes ∧ (t.port p).trained = true ∧
        (t.port p).rxSeq = 0 ∧ (t.port p).txAck = 0 ∧
        (x.queue = [] → x.begun = [] → (t.port p).txSeq = 0 ∧ ∀ v, v < 9 → t.avail p v = s.credSize p v ∧ t.rxUsed p v = 0))) ∧
    ((s.pstat p = 1 → exec (.portTrainingRetry ⟨port, true⟩) s = .next (s.setRfld (fabp p 0) 5 4 0) ∧
        ∃ t, exec (.portTrainingRetry ⟨port, false⟩) s = .next t ∧ t.pstat p = 0 ∧ t.ports = s.ports ∧ quiet t) ∧
      (s.pstat p = 0 → exec (.portTrainingRetry ⟨port, false⟩) s = .next s) ∧
      (s.pstat p = 0 → s.portEn p = true → s.light p = true → s.dstate = 6 →
        ∃ t, exec (.portTrainingRetry ⟨port, true⟩) s = .next t ∧ t.pstat p = 1 ∧ t.ports = s.ports ∧ quiet t)) ∧
    ((∃ t, exec (.lightChange port true) s = .next t ∧ t.rfld (fabp p 0) 9 1 = 1 ∧ t.ports = s.ports ∧ quiet t ∧
        (s.pstat p = 0 → s.portEn p = true → s.dstate = 6 → t.pstat p = 1) ∧ (s.pstat p ≠ 0 → t.pstat p = s.pstat p)) ∧
      (s.portLit p = true → x.held = [] → s.edges p = [] → leaves (.lightChange port false) 0 ∧
        ∃ t, exec (.lightChange port false) s = .next t ∧ t.rfld (fabp p 0) 9 1 = 0) ∧
      (s.portLit p = false → exec (.lightChange port false) s = .next (s.setRfld (fabp p 0) 9 1 0))) ∧
    (∀ view : CreditView, s.pstat p = 2 →
      (agrees view → exec (.creditCheck port view.tx view.rx) s = .next s) ∧
      (¬agrees view → x.held = [] → s.edges p = [] → leaves (.creditCheck port view.tx view.rx) 4)) ∧
    (∀ item : Transit, s.pstat p = 2 → x.mayLeave item = false → exec (.transitForward port item) s = .next s) ∧
    (∀ item : Transit, s.pstat p = 2 → item.dst.toNat ≠ s.devid → x.mayLeave item = true →
      let i := Instr.transitForward port item
      (∀ q d, s.route item.dst.toNat item.core.toNat item.off.toNat = some (q, d) →
        let sent := { item with dl := s.crosses d || (item.dl && s.portDim p == some (d / 2)) }
        let y := s.port q
        (s.pstat q = 3 → ∃ t, exec i s = .next t ∧ (t.port q).queue = y.queue ++ [⟨.transit item, sent.cls, sent.bytes, 0, none⟩] ∧
          quiet t) ∧
        (s.pstat q = 2 → y.queue = [] → y.begun = [] → y.out = [] → y.owed = [] → y.unacked < 256 → x.rx = [] → sent.cls < 9 →
          sent.bytes.length ≤ 244 → credits sent.bytes.length ≤ s.avail q sent.cls → ∃ t, exec i s = .next t ∧ quiet t ∧
            t.kflOut = s.kflOut ++ [(q, flitBytes y.txSeq false y.rxGood false 0 0
              (sent.bytes ++ List.replicate (244 - sent.bytes.length) 0))] ∧
            t.avail q sent.cls = s.avail q sent.cls - credits sent.bytes.length)) ∧
      (s.route item.dst.toNat item.core.toNat item.off.toNat = none →
        (1 ≤ item.ty.toNat → item.ty.toNat ≤ 5 → ∃ t, exec i s = .next t ∧
          t.fabOut = s.fabOut ++ [.err (transitHead item) 3] ∧ t.mem = s.mem ∧ t.cores = s.cores) ∧
        (item.ty = 0 ∨ 5 < item.ty.toNat → x.rx = [] → exec i s = .next s) ∧
        (∀ v n, item.ty = 0 ∨ 5 < item.ty.toNat → v < 9 → x.rx = [⟨v, item⟩] → n = credits item.size →
          ∃ t, exec i s = .next t ∧ (t.port p).rx = [] ∧ t.rxUsed p v = s.rxUsed p v - n ∧ quiet t)))

/-- R26, R366-R369: a read, a write and an `AMO` of another device are performed at their home where an export entry allows
them and the memory is clocked, and are answered with data or an acknowledgement; one that reaches the LM of a core of a PARKED
half waits; where no entry allows it, the answer is the error that the check finds. A message goes on to its core. It rests on the model's own choices of log 41. -/
def Obligations.RemoteRequests : Prop :=
  ∀ (s : State) (r : RemIn),
    let off := r.off.toNat
    let pa := off % 2 ^ 43
    let denies (i : Instr) (e : BitVec 4) : Prop := ∃ t, exec i s = .next t ∧ t.fabOut = s.fabOut ++ [.err r e] ∧
      t.mem = s.mem ∧ t.cores = s.cores ∧ t.parts = s.parts ∧ t.msgs = s.msgs
    let exported (need len : Nat) := inMemory pa len = true ∧ ∃ n < 8, s.fabOpen n = true ∧
      (inLm pa = true → s.partOf (lmCore pa) = some n) ∧ ∃ e < 16, s.exportOk n e pa len need = true
    let gone := inLm pa = true ∧ s.present (lmCore pa) = false
    let sound (len : Nat) := s.poisoned pa len = false ∧ s.homeUp pa = true
    let checks (i : Instr) (need len : Nat) : Prop :=
      (s.dstate ≠ 6 → denies i 7) ∧ (s.dstate = 6 → off / 2 ^ 43 % 16 ≠ 0 → denies i 2) ∧
      (s.dstate = 6 → off / 2 ^ 43 % 16 = 0 → gone → denies i 1) ∧
      (s.dstate = 6 → off / 2 ^ 43 % 16 = 0 → ¬gone → ¬exported need len → denies i 2)
    let allowed (need len : Nat) := s.dstate = 6 ∧ off / 2 ^ 43 % 16 = 0 ∧ ¬gone ∧ exported need len
    let passes (need len : Nat) := allowed need len ∧ s.memRuns pa = true
    let waits (i : Instr) (need len : Nat) : Prop := allowed need len → s.memRuns pa = false → exec i s = .next s
    (∀ (len : Nat) (ecc : Ecc), checks (.remoteRead r len ecc) 2 len ∧ waits (.remoteRead r len ecc) 2 len ∧
      (passes 2 len → sound len → ∃ t, exec (.remoteRead r len .good) s = .next t ∧
        t.fabOut = s.fabOut ++ [.data r (Memory.readBytes s.mem pa len)] ∧ t.mem = s.mem ∧ t.cores = s.cores) ∧
      (passes 2 len → s.poisoned pa len = true → denies (.remoteRead r len .good) 6)) ∧
    (∀ bytes : List Byte, checks (.remoteWrite r bytes) 4 bytes.length ∧ waits (.remoteWrite r bytes) 4 bytes.length ∧
      (passes 4 bytes.length → s.homeUp pa = true → ∃ t, exec (.remoteWrite r bytes) s = .next t ∧
        t.fabOut = s.fabOut ++ [.ack r] ∧ t.mem = Memory.writeBytes s.mem pa bytes)) ∧
    (∀ (op : BitVec 4) (w32 : Bool) (opnd exp : W64) (ecc : Ecc),
      let n := if w32 then 4 else 8
      let i := Instr.remoteAmo r op w32 opnd exp
      (op.toNat ≤ 9 → checks (i ecc) 14 n ∧ waits (i ecc) 14 n ∧
        (passes 14 n → sound n →
          let old := Memory.readBytes s.mem pa n
          ∃ t, exec (i .good) s = .next t ∧ t.fabOut = s.fabOut ++ [.data r old] ∧
            t.mem = Memory.writeBytes s.mem pa (toLE n (amoNew op w32 (ofLE old) opnd exp)))) ∧
      (9 < op.toNat → exec (i ecc) s = .next s)) ∧
    (∀ (dst : BitVec 10) (tag : BitVec 16) (time : W64) (words : List W32),
      let i := Instr.remoteMsg r dst tag time words
      let ready := ∃ n, s.partOf dst.toNat = some n ∧ s.fabOpen n = true
      (s.dstate ≠ 6 → denies i 7) ∧ (s.dstate = 6 → s.present dst.toNat = false → denies i 1) ∧
      (s.dstate = 6 → s.present dst.toNat = true → ¬ready → denies i 2) ∧
      (s.dstate = 6 → s.present dst.toNat = true → ready → words.length ≤ 8 → exec i s = .next { s with
        msgs := s.msgs ++ [⟨s.nextMsg, .fabric r, dst.toNat,
          ⟨deliveredHeader r.core.toNat r.dev.toNat r.thr.toNat true false tag.toNat words.length, time, words⟩⟩]
        nextMsg := s.nextMsg + 1 }))

/-- R366, R372, R373: a post for an enabled ring of this device is placed as its record, at `PROD`, past a padding record
where the ring's end is too near, and is accepted; it is refused where the ring is full; a ring that is not enabled
answers `PERM`. A channel's post that was refused is sent again 1 µs later. It rests on the model's own choices of log
41. -/
def Obligations.Posts : Prop :=
  (∀ (s : State) (r : RemIn) (chan : BitVec 3) (tag : W32) (time : W64) (bytes : List Byte), bytes.length ≤ 4032 →
    let i := r.off.toNat / 4096 % 64
    let op := Instr.postPlacement r chan tag time bytes
    let addr := r.off.toNat / 2 ^ 43 % 16 = 1 ∧ r.off.toNat / 2 ^ 18 % 2 ^ 25 = 0 ∧ r.off.toNat % 4096 = 0
    let denies (e : BitVec 4) : Prop := ∃ t, exec op s = .next t ∧ t.fabOut = s.fabOut ++ [.err r e] ∧ t.mem = s.mem
    let base := s.rfld (prng i 0) 0 43
    let size := 2 ^ s.rfld (prng i 0) 48 5
    let ctl := s.rfld (prng i 8) 0 43
    let prod := ofLE (Memory.readBytes s.mem ctl 8)
    let cons := ofLE (Memory.readBytes s.mem (ctl + 8) 8)
    let slots := 1 + (bytes.length + 63) / 64
    let tail := size - prod % size
    let pad := if slots ≤ tail then 0 else tail
    let a := if slots ≤ tail then base + 64 * (prod % size) else base
    let runs := s.dstate = 6 ∧ addr ∧ s.rfld (prng i 0) 56 1 = 1 ∧ s.poisoned ctl 16 = false ∧ s.homeUp ctl = true
    let full := size < (prod + 2 ^ 64 - cons) % 2 ^ 64 + pad + slots
    (s.dstate ≠ 6 → denies 7) ∧ (s.dstate = 6 → ¬addr ∨ s.rfld (prng i 0) 56 1 = 0 → denies 2) ∧
    (runs → full → ∃ t, exec op s = .next t ∧ t.fabOut = s.fabOut ++ [.answer r false] ∧ t.mem = s.mem ∧
      t.rfld (prng i 0x10) 32 32 = (s.rfld (prng i 0x10) 32 32 + 1) % 2 ^ 32) ∧
    (runs → ¬full → (∀ q ∈ spans (base + 64 * (prod % size)) (64 * pad) ++ spans a (64 * slots), s.homeUp q.1 = true) →
      let s1 := if slots ≤ tail then s else s.putBytes (base + 64 * (prod % size)) (postPad tail)
      ∃ t, exec op s = .next t ∧ t.fabOut = s.fabOut ++ [.answer r true] ∧
        t.mem = Memory.writeBytes (s1.putBytes a (postRecord r chan tag time bytes)).mem ctl (toLE 8 (prod + pad + slots)) ∧
        t.rfld (prng i 0x10) 0 32 = (s.rfld (prng i 0x10) 0 32 + 1) % 2 ^ 32)) ∧
  (∀ (s : State) (core : BitVec 10) (ch : BitVec 3) (w : PostWait) (d : BitVec 256),
    let c := core.toNat
    let h := s.chan c ch
    s.postWaits.find? (fun w => w.core == c && w.ch == ch) = some w →
    (s.elapsed.toNat < w.refused.toNat + 1000 → exec (.postResend core ch) s = .next s) ∧
    (w.refused.toNat + 1000 ≤ s.elapsed.toNat → s.coreRuns c = true → h.cur = some d → h.active = true →
      ∃ t, exec (.postResend core ch) s = .next t ∧ (t.chan c ch).remOut = 1 ∧ (t.chan c ch).post = h.post ∧
        t.fabOut = s.fabOut ++ [.post s.nextReq c ch (dTag d) w.time (BitVec.ofNat 64 (dDst d)) h.post] ∧
        t.remReqs = s.remReqs ++ [⟨s.nextReq, .post c ch w.time, BitVec.ofNat 64 (dDst d), s.elapsed⟩] ∧
        (∀ w ∈ t.postWaits, w.core ≠ c ∨ w.ch ≠ ch) ∧ t.mem = s.mem))

/-- R368-R370, R373: an answer ends its request: an acknowledged write is no longer outstanding, a message has its
outcome, a polled word ends its `WAITM`, a post its descriptor's wait; an error is counted and reaches its thread or
channel. A request that is not answered in time ends with `TIMEOUT`, and an answer that comes late is counted. Each is
stated of a core whose engines are empty and none of whose threads waits for earlier work of its own. It rests on the model's own choices of log 7. -/
def Obligations.RemoteAnswers : Prop :=
  ∀ (s : State) (req : Nat),
    (∀ q : RemReq, s.remReqs.find? (fun q => q.id == req) = some q →
      let rest := s.remReqs.filter (fun r => r.id != q.id)
      let calm : Prop := s.halfRuns (coreHalf q.org.core) = true ∧ s.enginesRest q.org.core ∧ ∀ v,
        let w := (s.thread q.org.core v).wait
        w = none ∨ (∃ h ws time ph ev, w = some (.send h ws time ph ev)) ∨
          ∃ rd cmp lim ea pl b on hit, w = some (.waitm rd cmp lim ea pl b on hit)
      let gets (ans : RemAns) (holds : State → Prop) : Prop := ∃ t, exec (.remoteResponse req ans) s = .next t ∧
        t.remReqs = rest ∧ t.mem = s.mem ∧ t.fabOut = s.fabOut ∧ holds t
      let unanswered (c : Nat) (t : State) : Prop := (t.core c).mem.remOut = (s.core c).mem.remOut.filter (fun w => w.id != q.id)
      let failed (c : Nat) (u : BitVec 2) (t : State) : Prop := unanswered c t ∧
        (s.present c = true → (t.core c).penn.getLsbD 31 = true) ∧
        t.thread c u = { s.thread c u with remErr := some ((s.thread c u).remErr.getD q.addr) } ∧ s.counts t 0x80180 32 32
      (∀ ans, q.org.takes ans = false → exec (.remoteResponse req ans) s = .next s) ∧
      (∀ c u, q.org = .write c u → calm →
        gets .ack (fun t => unanswered c t ∧ ∀ d v, t.thread d v = s.thread d v) ∧
        (∀ code : BitVec 4, gets (.err code) (failed c u)) ∧
        (q.sent.toNat + 1000 * s.rfld 0x50018 0 32 ≤ s.elapsed.toNat → ∃ t, exec (.fabRtoExpiry req) s = .next t ∧
          t.remReqs = rest ∧ t.lateReqs = s.lateReqs ++ [req] ∧ failed c u t)) ∧
      (∀ c u h ws time ph ev, q.org = .send c u → calm → (s.thread c u).wait = some (.send h ws time ph ev) → ∀ acc,
        gets (.answer acc) (fun t =>
          t.thread c u = { s.thread c u with wait := some (.send h ws time (.answered acc) ev) })) ∧
      (∀ c u rd cmp lim ea pl b w e bs, q.org = .poll c u → calm →
        (s.thread c u).wait = some (.waitm rd cmp lim ea pl b w e) →
        let v := BitVec.ofNat 64 (ofLE (bs.take 8))
        (v ≠ cmp → ∃ t, exec (.remoteResponse req (.data bs)) s = .next t ∧ t.remReqs = rest.filter (fun r => r.org != .poll c u) ∧
          t.thread c u = (s.thread c u).endWaitm (s.core c).mem.nextId rd v ∧ t.mem = s.mem ∧ t.fabOut = s.fabOut) ∧
        (v = cmp → gets (.data bs) (fun t => ∃ b w e,
          t.thread c u = { s.thread c u with wait := some (.waitm rd cmp lim ea pl b w e) }))) ∧
      (∀ c ch time, q.org = .post c ch time → calm →
        let h := s.chan c ch
        gets (.answer true) (fun t =>
          t.chan c ch = { h with remOut := h.remOut - 1, pennDue := h.pennDue && decide (1 < h.remOut), post := [] }) ∧
        gets (.answer false) (fun t => t.postWaits = s.postWaits ++ [⟨c, ch, s.elapsed, time⟩] ∧ t.chan c ch = h)) ∧
      (∀ c ch g (code : BitVec 4), q.org = .chanWrite c ch g → calm →
        gets .ack (fun t => (t.chan c ch).remOut = (s.chan c ch).remOut - 1) ∧
        ((s.chan c ch).active = true →
          gets (.err code) (fun t => (t.chan c ch).state = .faulted ∧ (t.chan c ch).faddr = q.addr ∧
            (t.chan c ch).fside = true ∧ (t.chan c ch).fcode = (if code = 6 then 8 else 14) ∧ s.counts t 0x80180 32 32))) ∧
      (s.elapsed.toNat < q.sent.toNat + 1000 * s.rfld 0x50018 0 32 → exec (.fabRtoExpiry req) s = .next s)) ∧
    (s.remReqs.find? (fun q => q.id == req) = none →
      exec (.fabRtoExpiry req) s = .next s ∧ ∀ ans,
      (s.lateReqs.contains req = false → exec (.remoteResponse req ans) s = .next s) ∧
      (s.lateReqs.contains req = true → ∃ t, exec (.remoteResponse req ans) s = .next t ∧ s.counts t 0x50018 32 16 ∧
        req ∉ t.lateReqs ∧ t.mem = s.mem ∧ t.cores = s.cores))

/-- R374, R375: what the items of a fabric group do at a barrier of this device. A child that completes is noted, also before
this device has armed; the last one completes this device's share, which goes to the parent or, at the root, releases the
generation. The parent's release passes to the children. A timeout or a break goes to the root, which applies it and sends it
to every child; what comes from the parent passes down to every child, also where this device has applied an outcome already,
and a break takes the place of a timeout. An item of another generation is ignored. It rests on the model's own choices of
log 95. -/
def Obligations.FabricBarriers : Prop :=
  ∀ (s : State) (dev : BitVec 17) (group : BitVec 16) (par : Bool),
    let does (kind : BarKind) (t : State) : Prop := exec (.fabricBarrierEvent dev group kind par) s = .next t
    (s.groupBars group.toNat = [] → ∀ kind, does kind s) ∧
    (∀ n b, s.groupBars group.toNat = [(n, b)] →
      let now := s.barGen n b % 2 == 1
      let kids := s.fbarKids n b
      let parent := s.rfld (fbarOff n b + 8) 0 17
      let item (k : BarKind) (d : Nat) : FabItem := .bar d group.toNat k now
      let whole := s.barState n b = 1 ∧ s.barArrived n b = s.barCount n b ∧ kids.length + 1 = s.rfld (fbarOff n b) 18 4
      let root := s.fbarRoot n b = true
      (par ≠ now → does .complete s ∧ does .release s) ∧
      (par = now → dev.toNat ∈ kids → does .complete s) ∧
      (par = now → dev.toNat ∉ kids →
        (¬whole → ∃ t, does .complete t ∧ t.fbarKids n b = kids ++ [dev.toNat] ∧ dev.toNat ∈ t.fbarAll n b ∧
          t.barGen n b = s.barGen n b ∧ t.fabOut = s.fabOut ∧ t.mem = s.mem ∧ t.cores = s.cores) ∧
        (whole → ¬root → ∃ t, does .complete t ∧ t.fbarKids n b = kids ++ [dev.toNat] ∧ t.barGen n b = s.barGen n b ∧
          t.fabOut = s.fabOut ++ [item .complete parent] ∧ t.mem = s.mem ∧ t.cores = s.cores) ∧
        (whole → root → ∃ t, does .complete t ∧ t.barGen n b = (s.barGen n b + 1) % 256 ∧ t.barArrived n b = 0 ∧
          t.fbarKids n b = [] ∧ t.fabOut = s.fabOut ++ (kids ++ [dev.toNat]).map (item .release) ∧ t.mem = s.mem)) ∧
      (par = now → s.barState n b = 1 → ¬root → dev.toNat = parent → ∃ t, does .release t ∧
        t.barGen n b = (s.barGen n b + 1) % 256 ∧ t.fbarKids n b = [] ∧
        t.fabOut = s.fabOut ++ kids.map (item .release) ∧ t.mem = s.mem) ∧
      (s.barState n b ≠ 1 ∨ root ∨ dev.toNat ≠ parent → does .release s) ∧
      (∀ k st, (k, st) ∈ [(BarKind.timeout, 2), (BarKind.broken, 3)] →
        let takes := s.barState n b = 1 ∨ s.barState n b = 2 ∧ st = 3
        let tells (t : State) : Prop := does k t ∧ t.barGen n b = s.barGen n b ∧
          t.fabOut = s.fabOut ++ (s.fbarAll n b).map (item k) ∧ t.mem = s.mem
        (root → takes → ∃ t, tells t ∧ t.barState n b = st) ∧
        (¬root → dev.toNat = parent → ∃ t, tells t ∧ t.barState n b = if takes then st else s.barState n b) ∧
        (¬root → dev.toNat ≠ parent → takes → ∃ t, does k t ∧ t.barState n b = s.barState n b ∧
          t.fabOut = s.fabOut ++ [item k parent] ∧ t.mem = s.mem ∧ t.cores = s.cores) ∧
        (root ∨ dev.toNat ≠ parent → ¬takes → does k s)))

/-- R292, R293, R296, R298, R311-R313, R430: what the host reads and writes through BAR4, which does not answer in D3hot; the
link's state; a vector unmasked, and a function that may send, send the messages that waited (R313 for Bus Master Enable;
D3hot, MSI-X Enable and the function mask as PCI Express has them, log 118); the partitions follow the VFs, with the rings
of those that move disabled; an FLR resets the partitions of its function, and its end the function; `PE_PERST_N` resets
the host link alone. It rests on the model's own choices of logs 7, 14, 30, 76, 79, 118. -/
def Obligations.HostLinkEvents : Prop :=
  ∀ s : State,
    (s.pins.perst = true → s.link.d3hot.getLsbD 0 = true → ∀ off len e bytes,
      exec (.bar4Read off len e) s = .next s ∧ exec (.bar4Write off bytes) s = .next s) ∧
    (s.pins.perst = true → s.pins.porst = true → s.pins.inReset = false → s.link.d3hot.getLsbD 0 = false → ∀ off : W64,
      let a := s.rfld 0x10010 0 43 + off.toNat
      let inside (len : Nat) := off.toNat + len ≤ 2 ^ s.link.barLog ∧ inTiers a len = true
      let replies (r : WinReply) : State := { s with link := { s.link with win := r } }
      (∀ len, inside len → s.poisoned a len = false → s.rangeUp a len = true →
        exec (.bar4Read off len .good) s = .next (replies (.data (Memory.readBytes s.mem a len)))) ∧
      (∀ len, ¬inside len → ∀ e, exec (.bar4Read off len e) s = .next (replies .unsupported)) ∧
      (∀ len, inside len → s.poisoned a len = true → ∃ t, exec (.bar4Read off len .good) s = .next t ∧ t.link.win = .poisoned ∧
        s.counts t (if inTier1 a then 0x80158 else 0x80160) 32 32 ∧ t.mem = s.mem) ∧
      (∀ bytes : List Byte, (inside bytes.length → exec (.bar4Write off bytes) s = .next (s.putBytes a bytes)) ∧
        (¬inside bytes.length → exec (.bar4Write off bytes) s = .next (s.setRfld 0x10000 16 1 1)))) ∧
    (∀ (speed : BitVec 4) (width : BitVec 5) (flit : Bool),
      (s.pins.perst = true → ∃ t, exec (.pcieLinkStateChange speed width flit true) s = .next t ∧
        t.rfld 0x10000 0 4 = speed.toNat ∧ t.rfld 0x10000 4 5 = width.toNat ∧ t.rfld 0x10000 9 1 = flit.toNat ∧
        t.rfld 0x10000 10 1 = 1 ∧ t.rfld 0x10000 16 1 = s.rfld 0x10000 16 1) ∧
      (∃ t, exec (.pcieLinkStateChange speed width flit false) s = .next t ∧ t.rfld 0x10000 0 11 = 0 ∧
        t.rfld 0x10000 16 1 = s.rfld 0x10000 16 1)) ∧
    (∀ log : BitVec 6, s.pins.perst = true →
      (28 ≤ log.toNat → log.toNat ≤ 36 →
        exec (.barResize log false) s = .next { s with link := { s.link with barLog := log.toNat } }) ∧
      (log.toNat < 28 ∨ 36 < log.toNat → exec (.barResize log false) s = .next s) ∧
      exec (.barResize log true) s = .next s) ∧
    (∀ (fn : BitVec 4) (vec : BitVec 11), s.hostOpen → (fn = 0 ∨ s.vfOn fn.toNat = true ∧ fn.toNat ≤ 8 ∧ vec.toNat < 128) →
      s.link.d3hot.getLsbD fn.toNat = false →
      let f := fn.toNat
      let ctl := f * 0x100000000 + msixEntry vec.toNat + 8
      let pba := f * 0x100000000 + msixPba vec.toNat
      let waits := (s.reg pba).getLsbD (vec.toNat % 64) = true ∧ s.link.bme.getLsbD f = true ∧
        s.link.msixOn.getLsbD f = true ∧ s.link.msixMask.getLsbD f = false
      (s.reg ctl).getLsbD 32 = true → ∃ t, exec (.msixUnmask fn vec) s = .next t ∧ (t.reg ctl).getLsbD 32 = false ∧
        (waits → t.hostOut = s.hostOut ++ [.msix f vec.toNat] ∧ (t.reg pba).getLsbD (vec.toNat % 64) = false) ∧
        (¬waits → t.hostOut = s.hostOut ∧ t.reg pba = s.reg pba)) ∧
    (∀ (fn : BitVec 4) (v : PciControl), s.pins.perst = true → (fn = 0 ∨ s.vfOn fn.toNat = true) →
      let f := fn.toNat
      let i := Instr.busMasterEnableChange fn v
      let link : HostLink := { s.link with
        bme := setBit s.link.bme f v.busMaster, d3hot := setBit s.link.d3hot f v.d3hot
        msixOn := setBit s.link.msixOn f v.msixOn, msixMask := setBit s.link.msixMask f v.msixMask
        aer := if f = 0 then s.link.aer &&& ~~~v.aerClear else s.link.aer }
      let sends := v.busMaster = true ∧ v.d3hot = false ∧ v.msixOn = true ∧ v.msixMask = false
      (¬sends ∨ s.msixPending f = [] → exec i s = .next { s with link := link }) ∧
      (∀ vec, f ≤ 8 → sends → s.msixPending f = [vec] → (s.reg (f * 0x100000000 + msixEntry vec + 8)).getLsbD 32 = false →
        ∃ t, exec i s = .next t ∧ t.link = link ∧ t.hostOut = s.hostOut ++ [.msix f vec] ∧
          (t.reg (f * 0x100000000 + msixPba vec)).getLsbD (vec % 64) = false)) ∧
    (∀ (en : Bool) (num : BitVec 4), s.pins.perst = true →
      (num.toNat ≤ 8 → ∃ t, exec (.vfEnableChange en num) s = .next t ∧ t.rfld 0x10008 0 4 = num.toNat ∧
        t.rfld 0x10008 4 1 = en.toNat ∧ t.mem = s.mem ∧ t.cores = s.cores ∧
        (∀ n, n < 8 → t.fnOf n = (if en = true ∧ n < num.toNat then n + 1 else 0) ∧
          ∀ j, j < 64 → t.sqEn (64 * n + j) = (s.sqEn (64 * n + j) && (s.fnOf n != 0) == (t.fnOf n != 0)) ∧
            t.cqEn (64 * n + j) = (s.cqEn (64 * n + j) && (s.fnOf n != 0) == (t.fnOf n != 0)))) ∧
      (8 < num.toNat → exec (.vfEnableChange en num) s = .next s)) ∧
    (∀ (fn : BitVec 4), s.pins.perst = true → (fn = 0 ∨ s.vfOn fn.toNat = true) →
      let f := fn.toNat
      (∃ t, exec (.flr fn) s = .next t ∧ (∀ d, AMap.get d t.link.flrs f = s.elapsed) ∧
        ∀ n, n < 8 → t.pstate n = (if s.fnOf n = f ∧ s.pstate n ≠ 0 then 1 else s.pstate n) ∧
          (s.fnOf n = f → (∀ m, m < 8 → ∀ i ∈ (s.part m).items, i.pkt.part = m) → (t.part n).items = []))) ∧
    (∀ (fn : BitVec 4) (t0 : W64),
      let f := fn.toNat
      s.link.flrs.find? (fun x => x.1 == f) = some (f, t0) →
      (s.elapsed.toNat < t0.toNat + 100000000 → exec (.flrEnd fn) s = .next s) ∧
      (t0.toNat + 100000000 ≤ s.elapsed.toNat → ∃ t, exec (.flrEnd fn) s = .next t ∧ (∀ x ∈ t.link.flrs, x.1 ≠ f) ∧
        ((∀ c u v k tm, (s.thread c u).wait ≠ some (.hsig v k tm)) →
          t.compl = s.compl.filter (fun c => !(c.ring / 64 < 8 && s.fnOf (c.ring / 64) == f))) ∧
        t.rfld 0x10018 0 32 = min (s.rfld 0x10018 0 32 +
          (s.compl.filter (fun c => c.ring / 64 < 8 && s.fnOf (c.ring / 64) == f)).length) (2 ^ 32 - 1) ∧
        t.link.bme.getLsbD f = false ∧ t.link.d3hot.getLsbD f = false ∧ t.link.msixOn.getLsbD f = false ∧
        t.link.msixMask.getLsbD f = false ∧ t.mem = s.mem ∧
        (∀ n j, n < 8 → j < 64 → s.fnOf n = f → t.sqEn (64 * n + j) = false ∧ t.cqEn (64 * n + j) = false) ∧
        (f = 0 → t.link.barLog = 28 ∧ t.reg 0x10010 = 0 ∧ t.reg 0x10028 = 0 ∧ ∀ n, n < 8 → t.fnOf n = 0))) ∧
    exec (.pePerstN true) s = .next { s with pins := { s.pins with perst := true } } ∧
    (∃ t, exec (.pePerstN false) s = .next t ∧ t.pins = { s.pins with perst := false } ∧ t.link = { HostLink.reset with win := s.link.win } ∧
      (∀ o, 0x10000 ≤ o → o < 0x20000 → t.reg o = regReset o) ∧
      (∀ o, o < 0x10000 ∨ 0x20000 ≤ o ∧ o < 0x100000 → t.reg o = s.reg o) ∧
      (∀ fn vec, vec < 2048 → t.reg (fn * 0x100000000 + msixEntry vec + 8) = 0x100000000) ∧
      t.mem = s.mem ∧ t.cores = s.cores ∧ t.parts = s.parts ∧ t.compl = s.compl)

/-- R452, R465-R468: what the management commands return and change while CP1 runs, and the block read while `PORST_N` is
high; a message that is not sent to the device, or is of another type or vendor, has no response, and a vendor command that
does not exist or has the wrong length has status 1. JTAG: what each instruction selects and shifts out while `TRST_N` is
high; those that drive pins act only while `PORST_N` is low, and then drive them; `TRST_N` low resets the TAP. It rests on the
model's own choices of logs 7, 33, 34, 86, 87, 144. -/
def Obligations.ManagementAccess : Prop :=
  ∀ s : State,
    let runs := s.cp1Runs = true
    let mine (m : MctpHead) := runs ∧ m.addr = 0x40 + s.pins.straps.setWidth 7
    let vendor (m : MctpReq) := mine m.head ∧ m.head.type = 0x7E ∧ m.head.vendor = 0x1F3C
    (s.pins.porst = true → 20000000 ≤ s.elapsed.toNat → ∃ t, exec .smbusBlockRead s = .next t ∧ t.reply.length = 16 ∧
      ofLE (t.reply.take 8) = (s.view 0x10).toNat ∧ ofLE (t.reply.drop 8) = (s.view 0x80000).toNat ∧ t.regs = s.regs) ∧
    (s.pins.porst = false ∨ s.elapsed.toNat < 20000000 → exec .smbusBlockRead s = .next s) ∧
    (∀ m : SetEid,
      (mine m.head → m.head.type = 0 → m.eid ≠ 0 → m.eid ≠ 0xFF →
        exec (.setEndpointId m) s = .next { s with pins := { s.pins with eid := m.eid }, reply := [0, 0, m.eid, 0] }) ∧
      (mine m.head → m.head.type = 0 → m.eid = 0 ∨ m.eid = 0xFF → exec (.setEndpointId m) s = .next { s with reply := [2] }) ∧
      (¬mine m.head ∨ m.head.type ≠ 0 → exec (.setEndpointId m) s = .next s)) ∧
    (∀ (m : MctpReq) (v : W64),
      let o := m.off.toNat
      let allowed := o % 8 = 0 ∧ (o < 0x10000 ∨ 0x51000 ≤ o ∧ o < 0x52000 ∨ 0x60000 ≤ o ∧ o < 0x70000 ∨ 0x80000 ≤ o ∧ o < 0xA0000)
      let reads := vendor m ∧ m.cmd = 1 ∧ m.len = 4
      let writes := vendor m ∧ m.cmd = 2 ∧ m.len = 12
      (reads → allowed → ∃ bs, exec (.mctpRead m) s = .next { s with reply := 0 :: bs } ∧ bs.length = 8 ∧
        ofLE bs = (s.view o).toNat) ∧
      (reads → ¬allowed → exec (.mctpRead m) s = .next { s with reply := [2] }) ∧
      (writes → o = 0x90018 → ∃ t, exec (.mctpWrite m v) s = .next t ∧ t.reply = [0] ∧ t.rfld 0x90018 0 16 = fld v 0 16 ∧
        ∀ p, p ≠ 0x90018 → t.reg p = s.reg p) ∧
      (writes → o = 0x80020 → ∃ t, exec (.mctpWrite m v) s = .next t ∧ t.reply = [0] ∧
        t.reg 0x80020 = (if s.reg 0x80020 ≤ v ∧ v ≤ s.reg 0x80018 then v else s.reg 0x80020) ∧
        ∀ p, p ≠ 0x80020 → t.reg p = s.reg p) ∧
      (writes → o ≠ 0x90018 → o ≠ 0x80020 → exec (.mctpWrite m v) s = .next { s with reply := [2] }) ∧
      ∀ i cmd len, (i, cmd, len) ∈ [(Instr.mctpRead m, 1, 4), (.mctpWrite m v, 2, 12)] →
        (vendor m → m.cmd = cmd ∧ m.len ≠ len ∨ m.cmd ∉ [(1 : Byte), 2, 3] → exec i s = .next { s with reply := [1] }) ∧
        (vendor m → m.cmd ≠ cmd → m.cmd ∈ [(1 : Byte), 2, 3] → exec i s = .next s) ∧ (¬vendor m → exec i s = .next s)) ∧
    (runs → ∃ t, exec .mctpSensors s = .next t ∧ t.reply.length = 33 ∧ t.reply.head? = some 0 ∧ t.regs = s.regs ∧
      ∀ k o, (k, o) ∈ [(0, 0x90010), (1, 0x90020), (2, 0x90000), (3, 0x90008)] →
        ofLE ((t.reply.drop (1 + 8 * k)).take 8) = (s.view o).toNat) ∧
    (¬runs → exec .mctpSensors s = .next s) ∧
    (let sel (u : State) (j : Jtag) (out : List Bool) : State := { u with jtag := j, pins := { u.pins with tdo := out } };
      (s.pins.trst = true →
        exec .bypass s = .next (sel s .bypass [false]) ∧
        (∃ t, exec .idcode s = .next t ∧ t.jtag = .idcode ∧ t.lastRead.getLsbD 0 = true ∧ fld t.lastRead 12 16 = 0xE024 ∧
          t.lastRead.toNat < 2 ^ 32 ∧ t.pins.tdo = (List.range 32).map t.lastRead.getLsbD ∧ t.regs = s.regs) ∧
        (s.pins.porst = false → exec .clamp s = .next (sel s .clamp [false]) ∧
          ∃ t, exec .highz s = .next t ∧ t = sel s .highz [false] ∧ ∀ g : Signal, g.driven = true → t.ball g = none) ∧
        (s.pins.porst = true → ∀ i ∈ [Instr.clamp, .highz], exec i s = .next (sel s .bypass [false]))) ∧
      (s.pins.trst = false → ∀ i ∈ [Instr.bypass, .idcode, .clamp, .highz], exec i s = .next s) ∧
      ∀ bits : List Bool,
        let low : State := { s with jtag := .idcode, pins := { s.pins with trst := false } }
        let high : State := { s with pins := { s.pins with trst := true } }
        let scans (i : Instr) (j : Jtag) (t : State) : Prop := exec i s = .next t ∧
          t = { sel high j t.pins.tdo with bound := bits, free := s.free + 1 } ∧
          ∀ g ∈ signals, ∀ v, high.level g = some v → t.pins.tdo[g.cell]? = some v
        exec (.samplePreload ⟨false, bits⟩) s = .next low ∧ (∃ t, scans (.samplePreload ⟨true, bits⟩) .sample t) ∧
        exec (.extest ⟨false, bits⟩) s = .next low ∧
        (s.pins.porst = false → ∃ t, scans (.extest ⟨true, bits⟩) .extest t ∧
          ∀ g : Signal, g.driven = true → t.ball g = some (bits.getD g.cell false)) ∧
        (s.pins.porst = true → exec (.extest ⟨true, bits⟩) s = .next (sel high .bypass [false])))

/-- R86, R96: an instruction that has been fetched and whose predicate does not hold has no effect, and counts as an
instruction, unless it is `UNDEF` or `PRIV`; within a repetition only its own base register, if it has one, advances. Whether
it is `UNDEF`, and whether `PRIV` in user mode, depends on its encoding alone; a negated predicate 0 is `UNDEF`. -/
def Obligations.IssueOutcomes : Prop :=
  ∀ (i : Instr) (x : Iss) (w : Nat), i.iss = some x → encode i = some w →
    let c := x.core.toNat
    ∃ undef priv : Bool, (x.pn = true → x.pi = 0 → undef = true) ∧ ∀ s : State,
      let y := s.thread c x.thr
      let stops (s1 : State) (code : Nat) : Prop :=
        exec i s = .next (s1.enterExc c x.thr { code := code, stval := BitVec.ofNat 64 w })
      (∀ s1, s.fetched x = some s1 →
        (undef = true → stops s1 1) ∧ (undef = false → priv = true → y.sup = false → stops s1 2) ∧
        (undef = false → priv = false ∨ y.sup = true → y.getP x.pi = x.pn →
          exec i s = .next ((s1.based x (repBase i)).after x id)))

/-- R84, R87-R92: the word of every instruction decodes to it, with every operand at every value (a row that writes one
control register to the `CSRW`, `CSRS` or `CSRC` of the same word), and every word that decodes is the word of what it
decodes to. -/
def Obligations.WordsOfInstructions : Prop :=
  (∀ (i : Instr) (w : Nat), encode i = some w → w < 2 ^ 32 ∧
    (i.csrRow = false → ∃ core thr hw next, decodeCore core thr hw next w = some i) ∧
    (i.csrRow = true → ∀ core thr hw next, ∃ j, decodeCore core thr hw next w = some j ∧ encode j = some w)) ∧
  (∀ core thr hw next w j, w < 2 ^ 32 → decodeCore core thr hw next w = some j →
    encode j = some w ∧ ∃ x, j.iss = some x ∧ x.core = core ∧ x.thr = thr ∧ x.hw = hw)

/-- The block takes the command at the front of its queue and runs it on the state with the rest; with none it idles, and
a table word adds none (logs 3 and 4). The model's own choices: logs 3, 4. -/
def Obligations.StepRunsFront : Prop :=
  (∀ (s : State) (c : Instr) (rest : List Instr),
    step { s with pending := c :: rest } = exec c { s with pending := rest }) ∧
  (∀ s : State, s.pending = [] → step s = .next s) ∧
  (∀ (s : State) (nbits w : Nat), s.withFetchWord nbits w = s)

/-- Every command completes in every state, and no command adds to the queue or takes from it: a step answers a next state
whose queue has lost its front (logs 1 to 3). R78: an instruction of a thread that cannot issue changes nothing (log
7). The model's own choices: logs 1, 2, 3, 7. -/
def Obligations.EveryStepCompletes : Prop :=
  (∀ s : State, ∃ t, step s = .next t ∧ t.pending = s.pending.tail) ∧
  (∀ (s : State) (i : Instr) (x : Iss), i.iss = some x → s.ready x.core.toNat x.thr = false → exec i s = .next s)

/-- Every step keeps the memory in its canonical form: addresses strictly rising, and no entry that reads as an unlisted
address does (log 2). The model's own choices: log 2. -/
def Obligations.MemoryKeepsItsForm : Prop :=
  ∀ s t : State, s.memOk → step s = .next t → t.memOk

/-- R4, R6, R383, R428: what reset leaves: nothing waits, memory lists nothing, the time is 0 and the device in `POR`; the
registers hold the reset values that the register tables give. It rests on the model's own choices of logs 1, 2. -/
def Obligations.ResetValues : Prop :=
  let r := State.reset
  r.pending = [] ∧ r.memOk ∧ r.mem = [] ∧ r.devtime = 0 ∧ r.dstate = 1 ∧ r.stgM = [] ∧
  (∀ n, n < 8 → r.pstate n = 0 ∧ r.reg (prt n 0x108) = 6 ∧ r.reg (trc n 8) = 10) ∧
  (∀ g, g < 512 → r.sqEn g = false ∧ r.cqEn g = false ∧ r.sqSize g = 64 ∧ r.cqSize g = 64) ∧
  (∀ p, p < 16 → r.pstat p = 0 ∧ r.portEn p = true ∧ r.maxMode p = 3 ∧ r.avail p 0 = 0 ∧ r.credSize p 0 = 8 ∧
    r.credSize p 8 = 256) ∧
  (∀ (o : Nat) (v : W64), (o, v) ∈ [(0x28, 0xFFFFFFFFFFFFFFFF), (0x20000, 10000), (0x40000, 0x00FFFFFF00000010),
    (0x40010, 0x1818), (0x50018, 1000), (0x50020, 0xF), (0x60028, 0x6400000000), (0x80010, 0x1000),
    (0x80030, 0x3E81003), (0x90000, 0xE9), (0x90008, 0xE9), (0x90010, 0x640000), (0x90018, 0), (0x10008, 0)] →
    r.reg o = v)
end

