-- ==== Sys2Proof/Laws/Word.lean ====
section
/-!
SUPPORT. What reading a map or a register file gives after a write.
-/
namespace Sys2Proof

theorem AMap.get_put_same {α : Type} (d : α) (m : AMap α) (k : Nat) (v : α) :
    AMap.get d (AMap.put m k v) k = v := by
  induction m with
  | nil => simp [AMap.put, AMap.get]
  | cons p m ih =>
    obtain ⟨k', v'⟩ := p
    unfold AMap.put
    split
    · simp [AMap.get]
    · rename_i h
      split
      · simp [AMap.get]
      · simp [AMap.get, h, ih]

theorem AMap.get_put_ne {α : Type} (d : α) (m : AMap α) {k j : Nat} (v : α) (h : j ≠ k) :
    AMap.get d (AMap.put m k v) j = AMap.get d m j := by
  induction m with
  | nil => simp [AMap.put, AMap.get, h.symm]
  | cons p m ih =>
    obtain ⟨k', v'⟩ := p
    unfold AMap.put
    split
    · rename_i e; subst e; simp [AMap.get, h.symm]
    · split
      · simp [AMap.get, h.symm]
      · simp only [AMap.get]; split
        · rfl
        · exact ih

@[simp] theorem rget_rset_same {α : Type} {n : Nat} (v : Vector α n) (i : Fin n) (x : α) :
    rget (rset v i x) i = x := by
  simp [rget, rset]

@[simp] theorem rset_rget {α : Type} {n : Nat} (v : Vector α n) (i : Fin n) : rset v i (rget v i) = v := by
  simp [rget, rset]

theorem rget_rset_ne {α : Type} {n : Nat} (v : Vector α n) {i j : Fin n} (x : α) (h : j ≠ i) :
    rget (rset v i x) j = rget v j := by
  have : (i : Nat) ≠ (j : Nat) := fun e => h (Fin.ext e.symm)
  simp [rget, rset, this]

end Sys2Proof
end

