-- ==== Sys2Proof/Laws/State.lean ====
section
/-!
SUPPORT. What each named update of the state leaves alone, field by field, and what reading gives after writing.
-/
namespace Sys2Proof.Machine

/-! ### Fields left alone -/

section
variable (s : State)

/-! `setReg` -/

@[simp] theorem State.setReg_pending (off : Nat) (v : W64) : (s.setReg off v).pending = s.pending := rfl
@[simp] theorem State.setReg_free (off : Nat) (v : W64) : (s.setReg off v).free = s.free := rfl
@[simp] theorem State.setReg_stgV (off : Nat) (v : W64) : (s.setReg off v).stgV = s.stgV := rfl
@[simp] theorem State.setReg_stgM (off : Nat) (v : W64) : (s.setReg off v).stgM = s.stgM := rfl
@[simp] theorem State.setReg_mem (off : Nat) (v : W64) : (s.setReg off v).mem = s.mem := rfl
@[simp] theorem State.setReg_poison (off : Nat) (v : W64) : (s.setReg off v).poison = s.poison := rfl
@[simp] theorem State.setReg_cores (off : Nat) (v : W64) : (s.setReg off v).cores = s.cores := rfl
@[simp] theorem State.setReg_parts (off : Nat) (v : W64) : (s.setReg off v).parts = s.parts := rfl
@[simp] theorem State.setReg_msgs (off : Nat) (v : W64) : (s.setReg off v).msgs = s.msgs := rfl
@[simp] theorem State.setReg_nextMsg (off : Nat) (v : W64) : (s.setReg off v).nextMsg = s.nextMsg := rfl
@[simp] theorem State.setReg_remReqs (off : Nat) (v : W64) : (s.setReg off v).remReqs = s.remReqs := rfl
@[simp] theorem State.setReg_nextReq (off : Nat) (v : W64) : (s.setReg off v).nextReq = s.nextReq := rfl
@[simp] theorem State.setReg_lateReqs (off : Nat) (v : W64) : (s.setReg off v).lateReqs = s.lateReqs := rfl
@[simp] theorem State.setReg_fabOut (off : Nat) (v : W64) : (s.setReg off v).fabOut = s.fabOut := rfl
@[simp] theorem State.setReg_unrouted (off : Nat) (v : W64) : (s.setReg off v).unrouted = s.unrouted := rfl
@[simp] theorem State.setReg_tally (off : Nat) (v : W64) : (s.setReg off v).tally = s.tally := rfl
@[simp] theorem State.setReg_kflOut (off : Nat) (v : W64) : (s.setReg off v).kflOut = s.kflOut := rfl
@[simp] theorem State.setReg_hostOut (off : Nat) (v : W64) : (s.setReg off v).hostOut = s.hostOut := rfl
@[simp] theorem State.setReg_unitSeq (off : Nat) (v : W64) : (s.setReg off v).unitSeq = s.unitSeq := rfl
@[simp] theorem State.setReg_devtime (off : Nat) (v : W64) : (s.setReg off v).devtime = s.devtime := rfl
@[simp] theorem State.setReg_frac (off : Nat) (v : W64) : (s.setReg off v).frac = s.frac := rfl
@[simp] theorem State.setReg_elapsed (off : Nat) (v : W64) : (s.setReg off v).elapsed = s.elapsed := rfl
@[simp] theorem State.setReg_decided (off : Nat) (v : W64) : (s.setReg off v).decided = s.decided := rfl
@[simp] theorem State.setReg_nextPkt (off : Nat) (v : W64) : (s.setReg off v).nextPkt = s.nextPkt := rfl
@[simp] theorem State.setReg_owed (off : Nat) (v : W64) : (s.setReg off v).owed = s.owed := rfl
@[simp] theorem State.setReg_compl (off : Nat) (v : W64) : (s.setReg off v).compl = s.compl := rfl
@[simp] theorem State.setReg_sluice (off : Nat) (v : W64) : (s.setReg off v).sluice = s.sluice := rfl
@[simp] theorem State.setReg_fast (off : Nat) (v : W64) : (s.setReg off v).fast = s.fast := rfl
@[simp] theorem State.setReg_fwq (off : Nat) (v : W64) : (s.setReg off v).fwq = s.fwq := rfl
@[simp] theorem State.setReg_jobs (off : Nat) (v : W64) : (s.setReg off v).jobs = s.jobs := rfl
@[simp] theorem State.setReg_staged (off : Nat) (v : W64) : (s.setReg off v).staged = s.staged := rfl
@[simp] theorem State.setReg_stageBuf (off : Nat) (v : W64) : (s.setReg off v).stageBuf = s.stageBuf := rfl
@[simp] theorem State.setReg_devImg (off : Nat) (v : W64) : (s.setReg off v).devImg = s.devImg := rfl
@[simp] theorem State.setReg_moorUnits (off : Nat) (v : W64) : (s.setReg off v).moorUnits = s.moorUnits := rfl
@[simp] theorem State.setReg_ports (off : Nat) (v : W64) : (s.setReg off v).ports = s.ports := rfl
@[simp] theorem State.setReg_postWaits (off : Nat) (v : W64) : (s.setReg off v).postWaits = s.postWaits := rfl
@[simp] theorem State.setReg_west (off : Nat) (v : W64) : (s.setReg off v).west = s.west := rfl
@[simp] theorem State.setReg_east (off : Nat) (v : W64) : (s.setReg off v).east = s.east := rfl
@[simp] theorem State.setReg_calmSince (off : Nat) (v : W64) : (s.setReg off v).calmSince = s.calmSince := rfl
@[simp] theorem State.setReg_capped (off : Nat) (v : W64) : (s.setReg off v).capped = s.capped := rfl
@[simp] theorem State.setReg_link (off : Nat) (v : W64) : (s.setReg off v).link = s.link := rfl
@[simp] theorem State.setReg_pins (off : Nat) (v : W64) : (s.setReg off v).pins = s.pins := rfl
@[simp] theorem State.setReg_boot (off : Nat) (v : W64) : (s.setReg off v).boot = s.boot := rfl
@[simp] theorem State.setReg_sync (off : Nat) (v : W64) : (s.setReg off v).sync = s.sync := rfl
@[simp] theorem State.setReg_jtag (off : Nat) (v : W64) : (s.setReg off v).jtag = s.jtag := rfl
@[simp] theorem State.setReg_bound (off : Nat) (v : W64) : (s.setReg off v).bound = s.bound := rfl
@[simp] theorem State.setReg_lastRead (off : Nat) (v : W64) : (s.setReg off v).lastRead = s.lastRead := rfl
@[simp] theorem State.setReg_reply (off : Nat) (v : W64) : (s.setReg off v).reply = s.reply := rfl
@[simp] theorem State.setReg_partmap (off : Nat) (v : W64) : (s.setReg off v).partmap = s.partmap := rfl

/-! `setRfld` -/

@[simp] theorem State.setRfld_pending (off lo w x : Nat) : (s.setRfld off lo w x).pending = s.pending := rfl
@[simp] theorem State.setRfld_free (off lo w x : Nat) : (s.setRfld off lo w x).free = s.free := rfl
@[simp] theorem State.setRfld_stgV (off lo w x : Nat) : (s.setRfld off lo w x).stgV = s.stgV := rfl
@[simp] theorem State.setRfld_stgM (off lo w x : Nat) : (s.setRfld off lo w x).stgM = s.stgM := rfl
@[simp] theorem State.setRfld_mem (off lo w x : Nat) : (s.setRfld off lo w x).mem = s.mem := rfl
@[simp] theorem State.setRfld_poison (off lo w x : Nat) : (s.setRfld off lo w x).poison = s.poison := rfl
@[simp] theorem State.setRfld_cores (off lo w x : Nat) : (s.setRfld off lo w x).cores = s.cores := rfl
@[simp] theorem State.setRfld_parts (off lo w x : Nat) : (s.setRfld off lo w x).parts = s.parts := rfl
@[simp] theorem State.setRfld_msgs (off lo w x : Nat) : (s.setRfld off lo w x).msgs = s.msgs := rfl
@[simp] theorem State.setRfld_nextMsg (off lo w x : Nat) : (s.setRfld off lo w x).nextMsg = s.nextMsg := rfl
@[simp] theorem State.setRfld_remReqs (off lo w x : Nat) : (s.setRfld off lo w x).remReqs = s.remReqs := rfl
@[simp] theorem State.setRfld_nextReq (off lo w x : Nat) : (s.setRfld off lo w x).nextReq = s.nextReq := rfl
@[simp] theorem State.setRfld_lateReqs (off lo w x : Nat) : (s.setRfld off lo w x).lateReqs = s.lateReqs := rfl
@[simp] theorem State.setRfld_fabOut (off lo w x : Nat) : (s.setRfld off lo w x).fabOut = s.fabOut := rfl
@[simp] theorem State.setRfld_unrouted (off lo w x : Nat) : (s.setRfld off lo w x).unrouted = s.unrouted := rfl
@[simp] theorem State.setRfld_tally (off lo w x : Nat) : (s.setRfld off lo w x).tally = s.tally := rfl
@[simp] theorem State.setRfld_kflOut (off lo w x : Nat) : (s.setRfld off lo w x).kflOut = s.kflOut := rfl
@[simp] theorem State.setRfld_hostOut (off lo w x : Nat) : (s.setRfld off lo w x).hostOut = s.hostOut := rfl
@[simp] theorem State.setRfld_unitSeq (off lo w x : Nat) : (s.setRfld off lo w x).unitSeq = s.unitSeq := rfl
@[simp] theorem State.setRfld_devtime (off lo w x : Nat) : (s.setRfld off lo w x).devtime = s.devtime := rfl
@[simp] theorem State.setRfld_frac (off lo w x : Nat) : (s.setRfld off lo w x).frac = s.frac := rfl
@[simp] theorem State.setRfld_elapsed (off lo w x : Nat) : (s.setRfld off lo w x).elapsed = s.elapsed := rfl
@[simp] theorem State.setRfld_decided (off lo w x : Nat) : (s.setRfld off lo w x).decided = s.decided := rfl
@[simp] theorem State.setRfld_nextPkt (off lo w x : Nat) : (s.setRfld off lo w x).nextPkt = s.nextPkt := rfl
@[simp] theorem State.setRfld_owed (off lo w x : Nat) : (s.setRfld off lo w x).owed = s.owed := rfl
@[simp] theorem State.setRfld_compl (off lo w x : Nat) : (s.setRfld off lo w x).compl = s.compl := rfl
@[simp] theorem State.setRfld_sluice (off lo w x : Nat) : (s.setRfld off lo w x).sluice = s.sluice := rfl
@[simp] theorem State.setRfld_fast (off lo w x : Nat) : (s.setRfld off lo w x).fast = s.fast := rfl
@[simp] theorem State.setRfld_fwq (off lo w x : Nat) : (s.setRfld off lo w x).fwq = s.fwq := rfl
@[simp] theorem State.setRfld_jobs (off lo w x : Nat) : (s.setRfld off lo w x).jobs = s.jobs := rfl
@[simp] theorem State.setRfld_staged (off lo w x : Nat) : (s.setRfld off lo w x).staged = s.staged := rfl
@[simp] theorem State.setRfld_stageBuf (off lo w x : Nat) : (s.setRfld off lo w x).stageBuf = s.stageBuf := rfl
@[simp] theorem State.setRfld_devImg (off lo w x : Nat) : (s.setRfld off lo w x).devImg = s.devImg := rfl
@[simp] theorem State.setRfld_moorUnits (off lo w x : Nat) : (s.setRfld off lo w x).moorUnits = s.moorUnits := rfl
@[simp] theorem State.setRfld_ports (off lo w x : Nat) : (s.setRfld off lo w x).ports = s.ports := rfl
@[simp] theorem State.setRfld_postWaits (off lo w x : Nat) : (s.setRfld off lo w x).postWaits = s.postWaits := rfl
@[simp] theorem State.setRfld_west (off lo w x : Nat) : (s.setRfld off lo w x).west = s.west := rfl
@[simp] theorem State.setRfld_east (off lo w x : Nat) : (s.setRfld off lo w x).east = s.east := rfl
@[simp] theorem State.setRfld_calmSince (off lo w x : Nat) : (s.setRfld off lo w x).calmSince = s.calmSince := rfl
@[simp] theorem State.setRfld_capped (off lo w x : Nat) : (s.setRfld off lo w x).capped = s.capped := rfl
@[simp] theorem State.setRfld_link (off lo w x : Nat) : (s.setRfld off lo w x).link = s.link := rfl
@[simp] theorem State.setRfld_pins (off lo w x : Nat) : (s.setRfld off lo w x).pins = s.pins := rfl
@[simp] theorem State.setRfld_boot (off lo w x : Nat) : (s.setRfld off lo w x).boot = s.boot := rfl
@[simp] theorem State.setRfld_sync (off lo w x : Nat) : (s.setRfld off lo w x).sync = s.sync := rfl
@[simp] theorem State.setRfld_jtag (off lo w x : Nat) : (s.setRfld off lo w x).jtag = s.jtag := rfl
@[simp] theorem State.setRfld_bound (off lo w x : Nat) : (s.setRfld off lo w x).bound = s.bound := rfl
@[simp] theorem State.setRfld_lastRead (off lo w x : Nat) : (s.setRfld off lo w x).lastRead = s.lastRead := rfl
@[simp] theorem State.setRfld_reply (off lo w x : Nat) : (s.setRfld off lo w x).reply = s.reply := rfl
@[simp] theorem State.setRfld_partmap (off lo w x : Nat) : (s.setRfld off lo w x).partmap = s.partmap := rfl

/-! `setCore` -/

@[simp] theorem State.setCore_pending (c : Nat) (k : Core) : (s.setCore c k).pending = s.pending := rfl
@[simp] theorem State.setCore_free (c : Nat) (k : Core) : (s.setCore c k).free = s.free := rfl
@[simp] theorem State.setCore_regs (c : Nat) (k : Core) : (s.setCore c k).regs = s.regs := rfl
@[simp] theorem State.setCore_stgV (c : Nat) (k : Core) : (s.setCore c k).stgV = s.stgV := rfl
@[simp] theorem State.setCore_stgM (c : Nat) (k : Core) : (s.setCore c k).stgM = s.stgM := rfl
@[simp] theorem State.setCore_mem (c : Nat) (k : Core) : (s.setCore c k).mem = s.mem := rfl
@[simp] theorem State.setCore_poison (c : Nat) (k : Core) : (s.setCore c k).poison = s.poison := rfl
@[simp] theorem State.setCore_parts (c : Nat) (k : Core) : (s.setCore c k).parts = s.parts := rfl
@[simp] theorem State.setCore_msgs (c : Nat) (k : Core) : (s.setCore c k).msgs = s.msgs := rfl
@[simp] theorem State.setCore_nextMsg (c : Nat) (k : Core) : (s.setCore c k).nextMsg = s.nextMsg := rfl
@[simp] theorem State.setCore_remReqs (c : Nat) (k : Core) : (s.setCore c k).remReqs = s.remReqs := rfl
@[simp] theorem State.setCore_nextReq (c : Nat) (k : Core) : (s.setCore c k).nextReq = s.nextReq := rfl
@[simp] theorem State.setCore_lateReqs (c : Nat) (k : Core) : (s.setCore c k).lateReqs = s.lateReqs := rfl
@[simp] theorem State.setCore_fabOut (c : Nat) (k : Core) : (s.setCore c k).fabOut = s.fabOut := rfl
@[simp] theorem State.setCore_unrouted (c : Nat) (k : Core) : (s.setCore c k).unrouted = s.unrouted := rfl
@[simp] theorem State.setCore_tally (c : Nat) (k : Core) : (s.setCore c k).tally = s.tally := rfl
@[simp] theorem State.setCore_kflOut (c : Nat) (k : Core) : (s.setCore c k).kflOut = s.kflOut := rfl
@[simp] theorem State.setCore_hostOut (c : Nat) (k : Core) : (s.setCore c k).hostOut = s.hostOut := rfl
@[simp] theorem State.setCore_unitSeq (c : Nat) (k : Core) : (s.setCore c k).unitSeq = s.unitSeq := rfl
@[simp] theorem State.setCore_devtime (c : Nat) (k : Core) : (s.setCore c k).devtime = s.devtime := rfl
@[simp] theorem State.setCore_frac (c : Nat) (k : Core) : (s.setCore c k).frac = s.frac := rfl
@[simp] theorem State.setCore_elapsed (c : Nat) (k : Core) : (s.setCore c k).elapsed = s.elapsed := rfl
@[simp] theorem State.setCore_decided (c : Nat) (k : Core) : (s.setCore c k).decided = s.decided := rfl
@[simp] theorem State.setCore_nextPkt (c : Nat) (k : Core) : (s.setCore c k).nextPkt = s.nextPkt := rfl
@[simp] theorem State.setCore_owed (c : Nat) (k : Core) : (s.setCore c k).owed = s.owed := rfl
@[simp] theorem State.setCore_compl (c : Nat) (k : Core) : (s.setCore c k).compl = s.compl := rfl
@[simp] theorem State.setCore_sluice (c : Nat) (k : Core) : (s.setCore c k).sluice = s.sluice := rfl
@[simp] theorem State.setCore_fast (c : Nat) (k : Core) : (s.setCore c k).fast = s.fast := rfl
@[simp] theorem State.setCore_fwq (c : Nat) (k : Core) : (s.setCore c k).fwq = s.fwq := rfl
@[simp] theorem State.setCore_jobs (c : Nat) (k : Core) : (s.setCore c k).jobs = s.jobs := rfl
@[simp] theorem State.setCore_staged (c : Nat) (k : Core) : (s.setCore c k).staged = s.staged := rfl
@[simp] theorem State.setCore_stageBuf (c : Nat) (k : Core) : (s.setCore c k).stageBuf = s.stageBuf := rfl
@[simp] theorem State.setCore_devImg (c : Nat) (k : Core) : (s.setCore c k).devImg = s.devImg := rfl
@[simp] theorem State.setCore_moorUnits (c : Nat) (k : Core) : (s.setCore c k).moorUnits = s.moorUnits := rfl
@[simp] theorem State.setCore_ports (c : Nat) (k : Core) : (s.setCore c k).ports = s.ports := rfl
@[simp] theorem State.setCore_postWaits (c : Nat) (k : Core) : (s.setCore c k).postWaits = s.postWaits := rfl
@[simp] theorem State.setCore_west (c : Nat) (k : Core) : (s.setCore c k).west = s.west := rfl
@[simp] theorem State.setCore_east (c : Nat) (k : Core) : (s.setCore c k).east = s.east := rfl
@[simp] theorem State.setCore_calmSince (c : Nat) (k : Core) : (s.setCore c k).calmSince = s.calmSince := rfl
@[simp] theorem State.setCore_capped (c : Nat) (k : Core) : (s.setCore c k).capped = s.capped := rfl
@[simp] theorem State.setCore_link (c : Nat) (k : Core) : (s.setCore c k).link = s.link := rfl
@[simp] theorem State.setCore_pins (c : Nat) (k : Core) : (s.setCore c k).pins = s.pins := rfl
@[simp] theorem State.setCore_boot (c : Nat) (k : Core) : (s.setCore c k).boot = s.boot := rfl
@[simp] theorem State.setCore_sync (c : Nat) (k : Core) : (s.setCore c k).sync = s.sync := rfl
@[simp] theorem State.setCore_jtag (c : Nat) (k : Core) : (s.setCore c k).jtag = s.jtag := rfl
@[simp] theorem State.setCore_bound (c : Nat) (k : Core) : (s.setCore c k).bound = s.bound := rfl
@[simp] theorem State.setCore_lastRead (c : Nat) (k : Core) : (s.setCore c k).lastRead = s.lastRead := rfl
@[simp] theorem State.setCore_reply (c : Nat) (k : Core) : (s.setCore c k).reply = s.reply := rfl
@[simp] theorem State.setCore_partmap (c : Nat) (k : Core) : (s.setCore c k).partmap = s.partmap := rfl

/-! `modCore` -/

@[simp] theorem State.modCore_pending (c : Nat) (f : Core → Core) : (s.modCore c f).pending = s.pending := rfl
@[simp] theorem State.modCore_free (c : Nat) (f : Core → Core) : (s.modCore c f).free = s.free := rfl
@[simp] theorem State.modCore_regs (c : Nat) (f : Core → Core) : (s.modCore c f).regs = s.regs := rfl
@[simp] theorem State.modCore_stgV (c : Nat) (f : Core → Core) : (s.modCore c f).stgV = s.stgV := rfl
@[simp] theorem State.modCore_stgM (c : Nat) (f : Core → Core) : (s.modCore c f).stgM = s.stgM := rfl
@[simp] theorem State.modCore_mem (c : Nat) (f : Core → Core) : (s.modCore c f).mem = s.mem := rfl
@[simp] theorem State.modCore_poison (c : Nat) (f : Core → Core) : (s.modCore c f).poison = s.poison := rfl
@[simp] theorem State.modCore_parts (c : Nat) (f : Core → Core) : (s.modCore c f).parts = s.parts := rfl
@[simp] theorem State.modCore_msgs (c : Nat) (f : Core → Core) : (s.modCore c f).msgs = s.msgs := rfl
@[simp] theorem State.modCore_nextMsg (c : Nat) (f : Core → Core) : (s.modCore c f).nextMsg = s.nextMsg := rfl
@[simp] theorem State.modCore_remReqs (c : Nat) (f : Core → Core) : (s.modCore c f).remReqs = s.remReqs := rfl
@[simp] theorem State.modCore_nextReq (c : Nat) (f : Core → Core) : (s.modCore c f).nextReq = s.nextReq := rfl
@[simp] theorem State.modCore_lateReqs (c : Nat) (f : Core → Core) : (s.modCore c f).lateReqs = s.lateReqs := rfl
@[simp] theorem State.modCore_fabOut (c : Nat) (f : Core → Core) : (s.modCore c f).fabOut = s.fabOut := rfl
@[simp] theorem State.modCore_unrouted (c : Nat) (f : Core → Core) : (s.modCore c f).unrouted = s.unrouted := rfl
@[simp] theorem State.modCore_tally (c : Nat) (f : Core → Core) : (s.modCore c f).tally = s.tally := rfl
@[simp] theorem State.modCore_kflOut (c : Nat) (f : Core → Core) : (s.modCore c f).kflOut = s.kflOut := rfl
@[simp] theorem State.modCore_hostOut (c : Nat) (f : Core → Core) : (s.modCore c f).hostOut = s.hostOut := rfl
@[simp] theorem State.modCore_unitSeq (c : Nat) (f : Core → Core) : (s.modCore c f).unitSeq = s.unitSeq := rfl
@[simp] theorem State.modCore_devtime (c : Nat) (f : Core → Core) : (s.modCore c f).devtime = s.devtime := rfl
@[simp] theorem State.modCore_frac (c : Nat) (f : Core → Core) : (s.modCore c f).frac = s.frac := rfl
@[simp] theorem State.modCore_elapsed (c : Nat) (f : Core → Core) : (s.modCore c f).elapsed = s.elapsed := rfl
@[simp] theorem State.modCore_decided (c : Nat) (f : Core → Core) : (s.modCore c f).decided = s.decided := rfl
@[simp] theorem State.modCore_nextPkt (c : Nat) (f : Core → Core) : (s.modCore c f).nextPkt = s.nextPkt := rfl
@[simp] theorem State.modCore_owed (c : Nat) (f : Core → Core) : (s.modCore c f).owed = s.owed := rfl
@[simp] theorem State.modCore_compl (c : Nat) (f : Core → Core) : (s.modCore c f).compl = s.compl := rfl
@[simp] theorem State.modCore_sluice (c : Nat) (f : Core → Core) : (s.modCore c f).sluice = s.sluice := rfl
@[simp] theorem State.modCore_fast (c : Nat) (f : Core → Core) : (s.modCore c f).fast = s.fast := rfl
@[simp] theorem State.modCore_fwq (c : Nat) (f : Core → Core) : (s.modCore c f).fwq = s.fwq := rfl
@[simp] theorem State.modCore_jobs (c : Nat) (f : Core → Core) : (s.modCore c f).jobs = s.jobs := rfl
@[simp] theorem State.modCore_staged (c : Nat) (f : Core → Core) : (s.modCore c f).staged = s.staged := rfl
@[simp] theorem State.modCore_stageBuf (c : Nat) (f : Core → Core) : (s.modCore c f).stageBuf = s.stageBuf := rfl
@[simp] theorem State.modCore_devImg (c : Nat) (f : Core → Core) : (s.modCore c f).devImg = s.devImg := rfl
@[simp] theorem State.modCore_moorUnits (c : Nat) (f : Core → Core) : (s.modCore c f).moorUnits = s.moorUnits := rfl
@[simp] theorem State.modCore_ports (c : Nat) (f : Core → Core) : (s.modCore c f).ports = s.ports := rfl
@[simp] theorem State.modCore_postWaits (c : Nat) (f : Core → Core) : (s.modCore c f).postWaits = s.postWaits := rfl
@[simp] theorem State.modCore_west (c : Nat) (f : Core → Core) : (s.modCore c f).west = s.west := rfl
@[simp] theorem State.modCore_east (c : Nat) (f : Core → Core) : (s.modCore c f).east = s.east := rfl
@[simp] theorem State.modCore_calmSince (c : Nat) (f : Core → Core) : (s.modCore c f).calmSince = s.calmSince := rfl
@[simp] theorem State.modCore_capped (c : Nat) (f : Core → Core) : (s.modCore c f).capped = s.capped := rfl
@[simp] theorem State.modCore_link (c : Nat) (f : Core → Core) : (s.modCore c f).link = s.link := rfl
@[simp] theorem State.modCore_pins (c : Nat) (f : Core → Core) : (s.modCore c f).pins = s.pins := rfl
@[simp] theorem State.modCore_boot (c : Nat) (f : Core → Core) : (s.modCore c f).boot = s.boot := rfl
@[simp] theorem State.modCore_sync (c : Nat) (f : Core → Core) : (s.modCore c f).sync = s.sync := rfl
@[simp] theorem State.modCore_jtag (c : Nat) (f : Core → Core) : (s.modCore c f).jtag = s.jtag := rfl
@[simp] theorem State.modCore_bound (c : Nat) (f : Core → Core) : (s.modCore c f).bound = s.bound := rfl
@[simp] theorem State.modCore_lastRead (c : Nat) (f : Core → Core) : (s.modCore c f).lastRead = s.lastRead := rfl
@[simp] theorem State.modCore_reply (c : Nat) (f : Core → Core) : (s.modCore c f).reply = s.reply := rfl
@[simp] theorem State.modCore_partmap (c : Nat) (f : Core → Core) : (s.modCore c f).partmap = s.partmap := rfl

/-! `setThread` -/

@[simp] theorem State.setThread_pending (c : Nat) (t : BitVec 2) (x : Thread) : (s.setThread c t x).pending = s.pending := rfl
@[simp] theorem State.setThread_free (c : Nat) (t : BitVec 2) (x : Thread) : (s.setThread c t x).free = s.free := rfl
@[simp] theorem State.setThread_regs (c : Nat) (t : BitVec 2) (x : Thread) : (s.setThread c t x).regs = s.regs := rfl
@[simp] theorem State.setThread_stgV (c : Nat) (t : BitVec 2) (x : Thread) : (s.setThread c t x).stgV = s.stgV := rfl
@[simp] theorem State.setThread_stgM (c : Nat) (t : BitVec 2) (x : Thread) : (s.setThread c t x).stgM = s.stgM := rfl
@[simp] theorem State.setThread_mem (c : Nat) (t : BitVec 2) (x : Thread) : (s.setThread c t x).mem = s.mem := rfl
@[simp] theorem State.setThread_poison (c : Nat) (t : BitVec 2) (x : Thread) : (s.setThread c t x).poison = s.poison := rfl
@[simp] theorem State.setThread_parts (c : Nat) (t : BitVec 2) (x : Thread) : (s.setThread c t x).parts = s.parts := rfl
@[simp] theorem State.setThread_msgs (c : Nat) (t : BitVec 2) (x : Thread) : (s.setThread c t x).msgs = s.msgs := rfl
@[simp] theorem State.setThread_nextMsg (c : Nat) (t : BitVec 2) (x : Thread) : (s.setThread c t x).nextMsg = s.nextMsg := rfl
@[simp] theorem State.setThread_remReqs (c : Nat) (t : BitVec 2) (x : Thread) : (s.setThread c t x).remReqs = s.remReqs := rfl
@[simp] theorem State.setThread_nextReq (c : Nat) (t : BitVec 2) (x : Thread) : (s.setThread c t x).nextReq = s.nextReq := rfl
@[simp] theorem State.setThread_lateReqs (c : Nat) (t : BitVec 2) (x : Thread) : (s.setThread c t x).lateReqs = s.lateReqs := rfl
@[simp] theorem State.setThread_fabOut (c : Nat) (t : BitVec 2) (x : Thread) : (s.setThread c t x).fabOut = s.fabOut := rfl
@[simp] theorem State.setThread_unrouted (c : Nat) (t : BitVec 2) (x : Thread) : (s.setThread c t x).unrouted = s.unrouted := rfl
@[simp] theorem State.setThread_tally (c : Nat) (t : BitVec 2) (x : Thread) : (s.setThread c t x).tally = s.tally := rfl
@[simp] theorem State.setThread_kflOut (c : Nat) (t : BitVec 2) (x : Thread) : (s.setThread c t x).kflOut = s.kflOut := rfl
@[simp] theorem State.setThread_hostOut (c : Nat) (t : BitVec 2) (x : Thread) : (s.setThread c t x).hostOut = s.hostOut := rfl
@[simp] theorem State.setThread_unitSeq (c : Nat) (t : BitVec 2) (x : Thread) : (s.setThread c t x).unitSeq = s.unitSeq := rfl
@[simp] theorem State.setThread_devtime (c : Nat) (t : BitVec 2) (x : Thread) : (s.setThread c t x).devtime = s.devtime := rfl
@[simp] theorem State.setThread_frac (c : Nat) (t : BitVec 2) (x : Thread) : (s.setThread c t x).frac = s.frac := rfl
@[simp] theorem State.setThread_elapsed (c : Nat) (t : BitVec 2) (x : Thread) : (s.setThread c t x).elapsed = s.elapsed := rfl
@[simp] theorem State.setThread_decided (c : Nat) (t : BitVec 2) (x : Thread) : (s.setThread c t x).decided = s.decided := rfl
@[simp] theorem State.setThread_nextPkt (c : Nat) (t : BitVec 2) (x : Thread) : (s.setThread c t x).nextPkt = s.nextPkt := rfl
@[simp] theorem State.setThread_owed (c : Nat) (t : BitVec 2) (x : Thread) : (s.setThread c t x).owed = s.owed := rfl
@[simp] theorem State.setThread_compl (c : Nat) (t : BitVec 2) (x : Thread) : (s.setThread c t x).compl = s.compl := rfl
@[simp] theorem State.setThread_sluice (c : Nat) (t : BitVec 2) (x : Thread) : (s.setThread c t x).sluice = s.sluice := rfl
@[simp] theorem State.setThread_fast (c : Nat) (t : BitVec 2) (x : Thread) : (s.setThread c t x).fast = s.fast := rfl
@[simp] theorem State.setThread_fwq (c : Nat) (t : BitVec 2) (x : Thread) : (s.setThread c t x).fwq = s.fwq := rfl
@[simp] theorem State.setThread_jobs (c : Nat) (t : BitVec 2) (x : Thread) : (s.setThread c t x).jobs = s.jobs := rfl
@[simp] theorem State.setThread_staged (c : Nat) (t : BitVec 2) (x : Thread) : (s.setThread c t x).staged = s.staged := rfl
@[simp] theorem State.setThread_stageBuf (c : Nat) (t : BitVec 2) (x : Thread) : (s.setThread c t x).stageBuf = s.stageBuf := rfl
@[simp] theorem State.setThread_devImg (c : Nat) (t : BitVec 2) (x : Thread) : (s.setThread c t x).devImg = s.devImg := rfl
@[simp] theorem State.setThread_moorUnits (c : Nat) (t : BitVec 2) (x : Thread) : (s.setThread c t x).moorUnits = s.moorUnits := rfl
@[simp] theorem State.setThread_ports (c : Nat) (t : BitVec 2) (x : Thread) : (s.setThread c t x).ports = s.ports := rfl
@[simp] theorem State.setThread_postWaits (c : Nat) (t : BitVec 2) (x : Thread) : (s.setThread c t x).postWaits = s.postWaits := rfl
@[simp] theorem State.setThread_west (c : Nat) (t : BitVec 2) (x : Thread) : (s.setThread c t x).west = s.west := rfl
@[simp] theorem State.setThread_east (c : Nat) (t : BitVec 2) (x : Thread) : (s.setThread c t x).east = s.east := rfl
@[simp] theorem State.setThread_calmSince (c : Nat) (t : BitVec 2) (x : Thread) : (s.setThread c t x).calmSince = s.calmSince := rfl
@[simp] theorem State.setThread_capped (c : Nat) (t : BitVec 2) (x : Thread) : (s.setThread c t x).capped = s.capped := rfl
@[simp] theorem State.setThread_link (c : Nat) (t : BitVec 2) (x : Thread) : (s.setThread c t x).link = s.link := rfl
@[simp] theorem State.setThread_pins (c : Nat) (t : BitVec 2) (x : Thread) : (s.setThread c t x).pins = s.pins := rfl
@[simp] theorem State.setThread_boot (c : Nat) (t : BitVec 2) (x : Thread) : (s.setThread c t x).boot = s.boot := rfl
@[simp] theorem State.setThread_sync (c : Nat) (t : BitVec 2) (x : Thread) : (s.setThread c t x).sync = s.sync := rfl
@[simp] theorem State.setThread_jtag (c : Nat) (t : BitVec 2) (x : Thread) : (s.setThread c t x).jtag = s.jtag := rfl
@[simp] theorem State.setThread_bound (c : Nat) (t : BitVec 2) (x : Thread) : (s.setThread c t x).bound = s.bound := rfl
@[simp] theorem State.setThread_lastRead (c : Nat) (t : BitVec 2) (x : Thread) : (s.setThread c t x).lastRead = s.lastRead := rfl
@[simp] theorem State.setThread_reply (c : Nat) (t : BitVec 2) (x : Thread) : (s.setThread c t x).reply = s.reply := rfl
@[simp] theorem State.setThread_partmap (c : Nat) (t : BitVec 2) (x : Thread) : (s.setThread c t x).partmap = s.partmap := rfl

/-! `modThread` -/

@[simp] theorem State.modThread_pending (c : Nat) (t : BitVec 2) (f : Thread → Thread) : (s.modThread c t f).pending = s.pending := rfl
@[simp] theorem State.modThread_free (c : Nat) (t : BitVec 2) (f : Thread → Thread) : (s.modThread c t f).free = s.free := rfl
@[simp] theorem State.modThread_regs (c : Nat) (t : BitVec 2) (f : Thread → Thread) : (s.modThread c t f).regs = s.regs := rfl
@[simp] theorem State.modThread_stgV (c : Nat) (t : BitVec 2) (f : Thread → Thread) : (s.modThread c t f).stgV = s.stgV := rfl
@[simp] theorem State.modThread_stgM (c : Nat) (t : BitVec 2) (f : Thread → Thread) : (s.modThread c t f).stgM = s.stgM := rfl
@[simp] theorem State.modThread_mem (c : Nat) (t : BitVec 2) (f : Thread → Thread) : (s.modThread c t f).mem = s.mem := rfl
@[simp] theorem State.modThread_poison (c : Nat) (t : BitVec 2) (f : Thread → Thread) : (s.modThread c t f).poison = s.poison := rfl
@[simp] theorem State.modThread_parts (c : Nat) (t : BitVec 2) (f : Thread → Thread) : (s.modThread c t f).parts = s.parts := rfl
@[simp] theorem State.modThread_msgs (c : Nat) (t : BitVec 2) (f : Thread → Thread) : (s.modThread c t f).msgs = s.msgs := rfl
@[simp] theorem State.modThread_nextMsg (c : Nat) (t : BitVec 2) (f : Thread → Thread) : (s.modThread c t f).nextMsg = s.nextMsg := rfl
@[simp] theorem State.modThread_remReqs (c : Nat) (t : BitVec 2) (f : Thread → Thread) : (s.modThread c t f).remReqs = s.remReqs := rfl
@[simp] theorem State.modThread_nextReq (c : Nat) (t : BitVec 2) (f : Thread → Thread) : (s.modThread c t f).nextReq = s.nextReq := rfl
@[simp] theorem State.modThread_lateReqs (c : Nat) (t : BitVec 2) (f : Thread → Thread) : (s.modThread c t f).lateReqs = s.lateReqs := rfl
@[simp] theorem State.modThread_fabOut (c : Nat) (t : BitVec 2) (f : Thread → Thread) : (s.modThread c t f).fabOut = s.fabOut := rfl
@[simp] theorem State.modThread_unrouted (c : Nat) (t : BitVec 2) (f : Thread → Thread) : (s.modThread c t f).unrouted = s.unrouted := rfl
@[simp] theorem State.modThread_tally (c : Nat) (t : BitVec 2) (f : Thread → Thread) : (s.modThread c t f).tally = s.tally := rfl
@[simp] theorem State.modThread_kflOut (c : Nat) (t : BitVec 2) (f : Thread → Thread) : (s.modThread c t f).kflOut = s.kflOut := rfl
@[simp] theorem State.modThread_hostOut (c : Nat) (t : BitVec 2) (f : Thread → Thread) : (s.modThread c t f).hostOut = s.hostOut := rfl
@[simp] theorem State.modThread_unitSeq (c : Nat) (t : BitVec 2) (f : Thread → Thread) : (s.modThread c t f).unitSeq = s.unitSeq := rfl
@[simp] theorem State.modThread_devtime (c : Nat) (t : BitVec 2) (f : Thread → Thread) : (s.modThread c t f).devtime = s.devtime := rfl
@[simp] theorem State.modThread_frac (c : Nat) (t : BitVec 2) (f : Thread → Thread) : (s.modThread c t f).frac = s.frac := rfl
@[simp] theorem State.modThread_elapsed (c : Nat) (t : BitVec 2) (f : Thread → Thread) : (s.modThread c t f).elapsed = s.elapsed := rfl
@[simp] theorem State.modThread_decided (c : Nat) (t : BitVec 2) (f : Thread → Thread) : (s.modThread c t f).decided = s.decided := rfl
@[simp] theorem State.modThread_nextPkt (c : Nat) (t : BitVec 2) (f : Thread → Thread) : (s.modThread c t f).nextPkt = s.nextPkt := rfl
@[simp] theorem State.modThread_owed (c : Nat) (t : BitVec 2) (f : Thread → Thread) : (s.modThread c t f).owed = s.owed := rfl
@[simp] theorem State.modThread_compl (c : Nat) (t : BitVec 2) (f : Thread → Thread) : (s.modThread c t f).compl = s.compl := rfl
@[simp] theorem State.modThread_sluice (c : Nat) (t : BitVec 2) (f : Thread → Thread) : (s.modThread c t f).sluice = s.sluice := rfl
@[simp] theorem State.modThread_fast (c : Nat) (t : BitVec 2) (f : Thread → Thread) : (s.modThread c t f).fast = s.fast := rfl
@[simp] theorem State.modThread_fwq (c : Nat) (t : BitVec 2) (f : Thread → Thread) : (s.modThread c t f).fwq = s.fwq := rfl
@[simp] theorem State.modThread_jobs (c : Nat) (t : BitVec 2) (f : Thread → Thread) : (s.modThread c t f).jobs = s.jobs := rfl
@[simp] theorem State.modThread_staged (c : Nat) (t : BitVec 2) (f : Thread → Thread) : (s.modThread c t f).staged = s.staged := rfl
@[simp] theorem State.modThread_stageBuf (c : Nat) (t : BitVec 2) (f : Thread → Thread) : (s.modThread c t f).stageBuf = s.stageBuf := rfl
@[simp] theorem State.modThread_devImg (c : Nat) (t : BitVec 2) (f : Thread → Thread) : (s.modThread c t f).devImg = s.devImg := rfl
@[simp] theorem State.modThread_moorUnits (c : Nat) (t : BitVec 2) (f : Thread → Thread) : (s.modThread c t f).moorUnits = s.moorUnits := rfl
@[simp] theorem State.modThread_ports (c : Nat) (t : BitVec 2) (f : Thread → Thread) : (s.modThread c t f).ports = s.ports := rfl
@[simp] theorem State.modThread_postWaits (c : Nat) (t : BitVec 2) (f : Thread → Thread) : (s.modThread c t f).postWaits = s.postWaits := rfl
@[simp] theorem State.modThread_west (c : Nat) (t : BitVec 2) (f : Thread → Thread) : (s.modThread c t f).west = s.west := rfl
@[simp] theorem State.modThread_east (c : Nat) (t : BitVec 2) (f : Thread → Thread) : (s.modThread c t f).east = s.east := rfl
@[simp] theorem State.modThread_calmSince (c : Nat) (t : BitVec 2) (f : Thread → Thread) : (s.modThread c t f).calmSince = s.calmSince := rfl
@[simp] theorem State.modThread_capped (c : Nat) (t : BitVec 2) (f : Thread → Thread) : (s.modThread c t f).capped = s.capped := rfl
@[simp] theorem State.modThread_link (c : Nat) (t : BitVec 2) (f : Thread → Thread) : (s.modThread c t f).link = s.link := rfl
@[simp] theorem State.modThread_pins (c : Nat) (t : BitVec 2) (f : Thread → Thread) : (s.modThread c t f).pins = s.pins := rfl
@[simp] theorem State.modThread_boot (c : Nat) (t : BitVec 2) (f : Thread → Thread) : (s.modThread c t f).boot = s.boot := rfl
@[simp] theorem State.modThread_sync (c : Nat) (t : BitVec 2) (f : Thread → Thread) : (s.modThread c t f).sync = s.sync := rfl
@[simp] theorem State.modThread_jtag (c : Nat) (t : BitVec 2) (f : Thread → Thread) : (s.modThread c t f).jtag = s.jtag := rfl
@[simp] theorem State.modThread_bound (c : Nat) (t : BitVec 2) (f : Thread → Thread) : (s.modThread c t f).bound = s.bound := rfl
@[simp] theorem State.modThread_lastRead (c : Nat) (t : BitVec 2) (f : Thread → Thread) : (s.modThread c t f).lastRead = s.lastRead := rfl
@[simp] theorem State.modThread_reply (c : Nat) (t : BitVec 2) (f : Thread → Thread) : (s.modThread c t f).reply = s.reply := rfl
@[simp] theorem State.modThread_partmap (c : Nat) (t : BitVec 2) (f : Thread → Thread) : (s.modThread c t f).partmap = s.partmap := rfl

/-! `setCtl` -/

@[simp] theorem State.setCtl_pending (c : Nat) (t : BitVec 2) (x : ThrCtl) : (s.setCtl c t x).pending = s.pending := rfl
@[simp] theorem State.setCtl_free (c : Nat) (t : BitVec 2) (x : ThrCtl) : (s.setCtl c t x).free = s.free := rfl
@[simp] theorem State.setCtl_regs (c : Nat) (t : BitVec 2) (x : ThrCtl) : (s.setCtl c t x).regs = s.regs := rfl
@[simp] theorem State.setCtl_stgV (c : Nat) (t : BitVec 2) (x : ThrCtl) : (s.setCtl c t x).stgV = s.stgV := rfl
@[simp] theorem State.setCtl_stgM (c : Nat) (t : BitVec 2) (x : ThrCtl) : (s.setCtl c t x).stgM = s.stgM := rfl
@[simp] theorem State.setCtl_mem (c : Nat) (t : BitVec 2) (x : ThrCtl) : (s.setCtl c t x).mem = s.mem := rfl
@[simp] theorem State.setCtl_poison (c : Nat) (t : BitVec 2) (x : ThrCtl) : (s.setCtl c t x).poison = s.poison := rfl
@[simp] theorem State.setCtl_parts (c : Nat) (t : BitVec 2) (x : ThrCtl) : (s.setCtl c t x).parts = s.parts := rfl
@[simp] theorem State.setCtl_msgs (c : Nat) (t : BitVec 2) (x : ThrCtl) : (s.setCtl c t x).msgs = s.msgs := rfl
@[simp] theorem State.setCtl_nextMsg (c : Nat) (t : BitVec 2) (x : ThrCtl) : (s.setCtl c t x).nextMsg = s.nextMsg := rfl
@[simp] theorem State.setCtl_remReqs (c : Nat) (t : BitVec 2) (x : ThrCtl) : (s.setCtl c t x).remReqs = s.remReqs := rfl
@[simp] theorem State.setCtl_nextReq (c : Nat) (t : BitVec 2) (x : ThrCtl) : (s.setCtl c t x).nextReq = s.nextReq := rfl
@[simp] theorem State.setCtl_lateReqs (c : Nat) (t : BitVec 2) (x : ThrCtl) : (s.setCtl c t x).lateReqs = s.lateReqs := rfl
@[simp] theorem State.setCtl_fabOut (c : Nat) (t : BitVec 2) (x : ThrCtl) : (s.setCtl c t x).fabOut = s.fabOut := rfl
@[simp] theorem State.setCtl_unrouted (c : Nat) (t : BitVec 2) (x : ThrCtl) : (s.setCtl c t x).unrouted = s.unrouted := rfl
@[simp] theorem State.setCtl_tally (c : Nat) (t : BitVec 2) (x : ThrCtl) : (s.setCtl c t x).tally = s.tally := rfl
@[simp] theorem State.setCtl_kflOut (c : Nat) (t : BitVec 2) (x : ThrCtl) : (s.setCtl c t x).kflOut = s.kflOut := rfl
@[simp] theorem State.setCtl_hostOut (c : Nat) (t : BitVec 2) (x : ThrCtl) : (s.setCtl c t x).hostOut = s.hostOut := rfl
@[simp] theorem State.setCtl_unitSeq (c : Nat) (t : BitVec 2) (x : ThrCtl) : (s.setCtl c t x).unitSeq = s.unitSeq := rfl
@[simp] theorem State.setCtl_devtime (c : Nat) (t : BitVec 2) (x : ThrCtl) : (s.setCtl c t x).devtime = s.devtime := rfl
@[simp] theorem State.setCtl_frac (c : Nat) (t : BitVec 2) (x : ThrCtl) : (s.setCtl c t x).frac = s.frac := rfl
@[simp] theorem State.setCtl_elapsed (c : Nat) (t : BitVec 2) (x : ThrCtl) : (s.setCtl c t x).elapsed = s.elapsed := rfl
@[simp] theorem State.setCtl_decided (c : Nat) (t : BitVec 2) (x : ThrCtl) : (s.setCtl c t x).decided = s.decided := rfl
@[simp] theorem State.setCtl_nextPkt (c : Nat) (t : BitVec 2) (x : ThrCtl) : (s.setCtl c t x).nextPkt = s.nextPkt := rfl
@[simp] theorem State.setCtl_owed (c : Nat) (t : BitVec 2) (x : ThrCtl) : (s.setCtl c t x).owed = s.owed := rfl
@[simp] theorem State.setCtl_compl (c : Nat) (t : BitVec 2) (x : ThrCtl) : (s.setCtl c t x).compl = s.compl := rfl
@[simp] theorem State.setCtl_sluice (c : Nat) (t : BitVec 2) (x : ThrCtl) : (s.setCtl c t x).sluice = s.sluice := rfl
@[simp] theorem State.setCtl_fast (c : Nat) (t : BitVec 2) (x : ThrCtl) : (s.setCtl c t x).fast = s.fast := rfl
@[simp] theorem State.setCtl_fwq (c : Nat) (t : BitVec 2) (x : ThrCtl) : (s.setCtl c t x).fwq = s.fwq := rfl
@[simp] theorem State.setCtl_jobs (c : Nat) (t : BitVec 2) (x : ThrCtl) : (s.setCtl c t x).jobs = s.jobs := rfl
@[simp] theorem State.setCtl_staged (c : Nat) (t : BitVec 2) (x : ThrCtl) : (s.setCtl c t x).staged = s.staged := rfl
@[simp] theorem State.setCtl_stageBuf (c : Nat) (t : BitVec 2) (x : ThrCtl) : (s.setCtl c t x).stageBuf = s.stageBuf := rfl
@[simp] theorem State.setCtl_devImg (c : Nat) (t : BitVec 2) (x : ThrCtl) : (s.setCtl c t x).devImg = s.devImg := rfl
@[simp] theorem State.setCtl_moorUnits (c : Nat) (t : BitVec 2) (x : ThrCtl) : (s.setCtl c t x).moorUnits = s.moorUnits := rfl
@[simp] theorem State.setCtl_ports (c : Nat) (t : BitVec 2) (x : ThrCtl) : (s.setCtl c t x).ports = s.ports := rfl
@[simp] theorem State.setCtl_postWaits (c : Nat) (t : BitVec 2) (x : ThrCtl) : (s.setCtl c t x).postWaits = s.postWaits := rfl
@[simp] theorem State.setCtl_west (c : Nat) (t : BitVec 2) (x : ThrCtl) : (s.setCtl c t x).west = s.west := rfl
@[simp] theorem State.setCtl_east (c : Nat) (t : BitVec 2) (x : ThrCtl) : (s.setCtl c t x).east = s.east := rfl
@[simp] theorem State.setCtl_calmSince (c : Nat) (t : BitVec 2) (x : ThrCtl) : (s.setCtl c t x).calmSince = s.calmSince := rfl
@[simp] theorem State.setCtl_capped (c : Nat) (t : BitVec 2) (x : ThrCtl) : (s.setCtl c t x).capped = s.capped := rfl
@[simp] theorem State.setCtl_link (c : Nat) (t : BitVec 2) (x : ThrCtl) : (s.setCtl c t x).link = s.link := rfl
@[simp] theorem State.setCtl_pins (c : Nat) (t : BitVec 2) (x : ThrCtl) : (s.setCtl c t x).pins = s.pins := rfl
@[simp] theorem State.setCtl_boot (c : Nat) (t : BitVec 2) (x : ThrCtl) : (s.setCtl c t x).boot = s.boot := rfl
@[simp] theorem State.setCtl_sync (c : Nat) (t : BitVec 2) (x : ThrCtl) : (s.setCtl c t x).sync = s.sync := rfl
@[simp] theorem State.setCtl_jtag (c : Nat) (t : BitVec 2) (x : ThrCtl) : (s.setCtl c t x).jtag = s.jtag := rfl
@[simp] theorem State.setCtl_bound (c : Nat) (t : BitVec 2) (x : ThrCtl) : (s.setCtl c t x).bound = s.bound := rfl
@[simp] theorem State.setCtl_lastRead (c : Nat) (t : BitVec 2) (x : ThrCtl) : (s.setCtl c t x).lastRead = s.lastRead := rfl
@[simp] theorem State.setCtl_reply (c : Nat) (t : BitVec 2) (x : ThrCtl) : (s.setCtl c t x).reply = s.reply := rfl
@[simp] theorem State.setCtl_partmap (c : Nat) (t : BitVec 2) (x : ThrCtl) : (s.setCtl c t x).partmap = s.partmap := rfl

/-! `setPart` -/

@[simp] theorem State.setPart_pending (n : Nat) (p : Part) : (s.setPart n p).pending = s.pending := rfl
@[simp] theorem State.setPart_free (n : Nat) (p : Part) : (s.setPart n p).free = s.free := rfl
@[simp] theorem State.setPart_regs (n : Nat) (p : Part) : (s.setPart n p).regs = s.regs := rfl
@[simp] theorem State.setPart_stgV (n : Nat) (p : Part) : (s.setPart n p).stgV = s.stgV := rfl
@[simp] theorem State.setPart_stgM (n : Nat) (p : Part) : (s.setPart n p).stgM = s.stgM := rfl
@[simp] theorem State.setPart_mem (n : Nat) (p : Part) : (s.setPart n p).mem = s.mem := rfl
@[simp] theorem State.setPart_poison (n : Nat) (p : Part) : (s.setPart n p).poison = s.poison := rfl
@[simp] theorem State.setPart_cores (n : Nat) (p : Part) : (s.setPart n p).cores = s.cores := rfl
@[simp] theorem State.setPart_msgs (n : Nat) (p : Part) : (s.setPart n p).msgs = s.msgs := rfl
@[simp] theorem State.setPart_nextMsg (n : Nat) (p : Part) : (s.setPart n p).nextMsg = s.nextMsg := rfl
@[simp] theorem State.setPart_remReqs (n : Nat) (p : Part) : (s.setPart n p).remReqs = s.remReqs := rfl
@[simp] theorem State.setPart_nextReq (n : Nat) (p : Part) : (s.setPart n p).nextReq = s.nextReq := rfl
@[simp] theorem State.setPart_lateReqs (n : Nat) (p : Part) : (s.setPart n p).lateReqs = s.lateReqs := rfl
@[simp] theorem State.setPart_fabOut (n : Nat) (p : Part) : (s.setPart n p).fabOut = s.fabOut := rfl
@[simp] theorem State.setPart_unrouted (n : Nat) (p : Part) : (s.setPart n p).unrouted = s.unrouted := rfl
@[simp] theorem State.setPart_tally (n : Nat) (p : Part) : (s.setPart n p).tally = s.tally := rfl
@[simp] theorem State.setPart_kflOut (n : Nat) (p : Part) : (s.setPart n p).kflOut = s.kflOut := rfl
@[simp] theorem State.setPart_hostOut (n : Nat) (p : Part) : (s.setPart n p).hostOut = s.hostOut := rfl
@[simp] theorem State.setPart_unitSeq (n : Nat) (p : Part) : (s.setPart n p).unitSeq = s.unitSeq := rfl
@[simp] theorem State.setPart_devtime (n : Nat) (p : Part) : (s.setPart n p).devtime = s.devtime := rfl
@[simp] theorem State.setPart_frac (n : Nat) (p : Part) : (s.setPart n p).frac = s.frac := rfl
@[simp] theorem State.setPart_elapsed (n : Nat) (p : Part) : (s.setPart n p).elapsed = s.elapsed := rfl
@[simp] theorem State.setPart_decided (n : Nat) (p : Part) : (s.setPart n p).decided = s.decided := rfl
@[simp] theorem State.setPart_nextPkt (n : Nat) (p : Part) : (s.setPart n p).nextPkt = s.nextPkt := rfl
@[simp] theorem State.setPart_owed (n : Nat) (p : Part) : (s.setPart n p).owed = s.owed := rfl
@[simp] theorem State.setPart_compl (n : Nat) (p : Part) : (s.setPart n p).compl = s.compl := rfl
@[simp] theorem State.setPart_sluice (n : Nat) (p : Part) : (s.setPart n p).sluice = s.sluice := rfl
@[simp] theorem State.setPart_fast (n : Nat) (p : Part) : (s.setPart n p).fast = s.fast := rfl
@[simp] theorem State.setPart_fwq (n : Nat) (p : Part) : (s.setPart n p).fwq = s.fwq := rfl
@[simp] theorem State.setPart_jobs (n : Nat) (p : Part) : (s.setPart n p).jobs = s.jobs := rfl
@[simp] theorem State.setPart_staged (n : Nat) (p : Part) : (s.setPart n p).staged = s.staged := rfl
@[simp] theorem State.setPart_stageBuf (n : Nat) (p : Part) : (s.setPart n p).stageBuf = s.stageBuf := rfl
@[simp] theorem State.setPart_devImg (n : Nat) (p : Part) : (s.setPart n p).devImg = s.devImg := rfl
@[simp] theorem State.setPart_moorUnits (n : Nat) (p : Part) : (s.setPart n p).moorUnits = s.moorUnits := rfl
@[simp] theorem State.setPart_ports (n : Nat) (p : Part) : (s.setPart n p).ports = s.ports := rfl
@[simp] theorem State.setPart_postWaits (n : Nat) (p : Part) : (s.setPart n p).postWaits = s.postWaits := rfl
@[simp] theorem State.setPart_west (n : Nat) (p : Part) : (s.setPart n p).west = s.west := rfl
@[simp] theorem State.setPart_east (n : Nat) (p : Part) : (s.setPart n p).east = s.east := rfl
@[simp] theorem State.setPart_calmSince (n : Nat) (p : Part) : (s.setPart n p).calmSince = s.calmSince := rfl
@[simp] theorem State.setPart_capped (n : Nat) (p : Part) : (s.setPart n p).capped = s.capped := rfl
@[simp] theorem State.setPart_link (n : Nat) (p : Part) : (s.setPart n p).link = s.link := rfl
@[simp] theorem State.setPart_pins (n : Nat) (p : Part) : (s.setPart n p).pins = s.pins := rfl
@[simp] theorem State.setPart_boot (n : Nat) (p : Part) : (s.setPart n p).boot = s.boot := rfl
@[simp] theorem State.setPart_sync (n : Nat) (p : Part) : (s.setPart n p).sync = s.sync := rfl
@[simp] theorem State.setPart_jtag (n : Nat) (p : Part) : (s.setPart n p).jtag = s.jtag := rfl
@[simp] theorem State.setPart_bound (n : Nat) (p : Part) : (s.setPart n p).bound = s.bound := rfl
@[simp] theorem State.setPart_lastRead (n : Nat) (p : Part) : (s.setPart n p).lastRead = s.lastRead := rfl
@[simp] theorem State.setPart_reply (n : Nat) (p : Part) : (s.setPart n p).reply = s.reply := rfl
@[simp] theorem State.setPart_partmap (n : Nat) (p : Part) : (s.setPart n p).partmap = s.partmap := rfl

/-! `modPart` -/

@[simp] theorem State.modPart_pending (n : Nat) (f : Part → Part) : (s.modPart n f).pending = s.pending := rfl
@[simp] theorem State.modPart_free (n : Nat) (f : Part → Part) : (s.modPart n f).free = s.free := rfl
@[simp] theorem State.modPart_regs (n : Nat) (f : Part → Part) : (s.modPart n f).regs = s.regs := rfl
@[simp] theorem State.modPart_stgV (n : Nat) (f : Part → Part) : (s.modPart n f).stgV = s.stgV := rfl
@[simp] theorem State.modPart_stgM (n : Nat) (f : Part → Part) : (s.modPart n f).stgM = s.stgM := rfl
@[simp] theorem State.modPart_mem (n : Nat) (f : Part → Part) : (s.modPart n f).mem = s.mem := rfl
@[simp] theorem State.modPart_poison (n : Nat) (f : Part → Part) : (s.modPart n f).poison = s.poison := rfl
@[simp] theorem State.modPart_cores (n : Nat) (f : Part → Part) : (s.modPart n f).cores = s.cores := rfl
@[simp] theorem State.modPart_msgs (n : Nat) (f : Part → Part) : (s.modPart n f).msgs = s.msgs := rfl
@[simp] theorem State.modPart_nextMsg (n : Nat) (f : Part → Part) : (s.modPart n f).nextMsg = s.nextMsg := rfl
@[simp] theorem State.modPart_remReqs (n : Nat) (f : Part → Part) : (s.modPart n f).remReqs = s.remReqs := rfl
@[simp] theorem State.modPart_nextReq (n : Nat) (f : Part → Part) : (s.modPart n f).nextReq = s.nextReq := rfl
@[simp] theorem State.modPart_lateReqs (n : Nat) (f : Part → Part) : (s.modPart n f).lateReqs = s.lateReqs := rfl
@[simp] theorem State.modPart_fabOut (n : Nat) (f : Part → Part) : (s.modPart n f).fabOut = s.fabOut := rfl
@[simp] theorem State.modPart_unrouted (n : Nat) (f : Part → Part) : (s.modPart n f).unrouted = s.unrouted := rfl
@[simp] theorem State.modPart_tally (n : Nat) (f : Part → Part) : (s.modPart n f).tally = s.tally := rfl
@[simp] theorem State.modPart_kflOut (n : Nat) (f : Part → Part) : (s.modPart n f).kflOut = s.kflOut := rfl
@[simp] theorem State.modPart_hostOut (n : Nat) (f : Part → Part) : (s.modPart n f).hostOut = s.hostOut := rfl
@[simp] theorem State.modPart_unitSeq (n : Nat) (f : Part → Part) : (s.modPart n f).unitSeq = s.unitSeq := rfl
@[simp] theorem State.modPart_devtime (n : Nat) (f : Part → Part) : (s.modPart n f).devtime = s.devtime := rfl
@[simp] theorem State.modPart_frac (n : Nat) (f : Part → Part) : (s.modPart n f).frac = s.frac := rfl
@[simp] theorem State.modPart_elapsed (n : Nat) (f : Part → Part) : (s.modPart n f).elapsed = s.elapsed := rfl
@[simp] theorem State.modPart_decided (n : Nat) (f : Part → Part) : (s.modPart n f).decided = s.decided := rfl
@[simp] theorem State.modPart_nextPkt (n : Nat) (f : Part → Part) : (s.modPart n f).nextPkt = s.nextPkt := rfl
@[simp] theorem State.modPart_owed (n : Nat) (f : Part → Part) : (s.modPart n f).owed = s.owed := rfl
@[simp] theorem State.modPart_compl (n : Nat) (f : Part → Part) : (s.modPart n f).compl = s.compl := rfl
@[simp] theorem State.modPart_sluice (n : Nat) (f : Part → Part) : (s.modPart n f).sluice = s.sluice := rfl
@[simp] theorem State.modPart_fast (n : Nat) (f : Part → Part) : (s.modPart n f).fast = s.fast := rfl
@[simp] theorem State.modPart_fwq (n : Nat) (f : Part → Part) : (s.modPart n f).fwq = s.fwq := rfl
@[simp] theorem State.modPart_jobs (n : Nat) (f : Part → Part) : (s.modPart n f).jobs = s.jobs := rfl
@[simp] theorem State.modPart_staged (n : Nat) (f : Part → Part) : (s.modPart n f).staged = s.staged := rfl
@[simp] theorem State.modPart_stageBuf (n : Nat) (f : Part → Part) : (s.modPart n f).stageBuf = s.stageBuf := rfl
@[simp] theorem State.modPart_devImg (n : Nat) (f : Part → Part) : (s.modPart n f).devImg = s.devImg := rfl
@[simp] theorem State.modPart_moorUnits (n : Nat) (f : Part → Part) : (s.modPart n f).moorUnits = s.moorUnits := rfl
@[simp] theorem State.modPart_ports (n : Nat) (f : Part → Part) : (s.modPart n f).ports = s.ports := rfl
@[simp] theorem State.modPart_postWaits (n : Nat) (f : Part → Part) : (s.modPart n f).postWaits = s.postWaits := rfl
@[simp] theorem State.modPart_west (n : Nat) (f : Part → Part) : (s.modPart n f).west = s.west := rfl
@[simp] theorem State.modPart_east (n : Nat) (f : Part → Part) : (s.modPart n f).east = s.east := rfl
@[simp] theorem State.modPart_calmSince (n : Nat) (f : Part → Part) : (s.modPart n f).calmSince = s.calmSince := rfl
@[simp] theorem State.modPart_capped (n : Nat) (f : Part → Part) : (s.modPart n f).capped = s.capped := rfl
@[simp] theorem State.modPart_link (n : Nat) (f : Part → Part) : (s.modPart n f).link = s.link := rfl
@[simp] theorem State.modPart_pins (n : Nat) (f : Part → Part) : (s.modPart n f).pins = s.pins := rfl
@[simp] theorem State.modPart_boot (n : Nat) (f : Part → Part) : (s.modPart n f).boot = s.boot := rfl
@[simp] theorem State.modPart_sync (n : Nat) (f : Part → Part) : (s.modPart n f).sync = s.sync := rfl
@[simp] theorem State.modPart_jtag (n : Nat) (f : Part → Part) : (s.modPart n f).jtag = s.jtag := rfl
@[simp] theorem State.modPart_bound (n : Nat) (f : Part → Part) : (s.modPart n f).bound = s.bound := rfl
@[simp] theorem State.modPart_lastRead (n : Nat) (f : Part → Part) : (s.modPart n f).lastRead = s.lastRead := rfl
@[simp] theorem State.modPart_reply (n : Nat) (f : Part → Part) : (s.modPart n f).reply = s.reply := rfl
@[simp] theorem State.modPart_partmap (n : Nat) (f : Part → Part) : (s.modPart n f).partmap = s.partmap := rfl

/-! `post` -/

@[simp] theorem State.post_pending (c : Compl) : (s.post c).pending = s.pending := rfl
@[simp] theorem State.post_free (c : Compl) : (s.post c).free = s.free := rfl
@[simp] theorem State.post_regs (c : Compl) : (s.post c).regs = s.regs := rfl
@[simp] theorem State.post_stgV (c : Compl) : (s.post c).stgV = s.stgV := rfl
@[simp] theorem State.post_stgM (c : Compl) : (s.post c).stgM = s.stgM := rfl
@[simp] theorem State.post_mem (c : Compl) : (s.post c).mem = s.mem := rfl
@[simp] theorem State.post_poison (c : Compl) : (s.post c).poison = s.poison := rfl
@[simp] theorem State.post_cores (c : Compl) : (s.post c).cores = s.cores := rfl
@[simp] theorem State.post_parts (c : Compl) : (s.post c).parts = s.parts := rfl
@[simp] theorem State.post_msgs (c : Compl) : (s.post c).msgs = s.msgs := rfl
@[simp] theorem State.post_nextMsg (c : Compl) : (s.post c).nextMsg = s.nextMsg := rfl
@[simp] theorem State.post_remReqs (c : Compl) : (s.post c).remReqs = s.remReqs := rfl
@[simp] theorem State.post_nextReq (c : Compl) : (s.post c).nextReq = s.nextReq := rfl
@[simp] theorem State.post_lateReqs (c : Compl) : (s.post c).lateReqs = s.lateReqs := rfl
@[simp] theorem State.post_fabOut (c : Compl) : (s.post c).fabOut = s.fabOut := rfl
@[simp] theorem State.post_unrouted (c : Compl) : (s.post c).unrouted = s.unrouted := rfl
@[simp] theorem State.post_tally (c : Compl) : (s.post c).tally = s.tally := rfl
@[simp] theorem State.post_kflOut (c : Compl) : (s.post c).kflOut = s.kflOut := rfl
@[simp] theorem State.post_hostOut (c : Compl) : (s.post c).hostOut = s.hostOut := rfl
@[simp] theorem State.post_unitSeq (c : Compl) : (s.post c).unitSeq = s.unitSeq := rfl
@[simp] theorem State.post_devtime (c : Compl) : (s.post c).devtime = s.devtime := rfl
@[simp] theorem State.post_frac (c : Compl) : (s.post c).frac = s.frac := rfl
@[simp] theorem State.post_elapsed (c : Compl) : (s.post c).elapsed = s.elapsed := rfl
@[simp] theorem State.post_decided (c : Compl) : (s.post c).decided = s.decided := rfl
@[simp] theorem State.post_nextPkt (c : Compl) : (s.post c).nextPkt = s.nextPkt := rfl
@[simp] theorem State.post_owed (c : Compl) : (s.post c).owed = s.owed := rfl
@[simp] theorem State.post_sluice (c : Compl) : (s.post c).sluice = s.sluice := rfl
@[simp] theorem State.post_fast (c : Compl) : (s.post c).fast = s.fast := rfl
@[simp] theorem State.post_fwq (c : Compl) : (s.post c).fwq = s.fwq := rfl
@[simp] theorem State.post_jobs (c : Compl) : (s.post c).jobs = s.jobs := rfl
@[simp] theorem State.post_staged (c : Compl) : (s.post c).staged = s.staged := rfl
@[simp] theorem State.post_stageBuf (c : Compl) : (s.post c).stageBuf = s.stageBuf := rfl
@[simp] theorem State.post_devImg (c : Compl) : (s.post c).devImg = s.devImg := rfl
@[simp] theorem State.post_moorUnits (c : Compl) : (s.post c).moorUnits = s.moorUnits := rfl
@[simp] theorem State.post_ports (c : Compl) : (s.post c).ports = s.ports := rfl
@[simp] theorem State.post_postWaits (c : Compl) : (s.post c).postWaits = s.postWaits := rfl
@[simp] theorem State.post_west (c : Compl) : (s.post c).west = s.west := rfl
@[simp] theorem State.post_east (c : Compl) : (s.post c).east = s.east := rfl
@[simp] theorem State.post_calmSince (c : Compl) : (s.post c).calmSince = s.calmSince := rfl
@[simp] theorem State.post_capped (c : Compl) : (s.post c).capped = s.capped := rfl
@[simp] theorem State.post_link (c : Compl) : (s.post c).link = s.link := rfl
@[simp] theorem State.post_pins (c : Compl) : (s.post c).pins = s.pins := rfl
@[simp] theorem State.post_boot (c : Compl) : (s.post c).boot = s.boot := rfl
@[simp] theorem State.post_sync (c : Compl) : (s.post c).sync = s.sync := rfl
@[simp] theorem State.post_jtag (c : Compl) : (s.post c).jtag = s.jtag := rfl
@[simp] theorem State.post_bound (c : Compl) : (s.post c).bound = s.bound := rfl
@[simp] theorem State.post_lastRead (c : Compl) : (s.post c).lastRead = s.lastRead := rfl
@[simp] theorem State.post_reply (c : Compl) : (s.post c).reply = s.reply := rfl
@[simp] theorem State.post_partmap (c : Compl) : (s.post c).partmap = s.partmap := rfl

end

/-! ### Reading after writing -/

@[simp] theorem State.reg_setReg (s : State) (o : Nat) (v : W64) : (s.setReg o v).reg o = v := AMap.get_put_same ..

theorem State.reg_setReg_ne (s : State) {o p : Nat} (v : W64) (h : p ≠ o) : (s.setReg o v).reg p = s.reg p :=
  AMap.get_put_ne _ _ _ h

theorem State.reg_setRfld_ne (s : State) {o p : Nat} (lo w x : Nat) (h : p ≠ o) : (s.setRfld o lo w x).reg p = s.reg p :=
  AMap.get_put_ne _ _ _ h

@[simp] theorem State.reg_setRfld (s : State) (o lo w x : Nat) : (s.setRfld o lo w x).reg o = setFld (s.reg o) lo w x :=
  AMap.get_put_same ..

@[simp] theorem State.reg_setCore (s : State) (c : Nat) (k : Core) (o : Nat) : (s.setCore c k).reg o = s.reg o := rfl
@[simp] theorem State.reg_setPart (s : State) (n : Nat) (p : Part) (o : Nat) : (s.setPart n p).reg o = s.reg o := rfl
@[simp] theorem State.reg_post (s : State) (c : Compl) (o : Nat) : (s.post c).reg o = s.reg o := rfl

@[simp] theorem State.core_setCore (s : State) (c : Nat) (k : Core) : (s.setCore c k).core c = k := AMap.get_put_same ..

theorem State.core_setCore_ne (s : State) {c d : Nat} (k : Core) (h : d ≠ c) : (s.setCore c k).core d = s.core d :=
  AMap.get_put_ne _ _ _ h

@[simp] theorem State.core_setReg (s : State) (o : Nat) (v : W64) (c : Nat) : (s.setReg o v).core c = s.core c := rfl
@[simp] theorem State.core_setPart (s : State) (n : Nat) (p : Part) (c : Nat) : (s.setPart n p).core c = s.core c := rfl

@[simp] theorem State.part_setPart (s : State) (n : Nat) (p : Part) : (s.setPart n p).part n = p := AMap.get_put_same ..

theorem State.part_setPart_ne (s : State) {n m : Nat} (p : Part) (h : m ≠ n) : (s.setPart n p).part m = s.part m :=
  AMap.get_put_ne _ _ _ h

@[simp] theorem State.part_setReg (s : State) (o : Nat) (v : W64) (n : Nat) : (s.setReg o v).part n = s.part n := rfl
@[simp] theorem State.part_setCore (s : State) (c : Nat) (k : Core) (n : Nat) : (s.setCore c k).part n = s.part n := rfl

@[simp] theorem AMap.put_put {α : Type} (m : AMap α) (k : Nat) (v w : α) : AMap.put (AMap.put m k v) k w = AMap.put m k w := by
  induction m with
  | nil => simp [AMap.put]
  | cons p m ih =>
    obtain ⟨j, u⟩ := p
    by_cases h : j = k
    · simp [AMap.put, h]
    · by_cases g : k < j
      · simp [AMap.put, h, g]
      · simp [AMap.put, h, g, ih]

@[simp] theorem State.setCore_setCore (s : State) (c : Nat) (k j : Core) : (s.setCore c k).setCore c j = s.setCore c j := by
  simp [State.setCore]

@[simp] theorem Core.thr_setThr (k : Core) (t : BitVec 2) (x : Thread) : rget (k.setThr t x).thr (tix t) = x := by
  simp [Core.setThr]

@[simp] theorem Core.setThr_setThr (k : Core) (t : BitVec 2) (x y : Thread) : (k.setThr t x).setThr t y = k.setThr t y := by
  simp [Core.setThr, rset]

@[simp] theorem Core.setThr_self (k : Core) (t : BitVec 2) : k.setThr t (rget k.thr (tix t)) = k := by
  simp [Core.setThr, rset, rget]

@[simp] theorem State.thread_setThread (s : State) (c : Nat) (t : BitVec 2) (x : Thread) : (s.setThread c t x).thread c t = x := by
  simp [State.thread, State.setThread, State.modCore]

@[simp] theorem State.thread_modThread (s : State) (c : Nat) (t : BitVec 2) (f : Thread → Thread) :
    (s.modThread c t f).thread c t = f (s.thread c t) := by
  simp [State.modThread]

@[simp] theorem State.modThread_modThread (s : State) (c : Nat) (t : BitVec 2) (f g : Thread → Thread) :
    (s.modThread c t f).modThread c t g = s.modThread c t (fun x => g (f x)) := by
  simp [State.modThread, State.setThread, State.modCore, State.thread]

@[simp] theorem State.modCore_modCore (s : State) (c : Nat) (f g : Core → Core) :
    (s.modCore c f).modCore c g = s.modCore c (fun k => g (f k)) := by
  simp [State.modCore]

@[simp] theorem State.core_modCore (s : State) (c : Nat) (f : Core → Core) : (s.modCore c f).core c = f (s.core c) := by
  simp [State.modCore]

theorem State.thread_modThread_ne (s : State) {c d : Nat} {t u : BitVec 2} (f : Thread → Thread) (h : d ≠ c ∨ u ≠ t) :
    (s.modThread c t f).thread d u = s.thread d u := by
  by_cases e : d = c
  · subst e
    have hu : tix u ≠ tix t := fun g => (h.resolve_left (fun k => k rfl)) (BitVec.eq_of_toNat_eq (congrArg Fin.val g))
    simp [State.modThread, State.setThread, State.thread, State.modCore, Core.setThr, rget_rset_ne _ _ hu]
  · simp [State.modThread, State.setThread, State.thread, State.modCore, State.core_setCore_ne _ _ e]

end Sys2Proof.Machine
end

