-- ==== Sys2Proof/Laws/Issue.lean ====
section
/-!
SUPPORT. What issue comes to where the instruction starts (`State.starts`): its own part runs in the state that `starts`
gives, and nothing else happens.
-/
namespace Sys2Proof.Machine

/-- The core's entry is listed where a write of it would put it. -/
def State.listed (s : State) (c : Nat) : Prop := s.setCore c (s.core c) = s

theorem State.listed_setCore (s : State) (c : Nat) (k : Core) : (s.setCore c k).listed c := by simp [State.listed]

theorem State.listed_modThread (s : State) (c : Nat) (t : BitVec 2) (f : Thread → Thread) : (s.modThread c t f).listed c :=
  State.listed_setCore ..

/-- Changing a thread by a function that leaves it alone does nothing. -/
theorem State.modThread_self (s : State) (c : Nat) (t : BitVec 2) (f : Thread → Thread) (h : s.listed c)
    (hf : f (s.thread c t) = s.thread c t) : s.modThread c t f = s := by
  simp only [State.modThread, State.setThread, State.modCore, hf]
  simp only [State.thread, Core.setThr_self]
  exact h

theorem Thread.commit_quiet (y : Thread) (h : y.loads = []) : y.commit = y := by
  cases y; simp_all [Thread.commit]

/-- A translation changes nothing but the core's translation cache (R275). -/
theorem State.xlate_frame (s : State) (c n va : Nat) :
    (s.xlate c n va).1 = s ∨
      ∃ tlb, (s.xlate c n va).1 = s.setCore c { s.core c with mem := { (s.core c).mem with tlb := tlb } } := by
  unfold State.xlate
  split
  · exact .inl rfl
  · exact .inr ⟨_, rfl⟩

/-- An address is resolved with no change but to the core's translation cache (R275). -/
theorem State.resolve_frame (s : State) (c : Nat) (ea : W64) (need : Need) (user : Bool) :
    (s.resolve c ea need user).1 = s ∨
      ∃ tlb, (s.resolve c ea need user).1 = s.setCore c { s.core c with mem := { (s.core c).mem with tlb := tlb } } := by
  have hx := s.xlate_frame c ((s.partOf c).getD 0) ea.toNat
  unfold State.resolve
  simp only []
  split
  · exact .inl rfl
  split
  · split <;> exact .inl rfl
  split
  · split <;> exact .inl rfl
  split
  · rename_i e; simpa [e] using hx
  · rename_i e
    split
    · simpa [e] using hx
    · split <;> simpa [e] using hx

theorem State.resolve_listed (s : State) (c : Nat) (ea : W64) (need : Need) (user : Bool) (h : s.listed c) :
    (s.resolve c ea need user).1.listed c := by
  rcases s.resolve_frame c ea need user with e | ⟨tlb, e⟩ <;> rw [e]
  · exact h
  · exact State.listed_setCore ..

theorem State.resolve_thread (s : State) (c : Nat) (ea : W64) (need : Need) (user : Bool) (d : Nat) (t : BitVec 2) :
    (s.resolve c ea need user).1.thread d t = s.thread d t := by
  rcases s.resolve_frame c ea need user with e | ⟨tlb, e⟩ <;> rw [e]
  by_cases h : d = c
  · subst h; simp [State.thread]
  · simp [State.thread, State.core_setCore_ne _ _ h]

theorem State.resolve_accs (s : State) (c : Nat) (ea : W64) (need : Need) (user : Bool) :
    ((s.resolve c ea need user).1.core c).mem.accs = (s.core c).mem.accs := by
  rcases s.resolve_frame c ea need user with e | ⟨tlb, e⟩ <;> rw [e]
  simp

theorem State.resolve_mx (s : State) (c : Nat) (ea : W64) (need : Need) (user : Bool) :
    ((s.resolve c ea need user).1.core c).mx = (s.core c).mx := by
  rcases s.resolve_frame c ea need user with e | ⟨tlb, e⟩ <;> rw [e]
  simp

/-! ### Settling with nothing in flight -/

theorem State.resolve_vx (s : State) (c : Nat) (ea : W64) (need : Need) (user : Bool) :
    ((s.resolve c ea need user).1.core c).vx = (s.core c).vx := by
  rcases s.resolve_frame c ea need user with e | ⟨tlb, e⟩ <;> rw [e]
  simp

theorem State.matrixStep_idle (s : State) (c : Nat) (t : BitVec 2) (h : (s.core c).mx.queue = [])
    (hv : (s.core c).vx.queue = []) : s.matrixStep c t = (s, none) := by
  simp [State.matrixStep, h, hv]

theorem State.matrixRun_idle (s : State) (c : Nat) (t : BitVec 2) (h : (s.core c).mx.queue = [])
    (hv : (s.core c).vx.queue = []) (n : Nat) : s.matrixRun c t (n + 1) = (s, false) := by
  simp [State.matrixRun, s.matrixStep_idle c t h hv, h, hv]

theorem State.vecRetire_idle (s : State) (c : Nat) (h : (s.core c).vx.done = []) : s.vecRetire c = s := by
  simp [State.vecRetire, h]

theorem State.drainAccs_idle (s : State) (c : Nat) (t : BitVec 2) (upto : Nat) (h : (s.core c).mem.accs = []) :
    s.drainAccs c t upto = .ok s := by
  simp [State.drainAccs, Core.forcible, h, State.forceList]

theorem State.settle_idle (s : State) (c : Nat) (t : BitVec 2) (uses : List (BitVec 5)) (drains : Bool)
    (hl : s.listed c) (h1 : (s.thread c t).loads = []) (h2 : (s.core c).mem.accs = []) (h3 : (s.core c).mx.queue = [])
    (h4 : (s.core c).vx.queue = []) (h5 : (s.core c).vx.done = []) : s.settle c t uses drains = .ok s := by
  have hc : s.modThread c t Thread.commit = s := s.modThread_self c t _ hl (Thread.commit_quiet _ h1)
  unfold State.settle
  simp only [hc, s.drainAccs_idle c t _ h2]
  have ho (n : Nat) : (s.core c).engineOld t n = false := by simp [Core.engineOld, h3, h4, h5]
  cases drains
  · simp [ho]
  · simp [State.engineDrain, State.matrixRun_idle s c t h3 h4 23, s.drainAccs_idle c t _ h2, ho, Core.engineRaises, h3, h4,
      s.vecRetire_idle c h5]

/-! ### Where an instruction starts -/

theorem State.counted_core (s : State) (x : Iss) (c : Nat) :
    (s.counted x).core c =
      if c = x.core.toNat then { (s.core c).tickStall x.thr 0 with last := x.thr } else s.core c := by
  unfold State.counted
  split
  · rename_i h; subst h; simp only [State.core_modCore]; rfl
  · rename_i h; exact State.core_setCore_ne (s := { s with free := s.free + 1 }) _ h

theorem State.counted_thread (s : State) (x : Iss) (c : Nat) (t : BitVec 2) : (s.counted x).thread c t = s.thread c t := by
  unfold State.thread
  rw [State.counted_core]
  split <;> rfl

theorem State.counted_listed (s : State) (x : Iss) : (s.counted x).listed x.core.toNat :=
  State.listed_setCore ..

/-- Nothing of the thread or its core is in flight. -/
structure State.Quiet (s : State) (c : Nat) (t : BitVec 2) : Prop where
  listed : s.listed c
  loads : (s.thread c t).loads = []
  accs : (s.core c).mem.accs = []
  queue : (s.core c).mx.queue = []
  vq : (s.core c).vx.queue = []
  vd : (s.core c).vx.done = []

theorem State.Quiet.settle {s : State} {c : Nat} {t : BitVec 2} (h : s.Quiet c t) (uses : List (BitVec 5)) (drains : Bool) :
    s.settle c t uses drains = .ok s := s.settle_idle c t uses drains h.listed h.loads h.accs h.queue h.vq h.vd

theorem State.Quiet.raise {s : State} {c : Nat} {t : BitVec 2} (h : s.Quiet c t) (e : Exc) :
    s.raise c t e = some (s.enterExc c t e) := by simp [State.raise, h.settle, Core.engineClear, Matrix.open, h.queue, h.vq]

theorem State.Quiet.raiseOr {s : State} {c : Nat} {t : BitVec 2} (h : s.Quiet c t) (s0 : State) (e : Exc) :
    s.raiseOr s0 c t e = .next (s.enterExc c t e) := by simp [State.raiseOr, h.raise]

/-- A change of the thread that leaves its loads alone keeps the thread quiet. -/
theorem State.Quiet.modThread {s : State} {c : Nat} {t : BitVec 2} (h : s.Quiet c t) (f : Thread → Thread)
    (hf : (f (s.thread c t)).loads = []) : (s.modThread c t f).Quiet c t :=
  ⟨State.listed_modThread .., by simpa using hf, by simp [State.modThread, State.setThread, Core.setThr, h.accs],
    by simp [State.modThread, State.setThread, Core.setThr, h.queue], by simp [State.modThread, State.setThread, Core.setThr, h.vq],
    by simp [State.modThread, State.setThread, Core.setThr, h.vd]⟩

/-- The lookup of a line in the instruction cache keeps the thread quiet. -/
theorem State.Quiet.fetchLine {s : State} {c : Nat} {t : BitVec 2} (h : s.Quiet c t) (pc : W64) :
    (s.modCore c (fun k => k.fetched pc)).Quiet c t :=
  ⟨State.listed_setCore .., by simpa [State.thread, Core.fetched] using h.loads, by simp [Core.fetched, h.accs],
    by simp [Core.fetched, h.queue], by simp [Core.fetched, h.vq], by simp [Core.fetched, h.vd]⟩

/-- What an instruction that has been fetched finds. -/
theorem State.fetched_cases {s s2 : State} {x : Iss} (h : s.fetched x = some s2) :
    s.ready x.core.toNat x.thr = true ∧ s.eventDue x.core.toNat x.thr = false ∧ x.hw = .ok ∧
    (∃ s3 r, (s.counted x).resolve x.core.toNat (s.thread x.core.toNat x.thr).pc .fetch
      (!(s.thread x.core.toNat x.thr).sup) = (s3, .ok r) ∧
      s2 = s3.modCore x.core.toNat (fun k => k.fetched (s.thread x.core.toNat x.thr).pc)) ∧
    s2.Quiet x.core.toNat x.thr ∧ s2.thread x.core.toNat x.thr = s.thread x.core.toNat x.thr := by
  unfold State.fetched at h
  simp only [] at h
  split at h
  case isFalse => cases h
  case isTrue hc =>
  simp only [State.idleAt, Bool.and_eq_true, Bool.not_eq_true', List.isEmpty_iff, beq_iff_eq] at hc
  obtain ⟨⟨⟨⟨⟨⟨⟨hr, he⟩, hld⟩, hac⟩, hmq⟩, hvq⟩, hvd⟩, hhw⟩ := hc
  split at h
  case h_2 => cases h
  case h_1 s3 r hres =>
  simp only [Option.some.injEq] at h
  subst h
  have hcore := s.counted_core x x.core.toNat
  simp only [if_true] at hcore
  have h1 := (s.counted x).resolve_thread x.core.toNat (s.thread x.core.toNat x.thr).pc .fetch
    (!(s.thread x.core.toNat x.thr).sup) x.core.toNat x.thr
  have h2 := (s.counted x).resolve_listed x.core.toNat (s.thread x.core.toNat x.thr).pc .fetch
    (!(s.thread x.core.toNat x.thr).sup) (s.counted_listed x)
  have h3 := (s.counted x).resolve_accs x.core.toNat (s.thread x.core.toNat x.thr).pc .fetch
    (!(s.thread x.core.toNat x.thr).sup)
  have h4 := (s.counted x).resolve_mx x.core.toNat (s.thread x.core.toNat x.thr).pc .fetch
    (!(s.thread x.core.toNat x.thr).sup)
  have h5 := (s.counted x).resolve_vx x.core.toNat (s.thread x.core.toNat x.thr).pc .fetch
    (!(s.thread x.core.toNat x.thr).sup)
  rw [hres] at h1 h2 h3 h4 h5
  rw [State.counted_thread] at h1
  rw [hcore] at h3 h4 h5
  have hq : s3.Quiet x.core.toNat x.thr :=
    ⟨h2, by rw [h1]; exact hld, by rw [h3]; exact hac, by rw [h4]; exact hmq, by rw [h5]; exact hvq, by rw [h5]; exact hvd⟩
  exact ⟨hr, he, hhw, ⟨s3, r, hres, rfl⟩, hq.fetchLine _, by simpa [State.thread, Core.fetched] using h1⟩

/-- What the core of an instruction of `x` at `pc` notes when it issues it: one more of the thread, the last thread to issue,
and the line in the instruction cache (R17, R78, R178). -/
def Core.issuing (k : Core) (x : Iss) (pc : W64) : Core := { k.tickStall x.thr 0 with last := x.thr }.fetched pc

/-- Of the core, only those notes and the translation cache have changed. -/
theorem State.fetched_core {s s2 : State} {x : Iss} (h : s.fetched x = some s2) :
    ∃ tlb, s2.core x.core.toNat =
      let k := (s.core x.core.toNat).issuing x (s.pcAt x)
      { k with mem := { k.mem with tlb := tlb } } := by
  obtain ⟨-, -, -, ⟨s3, r, hres, rfl⟩, -, -⟩ := State.fetched_cases h
  have hf := (s.counted x).resolve_frame x.core.toNat (s.thread x.core.toNat x.thr).pc .fetch
    (!(s.thread x.core.toNat x.thr).sup)
  rw [hres] at hf
  have hc := s.counted_core x x.core.toNat
  simp only [if_true] at hc
  rcases hf with hf | ⟨tlb, hf⟩ <;> simp only at hf <;> rw [hf, State.core_modCore]
  · exact ⟨((s.counted x).core x.core.toNat).mem.tlb, by rw [hc]; rfl⟩
  · rw [State.core_setCore, hc]; exact ⟨tlb, rfl⟩

/-- Nothing outside the core has changed but the counter of free values. -/
theorem State.fetched_frame {s s2 : State} {x : Iss} (h : s.fetched x = some s2) :
    s2 = { s with free := s.free + 1 }.setCore x.core.toNat (s2.core x.core.toNat) := by
  obtain ⟨-, -, -, ⟨s3, r, hres, rfl⟩, -, -⟩ := State.fetched_cases h
  have hf := (s.counted x).resolve_frame x.core.toNat (s.thread x.core.toNat x.thr).pc .fetch
    (!(s.thread x.core.toNat x.thr).sup)
  rw [hres] at hf
  have hc : s.counted x = { s with free := s.free + 1 }.setCore x.core.toNat ((s.counted x).core x.core.toNat) := by
    simp [State.counted, State.modCore]
  rcases hf with hf | ⟨tlb, hf⟩ <;> simp only at hf <;> rw [hf]
  · rw [hc]; simp [State.modCore]
  · rw [hc]; simp [State.modCore]

theorem State.starts_cases {s s1 : State} {x : Iss} {b : Option (BitVec 5 × Bool)} (h : s.starts x b = some s1) :
    (x.pn && x.pi == 0) = false ∧ predOf x (s.thread x.core.toNat x.thr) = true ∧
      ∃ s2, s.fetched x = some s2 ∧ s1 = s2.based x b := by
  unfold State.starts at h
  split at h
  case isFalse => cases h
  case isTrue hc =>
  simp only [Bool.and_eq_true, Bool.not_eq_true'] at hc
  simp only [Option.map_eq_some_iff] at h
  obtain ⟨s2, h1, h2⟩ := h
  exact ⟨hc.1, hc.2, s2, h1, h2.symm⟩

theorem State.based_quiet {s : State} {x : Iss} {b : Option (BitVec 5 × Bool)} (h : s.Quiet x.core.toNat x.thr) :
    (s.based x b).Quiet x.core.toNat x.thr := by
  unfold State.based
  split
  · exact h.modThread _ h.loads
  · exact h

theorem State.based_thread (s : State) (x : Iss) (b : Option (BitVec 5 × Bool)) :
    (s.based x b).thread x.core.toNat x.thr = (if (s.thread x.core.toNat x.thr).rptOn then
      { s.thread x.core.toNat x.thr with rptBase := b } else s.thread x.core.toNat x.thr) := by
  unfold State.based
  split <;> simp

theorem predOf_based (s : State) (x : Iss) (b : Option (BitVec 5 × Bool)) :
    predOf x ((s.based x b).thread x.core.toNat x.thr) = predOf x (s.thread x.core.toNat x.thr) := by
  rw [State.based_thread]; split <;> rfl

/-- What `starts` gives has of the state before it. -/
theorem State.starts_quiet {s s1 : State} {x : Iss} {b : Option (BitVec 5 × Bool)} (h : s.starts x b = some s1) :
    s1.Quiet x.core.toNat x.thr := by
  obtain ⟨-, -, s2, h2, rfl⟩ := State.starts_cases h
  exact State.based_quiet (State.fetched_cases h2).2.2.2.2.1

theorem State.starts_hw {s s1 : State} {x : Iss} {b : Option (BitVec 5 × Bool)} (h : s.starts x b = some s1) :
    x.hw = .ok := by
  obtain ⟨-, -, s2, h2, -⟩ := State.starts_cases h
  exact (State.fetched_cases h2).2.2.1

/-- The thread as the instruction finds it: within a repetition the base register is noted. -/
theorem State.starts_thread {s s1 : State} {x : Iss} {b : Option (BitVec 5 × Bool)} (h : s.starts x b = some s1) :
    s1.thread x.core.toNat x.thr = (if (s.thread x.core.toNat x.thr).rptOn then
      { s.thread x.core.toNat x.thr with rptBase := b } else s.thread x.core.toNat x.thr) := by
  obtain ⟨-, -, s2, h2, rfl⟩ := State.starts_cases h
  rw [State.based_thread, (State.fetched_cases h2).2.2.2.2.2]

/-- Where an instruction starts, its core has counted it and looked up its PC, and nothing else of the core has changed
but the note of a base register. -/
theorem State.starts_core {s s1 : State} {x : Iss} {b : Option (BitVec 5 × Bool)} (h : s.starts x b = some s1) :
    ∃ tlb, s1.core x.core.toNat =
      let k := (s.core x.core.toNat).issuing x (s.pcAt x)
      { k with
        mem := { k.mem with tlb := tlb }
        thr := rset k.thr (tix x.thr) (s1.thread x.core.toNat x.thr) } := by
  obtain ⟨-, -, s2, h2, rfl⟩ := State.starts_cases h
  obtain ⟨tlb, h3⟩ := State.fetched_core h2
  refine ⟨tlb, ?_⟩
  unfold State.based
  split
  · simp only [State.thread_modThread]
    simp only [State.modThread, State.setThread, State.core_modCore, h3, Core.setThr]
  · simp only [State.thread]
    rw [h3]
    simp

/-- Nothing outside the core changes but the counter of free values. -/
theorem State.starts_frame {s s1 : State} {x : Iss} {b : Option (BitVec 5 × Bool)} (h : s.starts x b = some s1) :
    s1 = { s with free := s.free + 1 }.setCore x.core.toNat (s1.core x.core.toNat) := by
  obtain ⟨-, -, s2, h2, rfl⟩ := State.starts_cases h
  have h3 := State.fetched_frame h2
  unfold State.based
  split
  · simp only [State.modThread, State.setThread, State.core_modCore]
    rw [h3]
    simp [State.modCore]
  · exact h3

/-! ### What issue comes to -/

/-- Issue once the instruction has been fetched. -/
theorem State.issue_of_fetched {s s2 : State} {x : Iss} (h : s.fetched x = some s2) (i : Info) (body : State → Res) :
    s.issue x i body =
      if !i.legal || (x.pn && x.pi == 0) then
        .next (s2.enterExc x.core.toNat x.thr { code := 0x01, stval := i.word.setWidth 64 })
      else if i.priv && !s.supAt x then
        .next (s2.enterExc x.core.toNat x.thr { code := 0x02, stval := i.word.setWidth 64 })
      else if predOf x (s.thread x.core.toNat x.thr) then (s2.based x i.base).runBody s x body
      else .next ((s2.based x i.base).after x id) := by
  obtain ⟨hr, he, hhw, ⟨s3, r, hres, hs2⟩, hq, hthr⟩ := State.fetched_cases h
  have hearly : (s.counted x).early x i =
      if !i.legal || (x.pn && x.pi == 0) then (s2, some { code := 0x01, stval := i.word.setWidth 64 })
      else if i.priv && !s.supAt x then (s2, some { code := 0x02, stval := i.word.setWidth 64 })
      else (s2, none) := by
    unfold State.early
    simp only [State.counted_thread, hres, hhw, noRow, State.hwEvent, State.supAt, ← hs2]
    rfl
  unfold State.issue
  simp only [hr, he, Bool.not_true, Bool.false_eq_true, if_false, Bool.false_and]
  rw [show State.modCore { s with free := s.free + 1 } x.core.toNat
      (fun k => { k.tickStall x.thr 0 with last := x.thr }) = s.counted x from rfl,
    hearly]
  by_cases h1 : (!i.legal || (x.pn && x.pi == 0)) = true
  · simp only [if_pos h1]; exact hq.raiseOr ..
  · by_cases h2 : (i.priv && !s.supAt x) = true
    · simp only [if_neg h1, if_pos h2]; exact hq.raiseOr ..
    · simp only [if_neg h1, if_neg h2]
      rw [show (if (s2.thread x.core.toNat x.thr).rptOn = true then
        s2.modThread x.core.toNat x.thr (fun y => { y with rptBase := i.base }) else s2) = s2.based x i.base from rfl]
      have hb := State.based_quiet (b := i.base) hq
      rw [predOf_based, hthr]
      by_cases h3 : predOf x (s.thread x.core.toNat x.thr) = true
      · simp only [if_pos h3, hb.settle]
      · simp only [if_neg h3, State.after, hb.settle]
        congr 1
        simp only [State.modThread, Thread.commit_quiet _ hb.loads]
        rfl

/-- Where an instruction starts, issue comes to its own part, in the state that `starts` gives. -/
theorem State.issue_of_starts {s s1 : State} {x : Iss} {i : Info} (h : s.starts x i.base = some s1)
    (hl : i.legal = true) (hp : i.priv = true → s.supAt x = true) (body : State → Res) :
    s.issue x i body = s1.runBody s x body := by
  obtain ⟨h1, h2, s2, h3, rfl⟩ := State.starts_cases h
  rw [State.issue_of_fetched h3, hl, h1, h2]
  have h4 : (i.priv && !s.supAt x) = false := by cases hq : i.priv <;> simp_all
  simp [h4]

/-- A reserved form raises `UNDEF`, and one for supervisors `PRIV` in user mode, whatever the predicate (R80, R86, R99). -/
theorem State.issue_undef {s s2 : State} {x : Iss} {i : Info} (h : s.fetched x = some s2)
    (hl : i.legal = false ∨ (x.pn = true ∧ x.pi = 0)) (body : State → Res) :
    s.issue x i body = .next (s2.enterExc x.core.toNat x.thr { code := 0x01, stval := i.word.setWidth 64 }) := by
  rw [State.issue_of_fetched h, if_pos]
  rcases hl with h | ⟨h, h'⟩ <;> simp_all

theorem State.issue_priv {s s2 : State} {x : Iss} {i : Info} (h : s.fetched x = some s2) (hl : i.legal = true)
    (hn : ¬(x.pn = true ∧ x.pi = 0)) (hp : i.priv = true) (hs : s.supAt x = false) (body : State → Res) :
    s.issue x i body = .next (s2.enterExc x.core.toNat x.thr { code := 0x02, stval := i.word.setWidth 64 }) := by
  rw [State.issue_of_fetched h, if_neg (by simpa [hl] using hn), if_pos (by simp [hp, hs])]

/-- Where its predicate is false an instruction has no effect, and counts (R86, R93). -/
theorem State.issue_skip {s s2 : State} {x : Iss} {i : Info} (h : s.fetched x = some s2) (hl : i.legal = true)
    (hn : ¬(x.pn = true ∧ x.pi = 0)) (hp : i.priv = true → s.supAt x = true)
    (hf : predOf x (s.thread x.core.toNat x.thr) = false) (body : State → Res) :
    s.issue x i body = .next ((s2.based x i.base).after x id) := by
  have h4 : (i.priv && !s.supAt x) = false := by cases hq : i.priv <;> simp_all
  rw [State.issue_of_fetched h, if_neg (by simpa [hl] using hn), h4, hf]
  simp

/-- Its engines, channels and message unit are as they were. -/
theorem State.starts_engines {s s1 : State} {x : Iss} {b : Option (BitVec 5 × Bool)} (h : s.starts x b = some s1) :
    (s1.core x.core.toNat).mx = (s.core x.core.toNat).mx ∧ (s1.core x.core.toNat).vx = (s.core x.core.toNat).vx ∧
    (s1.core x.core.toNat).engbind = (s.core x.core.toNat).engbind ∧ (s1.core x.core.toNat).ch = (s.core x.core.toNat).ch ∧
    (s1.core x.core.toNat).mu = (s.core x.core.toNat).mu ∧ (s1.core x.core.toNat).ctl = (s.core x.core.toNat).ctl ∧
    (s1.core x.core.toNat).penn = (s.core x.core.toNat).penn ∧
    (s1.core x.core.toNat).mem.remOut = (s.core x.core.toNat).mem.remOut := by
  obtain ⟨tlb, e⟩ := State.starts_core h
  rw [e]
  exact ⟨rfl, rfl, rfl, rfl, rfl, rfl, rfl, rfl⟩

/-- Outside the core: registers, memory, partitions, messages. -/
theorem State.starts_device {s s1 : State} {x : Iss} {b : Option (BitVec 5 × Bool)} (h : s.starts x b = some s1) :
    s1.regs = s.regs ∧ s1.mem = s.mem ∧ s1.parts = s.parts ∧ s1.msgs = s.msgs ∧ s1.partmap = s.partmap ∧
    s1.poison = s.poison ∧ s1.pins = s.pins ∧ s1.devtime = s.devtime := by
  rw [State.starts_frame h]
  exact ⟨rfl, rfl, rfl, rfl, rfl, rfl, rfl, rfl⟩

theorem State.starts_getG {s s1 : State} {x : Iss} {b : Option (BitVec 5 × Bool)} (h : s.starts x b = some s1)
    (r : BitVec 5) : (s1.thread x.core.toNat x.thr).getG r = s.gAt x r := by
  rw [State.starts_thread h]; split <;> rfl

theorem State.starts_getP {s s1 : State} {x : Iss} {b : Option (BitVec 5 × Bool)} (h : s.starts x b = some s1)
    (r : BitVec 3) : (s1.thread x.core.toNat x.thr).getP r = (s.thread x.core.toNat x.thr).getP r := by
  rw [State.starts_thread h]; split <;> rfl

theorem State.starts_pc {s s1 : State} {x : Iss} {b : Option (BitVec 5 × Bool)} (h : s.starts x b = some s1) :
    (s1.thread x.core.toNat x.thr).pc = s.pcAt x := by
  rw [State.starts_thread h]; split <;> rfl

theorem State.starts_sup {s s1 : State} {x : Iss} {b : Option (BitVec 5 × Bool)} (h : s.starts x b = some s1) :
    (s1.thread x.core.toNat x.thr).sup = s.supAt x := by
  rw [State.starts_thread h]; split <;> rfl

/-! ### How the own part of an instruction ends -/

section
variable {s s1 s2 : State} {x : Iss} {i : Info} {body : State → Res}

theorem State.issue_done (h : s.starts x i.base = some s1) (hl : i.legal = true) (hp : i.priv = true → s.supAt x = true)
    (hb : body s1 = .done s2) : s.issue x i body = .next (s2.after x id) := by
  rw [State.issue_of_starts h hl hp]
  simp only [State.runBody, hb, State.starts_hw h]
  rfl

theorem State.issue_jump (h : s.starts x i.base = some s1) (hl : i.legal = true) (hp : i.priv = true → s.supAt x = true)
    {pc : W64} (hb : body s1 = .jump s2 pc) :
    s.issue x i body = .next (s2.modThread x.core.toNat x.thr (fun y => { y with n := y.n + 1, pc := pc })) := by
  rw [State.issue_of_starts h hl hp]
  simp only [State.runBody, hb, State.starts_hw h]

theorem State.issue_wait (h : s.starts x i.base = some s1) (hl : i.legal = true) (hp : i.priv = true → s.supAt x = true)
    (hb : body s1 = .wait s2) : s.issue x i body = .next s2 := by
  rw [State.issue_of_starts h hl hp]
  simp only [State.runBody, hb, State.starts_hw h]

theorem State.issue_trap (h : s.starts x i.base = some s1) (hl : i.legal = true) (hp : i.priv = true → s.supAt x = true)
    {e : Exc} (hb : body s1 = .trap s2 e) (hq : s2.Quiet x.core.toNat x.thr) :
    s.issue x i body = .next (s2.enterExc x.core.toNat x.thr e) := by
  rw [State.issue_of_starts h hl hp]
  simp only [State.runBody, hb, hq.raiseOr]

/-- An instruction that changes only its own thread. -/
theorem State.onThread_of_starts (h : s.starts x i.base = some s1) (hl : i.legal = true)
    (hp : i.priv = true → s.supAt x = true) (f : Thread → Thread) :
    s.onThread x i f = .next (s1.after x f) := by
  unfold State.onThread
  rw [State.issue_done (s2 := s1.modThread x.core.toNat x.thr f) h hl hp rfl]
  simp [State.after]

/-- Such an instruction, its effect written with the values that its operands had. -/
theorem State.after_congr (s1 : State) (x : Iss) {f g : Thread → Thread}
    (h : f (s1.thread x.core.toNat x.thr) = g (s1.thread x.core.toNat x.thr)) : s1.after x f = s1.after x g := by
  simp [State.after, State.modThread, h]

end

end Sys2Proof.Machine
end

