-- ==== Sys2Proof/Laws/Scalar.lean ====
section
/-!
SUPPORT. What the shapes of the register instructions do where they start.
-/
namespace Sys2Proof.Machine

variable {s s1 : State} {x : Iss}

theorem State.after_setG (h : s.starts x none = some s1) (rd ra rb : BitVec 5) (f : W64 → W64 → W64) :
    s1.after x (fun y => y.setG rd (f (y.getG ra) (y.getG rb))) =
      s1.after x (fun y => y.setG rd (f (s.gAt x ra) (s.gAt x rb))) :=
  State.after_congr s1 x (by simp only [State.starts_getG h])

theorem State.alu_of_starts (h : s.starts x none = some s1) (o : FmtR) (func : Nat) {legal : Bool} (hl : legal = true)
    (f : W64 → W64 → W64) :
    s.alu x o func legal f = .next (s1.after x (fun y => y.setG o.rd (f (s.gAt x o.ra) (s.gAt x o.rb)))) := by
  rw [State.alu, State.onThread_of_starts h hl (fun h => by cases h), State.after_setG h]

theorem State.aluImm_of_starts (h : s.starts x none = some s1) (o : FmtI) (op : Nat) (f : W64 → W64) :
    s.aluImm x o op f = .next (s1.after x (fun y => y.setG o.rd (f (s.gAt x o.ra)))) := by
  rw [State.aluImm, State.onThread_of_starts h rfl (fun h => by cases h)]
  rw [State.after_setG h o.rd o.ra o.ra (fun a _ => f a)]

theorem State.aluShift_of_starts (h : s.starts x none = some s1) (o : FmtSh) (sub : Nat) (hz : o.z = 0)
    (f : W64 → Nat → W64) :
    s.aluShift x o sub f = .next (s1.after x (fun y => y.setG o.rd (f (s.gAt x o.ra) o.sh.toNat))) := by
  rw [State.aluShift, State.onThread_of_starts h (by simp [hz]) (fun h => by cases h)]
  rw [State.after_setG h o.rd o.ra o.ra (fun a _ => f a o.sh.toNat)]

theorem State.plog_of_starts (h : s.starts x none = some s1) (o : FmtL) (sub : Nat) (hz : o.z = 0) (f : Bool → Bool → Bool) :
    s.plog x o sub f = .next (s1.after x (fun y => y.setP o.pd (f (s.pAt x o.pa) (s.pAt x o.pb)))) := by
  rw [State.plog, State.onThread_of_starts h (by simp [hz]) (fun h => by cases h)]
  exact congrArg _ (State.after_congr s1 x (by simp only [State.starts_getP h]; rfl))

end Sys2Proof.Machine
end

