-- ==== Sys2Proof/Laws/Access.lean ====
section
/-!
SUPPORT. What scalar loads, stores and atomics do where they start.
-/
namespace Sys2Proof.Machine

variable {s s1 s2 : State} {x : Iss} {r : Resolved}

theorem sext_toNat (n : Nat) (b : BitVec n) : sext n b.toNat = b.signExtend 64 := by simp [sext]

/-- Resolving an address keeps the thread quiet, and its registers. -/
theorem State.Quiet.resolve (q : s1.Quiet x.core.toNat x.thr) {ea : W64} {need : Need} {u : Bool}
    {res : Except Exc Resolved} (h : s1.resolve x.core.toNat ea need u = (s2, res)) :
   s2.Quiet x.core.toNat x.thr ∧ s2.thread x.core.toNat x.thr = s1.thread x.core.toNat x.thr := by
  have h1 := s1.resolve_thread x.core.toNat ea need u x.core.toNat x.thr
  have h2 := s1.resolve_listed x.core.toNat ea need u q.listed
  have h3 := s1.resolve_accs x.core.toNat ea need u
  have h4 := s1.resolve_mx x.core.toNat ea need u
  have h5 := s1.resolve_vx x.core.toNat ea need u
  rw [h] at h1 h2 h3 h4 h5
  exact ⟨⟨h2, by rw [h1]; exact q.loads, by rw [h3]; exact q.accs, by rw [h4]; exact q.queue, by rw [h5]; exact q.vq,
    by rw [h5]; exact q.vd⟩, h1⟩

/-- There is room for an access where nothing is in flight (R217). -/
theorem State.Quiet.makeRoom (q : s2.Quiet x.core.toNat x.thr) : s2.makeRoom x.core.toNat x.thr = .ok s2 := by
  unfold State.makeRoom
  rw [State.drainAccs_idle _ _ _ _ q.accs]
  simp [q.accs]

/-- An aligned access that resolves (R85, R217): a hit of the data cache, or an access in flight. -/
theorem State.access_ok (q : s1.Quiet x.core.toNat x.thr) (req : AccReq) (fin : State → Nat → Place → Res)
    (ha : req.ea.toNat % req.len = 0)
  (hr : s1.resolve x.core.toNat req.ea req.need (!(s1.thread x.core.toNat x.thr).sup) = (s2, .ok r)) :
  s1.access x req fin = match s2.hitValue x.core.toNat req r, req.rd with
      | some v, some rd => .done ((s2.entered x).modThread x.core.toNat x.thr
          (fun y => { y with loads := y.loads ++ [⟨s2.nextAcc x, y.n, rd, some v⟩] }))
      | _, _ => fin (s2.issued x req.kind req.ea req.len r req.rel) (s2.nextAcc x) r.place := by
  unfold State.access
  simp only [ha, ne_eq, not_true, if_false, hr]
  obtain ⟨q2, -⟩ := State.Quiet.resolve q hr
  have : State.modCore s2 x.core.toNat (fun k => k.addAcc (k.newAcc x.thr (s2.thread x.core.toNat x.thr) req r)) =
      s2.issued x req.kind req.ea req.len r req.rel := by
    unfold State.issued State.modCore
    simp [Core.addAcc, Core.newAcc, q2.accs, isOwnLm]
  have hd : State.modCore (s2.issued x req.kind req.ea req.len r req.rel) x.core.toNat
      (fun k => k.dropAcc (s2.core x.core.toNat).mem.nextId) = s2.entered x := by
    unfold State.issued State.entered State.modCore
    simp [Core.dropAcc, q2.accs]
  simp only [State.Quiet.makeRoom q2, this, hd]
  rfl

@[simp] theorem State.entered_thread (s : State) (x : Iss) :
    (s.entered x).thread x.core.toNat x.thr = s.thread x.core.toNat x.thr := by
  simp [State.entered, State.thread]

@[simp] theorem State.issued_thread {kind : AccKind} {ea : W64} {len : Nat} {rel : Bool} :
    (s2.issued x kind ea len r rel).thread x.core.toNat x.thr = s2.thread x.core.toNat x.thr := by
  simp [State.issued, State.thread]

/-- A scalar load where it starts (R87, R93). -/
theorem State.load_of_starts (o : FmtM) (h : s.starts x (some (baseReg o.bn, false)) = some s1) (op size : Nat) (signed : Bool)
   (ha : (s.gAt x (baseReg o.bn) + o.disp.signExtend 64).toNat % size = 0)
   (hr : s1.resolve x.core.toNat (s.gAt x (baseReg o.bn) + o.disp.signExtend 64) .read (!s.supAt x) = (s2, .ok r)) :
   s.load x o op size signed = .next (
          match s2.hitValue x.core.toNat { kind := .load o.r size signed true false, ea := (s.gAt x (baseReg o.bn) + o.disp.signExtend 64), len := size, need := .read } r with
          | none => (s2.issued x (.load o.r size signed true false) (s.gAt x (baseReg o.bn) + o.disp.signExtend 64) size r).after x (fun y => y.loading (s2.nextAcc x) o.r none)
          | some v => (s2.entered x).after x (fun y => y.loading (s2.nextAcc x) o.r (some v))) := by
  have q := State.starts_quiet h
  have hs := State.starts_sup h
  rw [State.load]
  have he : (s1.thread x.core.toNat x.thr).eaM o = s.gAt x (baseReg o.bn) + o.disp.signExtend 64 := by
    rw [Thread.eaM, State.starts_getG h, sext_toNat]
  have hb := State.access_ok q { kind := .load o.r size signed true false, ea := (s.gAt x (baseReg o.bn) + o.disp.signExtend 64), len := size, need := .read, rd := some o.r } (finLoad x o.r) ha (by rw [hs]; exact hr)
  rw [State.issue_of_starts (i := infoM op x o false) h rfl (fun h => by cases h)]
  unfold State.runBody
  simp only [he, hb]
  obtain ⟨q2, ht⟩ := State.Quiet.resolve q hr
  have hh : s2.hitValue x.core.toNat { kind := .load o.r size signed true false, ea := (s.gAt x (baseReg o.bn) + o.disp.signExtend 64), len := size, need := .read, rd := some o.r } r =
     s2.hitValue x.core.toNat { kind := .load o.r size signed true false, ea := (s.gAt x (baseReg o.bn) + o.disp.signExtend 64), len := size, need := .read } r := rfl
  rw [hh]
  rcases s2.hitValue x.core.toNat { kind := .load o.r size signed true false, ea := (s.gAt x (baseReg o.bn) + o.disp.signExtend 64), len := size, need := .read } r with _ | v
  · simp only [finLoad, State.starts_hw h, State.after, State.modThread_modThread]
    congr 1
    simp only [State.modThread, State.issued_thread, q2.loads]; rfl
  · simp only [State.starts_hw h, State.after, State.modThread_modThread]
    congr 1
    simp only [State.modThread, State.entered_thread, q2.loads]; rfl

/-- A scalar store where it starts (R87). -/
theorem State.store_of_starts (o : FmtM) (h : s.starts x (some (baseReg o.bn, false)) = some s1) (op size : Nat)
    (rel : Bool) (ha : (s.gAt x (baseReg o.bn) + o.disp.signExtend 64).toNat % size = 0)
    (hr : s1.resolve x.core.toNat (s.gAt x (baseReg o.bn) + o.disp.signExtend 64) .write (!s.supAt x) = (s2, .ok r)) :
    s.store x o op size rel = .next (((s2.issued x (.store size (s.gAt x o.r))
      (s.gAt x (baseReg o.bn) + o.disp.signExtend 64) size r rel).modCore x.core.toNat
        (fun k => k.updateLine r.place size (s.gAt x o.r))).after x id) := by
  have q := State.starts_quiet h
  have hs := State.starts_sup h
  have he : (s1.thread x.core.toNat x.thr).eaM o = s.gAt x (baseReg o.bn) + o.disp.signExtend 64 := by
    rw [Thread.eaM, State.starts_getG h, sext_toNat]
  have hb := State.access_ok q { kind := .store size (s.gAt x o.r), ea := (s.gAt x (baseReg o.bn) + o.disp.signExtend 64)
                                 len := size, need := .write, rel := rel } (finStore x size (s.gAt x o.r)) ha (by rw [hs]; exact hr)
  rw [State.store]
  refine State.issue_done (i := infoM op x o false) h rfl (fun h => by cases h) ?_
  simp only [he, State.starts_getG h, hb]
  rfl

/-- An atomic where it starts (R91). -/
theorem State.amo_of_starts (o : FmtAmo) (h : s.starts x none = some s1) (hz : o.z = 0) (op : Nat)
    (ha : (s.gAt x o.ra).toNat % (if o.w32 then 4 else 8) = 0)
    (hr : s1.resolve x.core.toNat (s.gAt x o.ra) .both (!s.supAt x) = (s2, .ok r)) :
    s.amo x o op = .next ((s2.issued x (.amo o.rd (BitVec.ofNat 4 op) o.w32 (s.gAt x o.rb) (s.gAt x o.rd)) (s.gAt x o.ra)
      (if o.w32 then 4 else 8) r).after x (fun y => y.loading (s2.nextAcc x) o.rd none)) := by
  have q := State.starts_quiet h
  have hs := State.starts_sup h
  have hb := State.access_ok q { kind := .amo o.rd (BitVec.ofNat 4 op) o.w32 (s.gAt x o.rb) (s.gAt x o.rd), ea := s.gAt x o.ra
                                 len := if o.w32 then 4 else 8, need := .both, rd := some o.rd } (finLoad x o.rd) ha
    (by rw [hs]; exact hr)
  obtain ⟨q2, -⟩ := State.Quiet.resolve q hr
  rw [State.amo]
  rw [State.issue_done (x := x) (s1 := s1) (s2 := (s2.issued x (.amo o.rd (BitVec.ofNat 4 op) o.w32 (s.gAt x o.rb)
    (s.gAt x o.rd)) (s.gAt x o.ra) (if o.w32 then 4 else 8) r).modThread x.core.toNat x.thr
      (fun y => { y with loads := y.loads ++ [⟨s2.nextAcc x, y.n, o.rd, none⟩] })) h (by simp [hz]) (fun h => by cases h)]
  · simp only [State.after, State.modThread_modThread]
    congr 1
    simp only [State.modThread, State.issued_thread, q2.loads]; rfl
  · simp only [State.starts_getG h, hb]
    simp only [State.hitValue, finLoad]

/-- The access of a `WAITM` where it starts (R91, R230). -/
theorem State.waitm_access (o : FmtR) (h : s.starts x none = some s1) (ha : (s.gAt x o.ra).toNat % 8 = 0)
    (hr : s1.resolve x.core.toNat (s.gAt x o.ra) .read (!s.supAt x) = (s2, .ok r)) (cmp limit : W64) :
    s1.access x { kind := .waitm, ea := s.gAt x o.ra, len := 8, need := .read, rd := some o.rd }
      (finWaitm x o.rd cmp limit (s.gAt x o.ra)) =
    .wait ((s2.issued x .waitm (s.gAt x o.ra) 8 r).modThread x.core.toNat x.thr
      (fun y => { y with wait := some (.waitm o.rd cmp limit (s.gAt x o.ra) r.place false false none) })) := by
  have hs := State.starts_sup h
  rw [State.access_ok (State.starts_quiet h) _ _ ha (by rw [hs]; exact hr)]
  simp only [State.hitValue, finWaitm]

/-- The acquire load where it starts (R225-R226). -/
theorem State.acquire_of_starts {b : Option (BitVec 5 × Bool)} {s3 : State} {r' : Resolved} (h : s.starts x b = some s1)
    (rd : BitVec 5) (ea : W64) (lines : Nat → Bool) (ha : ea.toNat % 8 = 0)
    (hr : s1.resolve x.core.toNat ea .read (!s.supAt x) = (s2, .ok r'))
    (hr' : (s2.modCore x.core.toNat (fun k => { k with mem := { k.mem with
      dcache := k.mem.dcache.filter (fun d => !lines d.ea) } })).resolve x.core.toNat ea .read (!s.supAt x) = (s3, .ok r)) :
    s1.acquire x rd ea lines = .done ((s3.issued x (.load rd 8 false false true) ea 8 r).modThread x.core.toNat x.thr
      (fun y => { y with loads := y.loads ++ [⟨s3.nextAcc x, y.n, rd, none⟩] })) ∧ s3.Quiet x.core.toNat x.thr := by
  have q := State.starts_quiet h
  have hs := State.starts_sup h
  obtain ⟨q2, ht⟩ := State.Quiet.resolve q hr
  have hi : s2.modCore x.core.toNat (fun k => k.invalidateEa lines) =
      s2.modCore x.core.toNat (fun k => { k with mem := { k.mem with
        dcache := k.mem.dcache.filter (fun d => !lines d.ea) } }) := by
    simp [State.modCore, Core.invalidateEa, q2.accs]
  have q3 : (s2.modCore x.core.toNat (fun k => { k with mem := { k.mem with
      dcache := k.mem.dcache.filter (fun d => !lines d.ea) } })).Quiet x.core.toNat x.thr :=
    ⟨State.listed_setCore .., by simpa [State.thread] using q2.loads, by simp [q2.accs], by simp [q2.queue], by simp [q2.vq],
      by simp [q2.vd]⟩
  have ht' : ((s2.modCore x.core.toNat (fun k => { k with mem := { k.mem with
      dcache := k.mem.dcache.filter (fun d => !lines d.ea) } })).thread x.core.toNat x.thr).sup = s.supAt x := by
    rw [← hs, ← ht]; simp [State.thread]
  refine ⟨?_, (State.Quiet.resolve q3 hr').1⟩
  unfold State.acquire
  simp only [ha, ne_eq, not_true, if_false, hs, hr, hi]
  rw [State.access_ok q3 _ _ ha (by rw [ht']; exact hr')]
  simp only [State.hitValue, finLoad]

/-- An access that is not aligned, or does not resolve (R85, R99). -/
theorem State.access_align (s : State) (x : Iss) (req : AccReq) (fin : State → Nat → Place → Res)
    (ha : req.ea.toNat % req.len ≠ 0) : s.access x req fin = .trap s { code := 0x03, stval := req.ea } := by
  unfold State.access; simp only [ha, ne_eq, not_false_iff, if_true]; rfl

theorem State.access_error (s : State) (x : Iss) (req : AccReq) (fin : State → Nat → Place → Res)
    (ha : req.ea.toNat % req.len = 0) {e : Exc}
    (hr : s.resolve x.core.toNat req.ea req.need (!(s.thread x.core.toNat x.thr).sup) = (s2, .error e)) :
    s.access x req fin = .trap s2 e := by
  unfold State.access; simp only [ha, ne_eq, not_true, if_false, hr]

end Sys2Proof.Machine
end

