-- ==== Sys2Proof/Laws/Exec.lean ====
section
/-!
SUPPORT. What `exec` is at each command.
-/
namespace Sys2Proof.Machine

variable (s : State)

theorem exec_add (x : Iss) (o : FmtR) : exec (.add x o) s = execAdd x o s := rfl
theorem exec_sub (x : Iss) (o : FmtR) : exec (.sub x o) s = execSub x o s := rfl
theorem exec_and (x : Iss) (o : FmtR) : exec (.and x o) s = execAnd x o s := rfl
theorem exec_or (x : Iss) (o : FmtR) : exec (.or x o) s = execOr x o s := rfl
theorem exec_xor (x : Iss) (o : FmtR) : exec (.xor x o) s = execXor x o s := rfl
theorem exec_andn (x : Iss) (o : FmtR) : exec (.andn x o) s = execAndn x o s := rfl
theorem exec_sll (x : Iss) (o : FmtR) : exec (.sll x o) s = execSll x o s := rfl
theorem exec_srl (x : Iss) (o : FmtR) : exec (.srl x o) s = execSrl x o s := rfl
theorem exec_sra (x : Iss) (o : FmtR) : exec (.sra x o) s = execSra x o s := rfl
theorem exec_min (x : Iss) (o : FmtR) : exec (.min x o) s = execMin x o s := rfl
theorem exec_max (x : Iss) (o : FmtR) : exec (.max x o) s = execMax x o s := rfl
theorem exec_minu (x : Iss) (o : FmtR) : exec (.minu x o) s = execMinu x o s := rfl
theorem exec_maxu (x : Iss) (o : FmtR) : exec (.maxu x o) s = execMaxu x o s := rfl
theorem exec_clz (x : Iss) (o : FmtR) : exec (.clz x o) s = execClz x o s := rfl
theorem exec_ctz (x : Iss) (o : FmtR) : exec (.ctz x o) s = execCtz x o s := rfl
theorem exec_popc (x : Iss) (o : FmtR) : exec (.popc x o) s = execPopc x o s := rfl
theorem exec_mul (x : Iss) (o : FmtR) : exec (.mul x o) s = execMul x o s := rfl
theorem exec_mulh (x : Iss) (o : FmtR) : exec (.mulh x o) s = execMulh x o s := rfl
theorem exec_mulhu (x : Iss) (o : FmtR) : exec (.mulhu x o) s = execMulhu x o s := rfl
theorem exec_div (x : Iss) (o : FmtR) : exec (.div x o) s = execDiv x o s := rfl
theorem exec_divu (x : Iss) (o : FmtR) : exec (.divu x o) s = execDivu x o s := rfl
theorem exec_rem (x : Iss) (o : FmtR) : exec (.rem x o) s = execRem x o s := rfl
theorem exec_remu (x : Iss) (o : FmtR) : exec (.remu x o) s = execRemu x o s := rfl
theorem exec_addi (x : Iss) (o : FmtI) : exec (.addi x o) s = execAddi x o s := rfl
theorem exec_andi (x : Iss) (o : FmtI) : exec (.andi x o) s = execAndi x o s := rfl
theorem exec_ori (x : Iss) (o : FmtI) : exec (.ori x o) s = execOri x o s := rfl
theorem exec_xori (x : Iss) (o : FmtI) : exec (.xori x o) s = execXori x o s := rfl
theorem exec_slli (x : Iss) (o : FmtSh) : exec (.slli x o) s = execSlli x o s := rfl
theorem exec_srli (x : Iss) (o : FmtSh) : exec (.srli x o) s = execSrli x o s := rfl
theorem exec_srai (x : Iss) (o : FmtSh) : exec (.srai x o) s = execSrai x o s := rfl
theorem exec_lui (x : Iss) (o : FmtU) : exec (.lui x o) s = execLui x o s := rfl
theorem exec_cmp (x : Iss) (o : FmtCmp) : exec (.cmp x o) s = execCmp x o s := rfl
theorem exec_cmpi (x : Iss) (o : FmtCmpi) : exec (.cmpi x o) s = execCmpi x o s := rfl
theorem exec_plogAnd (x : Iss) (o : FmtL) : exec (.plogAnd x o) s = execPlogAnd x o s := rfl
theorem exec_plogOr (x : Iss) (o : FmtL) : exec (.plogOr x o) s = execPlogOr x o s := rfl
theorem exec_plogXor (x : Iss) (o : FmtL) : exec (.plogXor x o) s = execPlogXor x o s := rfl
theorem exec_plogAndn (x : Iss) (o : FmtL) : exec (.plogAndn x o) s = execPlogAndn x o s := rfl
theorem exec_plogOrn (x : Iss) (o : FmtL) : exec (.plogOrn x o) s = execPlogOrn x o s := rfl
theorem exec_plogMov (x : Iss) (o : FmtL) : exec (.plogMov x o) s = execPlogMov x o s := rfl
theorem exec_plogNot (x : Iss) (o : FmtL) : exec (.plogNot x o) s = execPlogNot x o s := rfl
theorem exec_plogSet (x : Iss) (o : FmtL) : exec (.plogSet x o) s = execPlogSet x o s := rfl
theorem exec_plogClr (x : Iss) (o : FmtL) : exec (.plogClr x o) s = execPlogClr x o s := rfl
theorem exec_br (x : Iss) (disp : BitVec 22) : exec (.br x disp) s = execBr x disp s := rfl
theorem exec_call (x : Iss) (disp : BitVec 22) : exec (.call x disp) s = execCall x disp s := rfl
theorem exec_jalr (x : Iss) (o : FmtI) : exec (.jalr x o) s = execJalr x o s := rfl
theorem exec_rpt (x : Iss) (o : FmtRpt) (next : W32) : exec (.rpt x o next) s = execRpt x o next s := rfl
theorem exec_rptn (x : Iss) (o : FmtRptn) (next : W32) : exec (.rptn x o next) s = execRptn x o next s := rfl
theorem exec_csrr (x : Iss) (o : FmtI) : exec (.csrr x o) s = execCsrr x o s := rfl
theorem exec_csrw (x : Iss) (o : FmtI) : exec (.csrw x o) s = execCsrw x o s := rfl
theorem exec_csrs (x : Iss) (o : FmtI) : exec (.csrs x o) s = execCsrs x o s := rfl
theorem exec_csrc (x : Iss) (o : FmtI) : exec (.csrc x o) s = execCsrc x o s := rfl
theorem exec_ld8 (x : Iss) (o : FmtM) : exec (.ld8 x o) s = execLd8 x o s := rfl
theorem exec_ld8u (x : Iss) (o : FmtM) : exec (.ld8u x o) s = execLd8u x o s := rfl
theorem exec_ld16 (x : Iss) (o : FmtM) : exec (.ld16 x o) s = execLd16 x o s := rfl
theorem exec_ld16u (x : Iss) (o : FmtM) : exec (.ld16u x o) s = execLd16u x o s := rfl
theorem exec_ld32 (x : Iss) (o : FmtM) : exec (.ld32 x o) s = execLd32 x o s := rfl
theorem exec_ld32u (x : Iss) (o : FmtM) : exec (.ld32u x o) s = execLd32u x o s := rfl
theorem exec_ld64 (x : Iss) (o : FmtM) : exec (.ld64 x o) s = execLd64 x o s := rfl
theorem exec_st8 (x : Iss) (o : FmtM) : exec (.st8 x o) s = execSt8 x o s := rfl
theorem exec_st16 (x : Iss) (o : FmtM) : exec (.st16 x o) s = execSt16 x o s := rfl
theorem exec_st32 (x : Iss) (o : FmtM) : exec (.st32 x o) s = execSt32 x o s := rfl
theorem exec_st64 (x : Iss) (o : FmtM) : exec (.st64 x o) s = execSt64 x o s := rfl
theorem exec_ldAcq (x : Iss) (o : FmtM) : exec (.ldAcq x o) s = execLdAcq x o s := rfl
theorem exec_stRel (x : Iss) (o : FmtM) : exec (.stRel x o) s = execStRel x o s := rfl
theorem exec_ldAcqr (x : Iss) (o : FmtR) (func : BitVec 7) : exec (.ldAcqr x o func) s = execLdAcqr x o func s := rfl
theorem exec_amoAdd (x : Iss) (o : FmtAmo) : exec (.amoAdd x o) s = execAmoAdd x o s := rfl
theorem exec_amoAnd (x : Iss) (o : FmtAmo) : exec (.amoAnd x o) s = execAmoAnd x o s := rfl
theorem exec_amoOr (x : Iss) (o : FmtAmo) : exec (.amoOr x o) s = execAmoOr x o s := rfl
theorem exec_amoXor (x : Iss) (o : FmtAmo) : exec (.amoXor x o) s = execAmoXor x o s := rfl
theorem exec_amoSwap (x : Iss) (o : FmtAmo) : exec (.amoSwap x o) s = execAmoSwap x o s := rfl
theorem exec_amoMin (x : Iss) (o : FmtAmo) : exec (.amoMin x o) s = execAmoMin x o s := rfl
theorem exec_amoMax (x : Iss) (o : FmtAmo) : exec (.amoMax x o) s = execAmoMax x o s := rfl
theorem exec_amoMinu (x : Iss) (o : FmtAmo) : exec (.amoMinu x o) s = execAmoMinu x o s := rfl
theorem exec_amoMaxu (x : Iss) (o : FmtAmo) : exec (.amoMaxu x o) s = execAmoMaxu x o s := rfl
theorem exec_amoCas (x : Iss) (o : FmtAmo) : exec (.amoCas x o) s = execAmoCas x o s := rfl
theorem exec_waitm (x : Iss) (o : FmtR) (func : BitVec 7) : exec (.waitm x o func) s = execWaitm x o func s := rfl
theorem exec_sysNop (x : Iss) (o : FmtS) : exec (.sysNop x o) s = execSysNop x o s := rfl
theorem exec_syscall (x : Iss) (o : FmtS) : exec (.syscall x o) s = execSyscall x o s := rfl
theorem exec_brk (x : Iss) (o : FmtS) : exec (.brk x o) s = execBrk x o s := rfl
theorem exec_eret (x : Iss) (o : FmtS) : exec (.eret x o) s = execEret x o s := rfl
theorem exec_remfence (x : Iss) (o : FmtS) : exec (.remfence x o) s = execRemfence x o s := rfl
theorem exec_iinv (x : Iss) (o : FmtS) : exec (.iinv x o) s = execIinv x o s := rfl
theorem exec_ctxsv (x : Iss) (o : FmtS) : exec (.ctxsv x o) s = execCtxsv x o s := rfl
theorem exec_ctxld (x : Iss) (o : FmtS) : exec (.ctxld x o) s = execCtxld x o s := rfl
theorem exec_tld (x : Iss) (o : FmtCM) : exec (.tld x o) s = execTld x o s := rfl
theorem exec_tst (x : Iss) (o : FmtCM) : exec (.tst x o) s = execTst x o s := rfl
theorem exec_tmma (x : Iss) (o : FmtTmma) : exec (.tmma x o) s = execTmma x o s := rfl
theorem exec_tzero (x : Iss) (o : FmtTzero) : exec (.tzero x o) s = execTzero x o s := rfl
theorem exec_tfree (x : Iss) (o : FmtTfree) : exec (.tfree x o) s = execTfree x o s := rfl
theorem exec_tsld (x : Iss) (o : FmtCM) : exec (.tsld x o) s = execTsld x o s := rfl
theorem exec_tsst (x : Iss) (o : FmtCM) : exec (.tsst x o) s = execTsst x o s := rfl
theorem exec_tfin (x : Iss) (o : FmtTfin) : exec (.tfin x o) s = execTfin x o s := rfl
theorem exec_tald (x : Iss) (o : FmtCM) : exec (.tald x o) s = execTald x o s := rfl
theorem exec_tast (x : Iss) (o : FmtCM) : exec (.tast x o) s = execTast x o s := rfl
theorem exec_vld (x : Iss) (o : FmtCM) : exec (.vld x o) s = execVld x o s := rfl
theorem exec_vst (x : Iss) (o : FmtCM) : exec (.vst x o) s = execVst x o s := rfl
theorem exec_varithAdd (x : Iss) (o : FmtVar) : exec (.varithAdd x o) s = execVarithAdd x o s := rfl
theorem exec_varithSub (x : Iss) (o : FmtVar) : exec (.varithSub x o) s = execVarithSub x o s := rfl
theorem exec_varithMul (x : Iss) (o : FmtVar) : exec (.varithMul x o) s = execVarithMul x o s := rfl
theorem exec_varithMin (x : Iss) (o : FmtVar) : exec (.varithMin x o) s = execVarithMin x o s := rfl
theorem exec_varithMax (x : Iss) (o : FmtVar) : exec (.varithMax x o) s = execVarithMax x o s := rfl
theorem exec_varithFma (x : Iss) (o : FmtVar) : exec (.varithFma x o) s = execVarithFma x o s := rfl
theorem exec_varithFms (x : Iss) (o : FmtVar) : exec (.varithFms x o) s = execVarithFms x o s := rfl
theorem exec_varithAbs (x : Iss) (o : FmtVar) : exec (.varithAbs x o) s = execVarithAbs x o s := rfl
theorem exec_varithNeg (x : Iss) (o : FmtVar) : exec (.varithNeg x o) s = execVarithNeg x o s := rfl
theorem exec_vcmp (x : Iss) (o : FmtVcmp) : exec (.vcmp x o) s = execVcmp x o s := rfl
theorem exec_vcvtNarrow (x : Iss) (o : FmtVcvt) : exec (.vcvtNarrow x o) s = execVcvtNarrow x o s := rfl
theorem exec_vcvtWiden (x : Iss) (o : FmtVcvt) : exec (.vcvtWiden x o) s = execVcvtWiden x o s := rfl
theorem exec_vsfExp (x : Iss) (o : FmtVV) : exec (.vsfExp x o) s = execVsfExp x o s := rfl
theorem exec_vsfExp2 (x : Iss) (o : FmtVV) : exec (.vsfExp2 x o) s = execVsfExp2 x o s := rfl
theorem exec_vsfLog (x : Iss) (o : FmtVV) : exec (.vsfLog x o) s = execVsfLog x o s := rfl
theorem exec_vsfLog2 (x : Iss) (o : FmtVV) : exec (.vsfLog2 x o) s = execVsfLog2 x o s := rfl
theorem exec_vsfRcp (x : Iss) (o : FmtVV) : exec (.vsfRcp x o) s = execVsfRcp x o s := rfl
theorem exec_vsfSqrt (x : Iss) (o : FmtVV) : exec (.vsfSqrt x o) s = execVsfSqrt x o s := rfl
theorem exec_vsfRsqrt (x : Iss) (o : FmtVV) : exec (.vsfRsqrt x o) s = execVsfRsqrt x o s := rfl
theorem exec_vsfTanh (x : Iss) (o : FmtVV) : exec (.vsfTanh x o) s = execVsfTanh x o s := rfl
theorem exec_vsfSigmoid (x : Iss) (o : FmtVV) : exec (.vsfSigmoid x o) s = execVsfSigmoid x o s := rfl
theorem exec_vsfErf (x : Iss) (o : FmtVV) : exec (.vsfErf x o) s = execVsfErf x o s := rfl
theorem exec_vsfSin (x : Iss) (o : FmtVV) : exec (.vsfSin x o) s = execVsfSin x o s := rfl
theorem exec_vsfCos (x : Iss) (o : FmtVV) : exec (.vsfCos x o) s = execVsfCos x o s := rfl
theorem exec_vredSum (x : Iss) (o : FmtVred) : exec (.vredSum x o) s = execVredSum x o s := rfl
theorem exec_vredMax (x : Iss) (o : FmtVred) : exec (.vredMax x o) s = execVredMax x o s := rfl
theorem exec_vredMin (x : Iss) (o : FmtVred) : exec (.vredMin x o) s = execVredMin x o s := rfl
theorem exec_vredArgmax (x : Iss) (o : FmtVred) : exec (.vredArgmax x o) s = execVredArgmax x o s := rfl
theorem exec_vredIntSum (x : Iss) (o : FmtVred) : exec (.vredIntSum x o) s = execVredIntSum x o s := rfl
theorem exec_vredIntMax (x : Iss) (o : FmtVred) : exec (.vredIntMax x o) s = execVredIntMax x o s := rfl
theorem exec_vredIntMin (x : Iss) (o : FmtVred) : exec (.vredIntMin x o) s = execVredIntMin x o s := rfl
theorem exec_vperm (x : Iss) (o : FmtVperm) : exec (.vperm x o) s = execVperm x o s := rfl
theorem exec_vmovtToMatrix (x : Iss) (o : FmtVmovt) : exec (.vmovtToMatrix x o) s = execVmovtToMatrix x o s := rfl
theorem exec_vmovtToVector (x : Iss) (o : FmtVmovt) : exec (.vmovtToVector x o) s = execVmovtToVector x o s := rfl
theorem exec_vftqRead (x : Iss) (o : FmtVftq) : exec (.vftqRead x o) s = execVftqRead x o s := rfl
theorem exec_vftqPop (x : Iss) (o : FmtVftq) : exec (.vftqPop x o) s = execVftqPop x o s := rfl
theorem exec_vftqStat (x : Iss) (o : FmtVftq) : exec (.vftqStat x o) s = execVftqStat x o s := rfl
theorem exec_vsetvl (x : Iss) (o : FmtVsetvl) : exec (.vsetvl x o) s = execVsetvl x o s := rfl
theorem exec_vbitAnd (x : Iss) (o : FmtVV) : exec (.vbitAnd x o) s = execVbitAnd x o s := rfl
theorem exec_vbitOr (x : Iss) (o : FmtVV) : exec (.vbitOr x o) s = execVbitOr x o s := rfl
theorem exec_vbitXor (x : Iss) (o : FmtVV) : exec (.vbitXor x o) s = execVbitXor x o s := rfl
theorem exec_vbitAndn (x : Iss) (o : FmtVV) : exec (.vbitAndn x o) s = execVbitAndn x o s := rfl
theorem exec_vbitSll (x : Iss) (o : FmtVV) : exec (.vbitSll x o) s = execVbitSll x o s := rfl
theorem exec_vbitSrl (x : Iss) (o : FmtVV) : exec (.vbitSrl x o) s = execVbitSrl x o s := rfl
theorem exec_vbitSra (x : Iss) (o : FmtVV) : exec (.vbitSra x o) s = execVbitSra x o s := rfl
theorem exec_vbitSel (x : Iss) (o : FmtVV) : exec (.vbitSel x o) s = execVbitSel x o s := rfl
theorem exec_vbitMov (x : Iss) (o : FmtVV) : exec (.vbitMov x o) s = execVbitMov x o s := rfl
theorem exec_vmovgBcast (x : Iss) (o : FmtVmovg) : exec (.vmovgBcast x o) s = execVmovgBcast x o s := rfl
theorem exec_vmovgGet0 (x : Iss) (o : FmtVmovg) : exec (.vmovgGet0 x o) s = execVmovgGet0 x o s := rfl
theorem exec_vmovgGet (x : Iss) (o : FmtVmovg) : exec (.vmovgGet x o) s = execVmovgGet x o s := rfl
theorem exec_sdescPost (x : Iss) (o : FmtSdesc) : exec (.sdescPost x o) s = execSdescPost x o s := rfl
theorem exec_sdescResume (x : Iss) (o : FmtSdesc) : exec (.sdescResume x o) s = execSdescResume x o s := rfl
theorem exec_sstop (x : Iss) (o : FmtSstop) : exec (.sstop x o) s = execSstop x o s := rfl
theorem exec_sstat (x : Iss) (o : FmtSstat) : exec (.sstat x o) s = execSstat x o s := rfl
theorem exec_send (x : Iss) (o : FmtSend) : exec (.send x o) s = execSend x o s := rfl
theorem exec_recvSel (x : Iss) (o : FmtRecvSel) : exec (.recvSel x o) s = execRecvSel x o s := rfl
theorem exec_movq (x : Iss) (o : FmtMovq) : exec (.movq x o) s = execMovq x o s := rfl
theorem exec_pset (x : Iss) (o : FmtPset) : exec (.pset x o) s = execPset x o s := rfl
theorem exec_pclr (x : Iss) (o : FmtPset) : exec (.pclr x o) s = execPclr x o s := rfl
theorem exec_pwait (x : Iss) (o : FmtPwait) : exec (.pwait x o) s = execPwait x o s := rfl
theorem exec_barrWait (x : Iss) (o : FmtBarr) : exec (.barrWait x o) s = execBarrWait x o s := rfl
theorem exec_barrArrive (x : Iss) (o : FmtBarr) : exec (.barrArrive x o) s = execBarrArrive x o s := rfl
theorem exec_barrTest (x : Iss) (o : FmtBarr) : exec (.barrTest x o) s = execBarrTest x o s := rfl
theorem exec_barm (x : Iss) (o : FmtBarm) : exec (.barm x o) s = execBarm x o s := rfl
theorem exec_hsig (x : Iss) (o : FmtHsig) : exec (.hsig x o) s = execHsig x o s := rfl
theorem exec_engbindWrite (x : Iss) (op : CsrOp) (ra : BitVec 5) : exec (.engbindWrite x op ra) s = execEngbindWrite x op ra s := rfl
theorem exec_tcfgWrite (x : Iss) (op : CsrOp) (ra : BitVec 5) (reg : MatCsr) : exec (.tcfgWrite x op ra reg) s = execTcfgWrite x op ra reg s := rfl
theorem exec_tiuWrite (x : Iss) (op : CsrOp) (ra : BitVec 5) : exec (.tiuWrite x op ra) s = execTiuWrite x op ra s := rfl
theorem exec_vlWrite (x : Iss) (op : CsrOp) (ra : BitVec 5) : exec (.vlWrite x op ra) s = execVlWrite x op ra s := rfl
theorem exec_srseedWrite (x : Iss) (op : CsrOp) (ra : BitVec 5) : exec (.srseedWrite x op ra) s = execSrseedWrite x op ra s := rfl
theorem exec_threadRunRequest (x : Iss) (op : CsrOp) (ra : BitVec 5) (target : BitVec 2) : exec (.threadRunRequest x op ra target) s = execThreadRunRequest x op ra target s := rfl
theorem exec_threadStopRequest (x : Iss) (op : CsrOp) (ra : BitVec 5) (target : BitVec 2) : exec (.threadStopRequest x op ra target) s = execThreadStopRequest x op ra target s := rfl
theorem exec_threadStop (core : BitVec 10) (thr : BitVec 2) : exec (.threadStop core thr) s = execThreadStop core thr s := rfl
theorem exec_interruptEntry (core : BitVec 10) (thr : BitVec 2) : exec (.interruptEntry core thr) s = execInterruptEntry core thr s := rfl
theorem exec_loadArrival (core : BitVec 10) (id : Nat) (net : NetEcc) : exec (.loadArrival core id net) s = execLoadArrival core id net s := rfl
theorem exec_homeRead (core : BitVec 10) (id : Nat) (ecc : Ecc) : exec (.homeRead core id ecc) s = execHomeRead core id ecc s := rfl
theorem exec_homeWrite (core : BitVec 10) (id : Nat) (net : NetEcc) : exec (.homeWrite core id net) s = execHomeWrite core id net s := rfl
theorem exec_homeAtomic (core : BitVec 10) (id : Nat) (ecc : Ecc) : exec (.homeAtomic core id ecc) s = execHomeAtomic core id ecc s := rfl
theorem exec_writeAcknowledgement (core : BitVec 10) (id : Nat) : exec (.writeAcknowledgement core id) s = execWriteAcknowledgement core id s := rfl
theorem exec_remoteWriteError (core : BitVec 10) (id : Nat) : exec (.remoteWriteError core id) s = execRemoteWriteError core id s := rfl
theorem exec_waitmWatchTrigger (core : BitVec 10) (thr : BitVec 2) : exec (.waitmWatchTrigger core thr) s = execWaitmWatchTrigger core thr s := rfl
theorem exec_waitmPoll (core : BitVec 10) (thr : BitVec 2) (ecc : Ecc) : exec (.waitmPoll core thr ecc) s = execWaitmPoll core thr ecc s := rfl
theorem exec_waitmTimeout (core : BitVec 10) (thr : BitVec 2) : exec (.waitmTimeout core thr) s = execWaitmTimeout core thr s := rfl
theorem exec_tmmaCollect (core : BitVec 10) (ecc : Ecc) : exec (.tmmaCollect core ecc) s = execTmmaCollect core ecc s := rfl
theorem exec_tmmaFinish (core : BitVec 10) (mismatch : Bool) : exec (.tmmaFinish core mismatch) s = execTmmaFinish core mismatch s := rfl
theorem exec_checksumFail (core : BitVec 10) : exec (.checksumFail core) s = execChecksumFail core s := rfl
theorem exec_tfinCopyDone (core : BitVec 10) : exec (.tfinCopyDone core) s = execTfinCopyDone core s := rfl
theorem exec_tileRowTransfer (core : BitVec 10) (thr : BitVec 2) (ecc : Ecc) : exec (.tileRowTransfer core thr ecc) s = execTileRowTransfer core thr ecc s := rfl
theorem exec_channelBeat (core : BitVec 10) (ch : BitVec 3) (side : BeatSide) (ecc : BeatEcc) : exec (.channelBeat core ch side ecc) s = execChannelBeat core ch side ecc s := rfl
theorem exec_blockListEntryRead (core : BitVec 10) (ch : BitVec 3) (side : BeatSide) (ecc : Ecc) : exec (.blockListEntryRead core ch side ecc) s = execBlockListEntryRead core ch side ecc s := rfl
theorem exec_descriptorComplete (core : BitVec 10) (ch : BitVec 3) : exec (.descriptorComplete core ch) s = execDescriptorComplete core ch s := rfl
theorem exec_niSlotInject (core : BitVec 10) (slot : BitVec 4) : exec (.niSlotInject core slot) s = execNiSlotInject core slot s := rfl
theorem exec_messageArrival (id : Nat) (net : NetEcc) : exec (.messageArrival id net) s = execMessageArrival id net s := rfl
theorem exec_sendAnswerArrival (core : BitVec 10) (thr : BitVec 2) : exec (.sendAnswerArrival core thr) s = execSendAnswerArrival core thr s := rfl
theorem exec_messageResend (src : Resender) : exec (.messageResend src) s = execMessageResend src s := rfl
theorem exec_sendWait (core : BitVec 10) (thr : BitVec 2) : exec (.sendWait core thr) s = execSendWait core thr s := rfl
theorem exec_spillRecordMove (core : BitVec 10) (queue : BitVec 3) (ecc : Ecc) : exec (.spillRecordMove core queue ecc) s = execSpillRecordMove core queue ecc s := rfl
theorem exec_deadLetterWrite (part : BitVec 3) : exec (.deadLetterWrite part) s = execDeadLetterWrite part s := rfl
theorem exec_barrierArrival (part : BitVec 3) (bar : BitVec 7) (core : BitVec 10) (thr : BitVec 2) : exec (.barrierArrival part bar core thr) s = execBarrierArrival part bar core thr s := rfl
theorem exec_barrierTimeout (part : BitVec 3) (bar : BitVec 7) : exec (.barrierTimeout part bar) s = execBarrierTimeout part bar s := rfl
theorem exec_linkLineSend (core : BitVec 10) (dir : BitVec 2) : exec (.linkLineSend core dir) s = execLinkLineSend core dir s := rfl
theorem exec_linkLineWrite (core : BitVec 10) (dir : BitVec 2) (ecc : Ecc) : exec (.linkLineWrite core dir ecc) s = execLinkLineWrite core dir ecc s := rfl
theorem exec_pwaitWake (core : BitVec 10) (thr : BitVec 2) (limit : Bool) : exec (.pwaitWake core thr limit) s = execPwaitWake core thr limit s := rfl
theorem exec_devtimeTick : exec .devtimeTick s = execDevtimeTick s := rfl
theorem exec_stepBoundary (part : BitVec 3) (found : Option Mismatch) : exec (.stepBoundary part found) s = execStepBoundary part found s := rfl
theorem exec_snapshotComplete (part : BitVec 3) : exec (.snapshotComplete part) s = execSnapshotComplete part s := rfl
theorem exec_stepEnd (part : BitVec 3) : exec (.stepEnd part) s = execStepEnd part s := rfl
theorem exec_bandOverrun (part : BitVec 3) : exec (.bandOverrun part) s = execBandOverrun part s := rfl
theorem exec_overrun (part : BitVec 3) : exec (.overrun part) s = execOverrun part s := rfl
theorem exec_wdogFired (part : BitVec 3) : exec (.wdogFired part) s = execWdogFired part s := rfl
theorem exec_packetRead (ring : BitVec 9) (bytes : List Byte) (ok : HostFetch) : exec (.packetRead ring bytes ok) s = execPacketRead ring bytes ok s := rfl
theorem exec_completionWrite (ring : ComplWrite) : exec (.completionWrite ring) s = execCompletionWrite ring s := rfl
theorem exec_coalescingTimer (ring : BitVec 9) : exec (.coalescingTimer ring) s = execCoalescingTimer ring s := rfl
theorem exec_restoreStart (part : BitVec 3) : exec (.restoreStart part) s = execRestoreStart part s := rfl
theorem exec_restoreEnd (part : BitVec 3) : exec (.restoreEnd part) s = execRestoreEnd part s := rfl
theorem exec_moorRecordComplete (part : BitVec 3) : exec (.moorRecordComplete part) s = execMoorRecordComplete part s := rfl
theorem exec_scrubAccess (pa : W64) (ecc : Ecc) (last : Bool) : exec (.scrubAccess pa ecc last) s = execScrubAccess pa ecc last s := rfl
theorem exec_traceRecordWrite (part : BitVec 3) : exec (.traceRecordWrite part) s = execTraceRecordWrite part s := rfl
theorem exec_quarantine (core : BitVec 10) : exec (.quarantine core) s = execQuarantine core s := rfl
theorem exec_deviceConservationAudit (found : Option Mismatch) : exec (.deviceConservationAudit found) s = execDeviceConservationAudit found s := rfl
theorem exec_thermalTrip : exec .thermalTrip s = execThermalTrip s := rfl
theorem exec_supplyRailOutOfWindow : exec .supplyRailOutOfWindow s = execSupplyRailOutOfWindow s := rfl
theorem exec_throttleEvaluation (half : Bool) (temp : BitVec 8) : exec (.throttleEvaluation half temp) s = execThrottleEvaluation half temp s := rfl
theorem exec_powerCapEvaluation (avg peak west east : BitVec 16) : exec (.powerCapEvaluation avg peak west east) s = execPowerCapEvaluation avg peak west east s := rfl
theorem exec_voltageLowerRequest (half : Bool) : exec (.voltageLowerRequest half) s = execVoltageLowerRequest half s := rfl
theorem exec_pgChange (half : Bool) (level : Bool) : exec (.pgChange half level) s = execPgChange half level s := rfl
theorem exec_pgWindowExpiry (half : Bool) : exec (.pgWindowExpiry half) s = execPgWindowExpiry half s := rfl
theorem exec_referenceClockLoss : exec .referenceClockLoss s = execReferenceClockLoss s := rfl
theorem exec_porstNFall : exec .porstNFall s = execPorstNFall s := rfl
theorem exec_porstNRise (straps : BitVec 3) : exec (.porstNRise straps) s = execPorstNRise straps s := rfl
theorem exec_warmrstNAssert : exec .warmrstNAssert s = execWarmrstNAssert s := rfl
theorem exec_warmReset : exec .warmReset s = execWarmReset s := rfl
theorem exec_warmrstNRise : exec .warmrstNRise s = execWarmrstNRise s := rfl
theorem exec_por (flash : Flash) : exec (.por flash) s = execPor flash s := rfl
theorem exec_selftest (failed : List Nat) (d2d : Bool) : exec (.selftest failed d2d) s = execSelftest failed d2d s := rfl
theorem exec_train (hbm : BitVec 8) (lp : BitVec 24) : exec (.train hbm lp) s = execTrain hbm lp s := rfl
theorem exec_boot : exec .boot s = execBoot s := rfl
theorem exec_hold : exec .hold s = execHold s := rfl
theorem exec_trainPassComplete : exec .trainPassComplete s = execTrainPassComplete s := rfl
theorem exec_pePerstN (level : Bool) : exec (.pePerstN level) s = execPePerstN level s := rfl
theorem exec_ppsInEdge : exec .ppsInEdge s = execPpsInEdge s := rfl
theorem exec_ppsOutEdge : exec .ppsOutEdge s = execPpsOutEdge s := rfl
theorem exec_ppsLockTimeout : exec .ppsLockTimeout s = execPpsLockTimeout s := rfl
theorem exec_kflFlitReceive (port : BitVec 4) (flit : Flit) : exec (.kflFlitReceive port flit) s = execKflFlitReceive port flit s := rfl
theorem exec_linkAckTimer (port : BitVec 4) : exec (.linkAckTimer port) s = execLinkAckTimer port s := rfl
theorem exec_nakUnanswered (port : BitVec 4) : exec (.nakUnanswered port) s = execNakUnanswered port s := rfl
theorem exec_laneLockLoss (port : BitVec 4) (lane : BitVec 2) : exec (.laneLockLoss port lane) s = execLaneLockLoss port lane s := rfl
theorem exec_retrainComplete (port : BitVec 4) (good : BitVec 4) (expect : BitVec 12) (view : CreditView) : exec (.retrainComplete port good expect view) s = execRetrainComplete port good expect view s := rfl
theorem exec_retrainTimeout (port : BitVec 4) : exec (.retrainTimeout port) s = execRetrainTimeout port s := rfl
theorem exec_portTrainingComplete (port : BitVec 4) (good : BitVec 4) (peer : BitVec 17) (peerPort : BitVec 4) (peerDir : BitVec 3) : exec (.portTrainingComplete port good peer peerPort peerDir) s = execPortTrainingComplete port good peer peerPort peerDir s := rfl
theorem exec_portTrainingRetry (port : PortPeer) : exec (.portTrainingRetry port) s = execPortTrainingRetry port s := rfl
theorem exec_lightChange (port : BitVec 4) (on : Bool) : exec (.lightChange port on) s = execLightChange port on s := rfl
theorem exec_creditCheck (port : BitVec 4) (tx rx : CreditSide) : exec (.creditCheck port tx rx) s = execCreditCheck port tx rx s := rfl
theorem exec_timeExchange (port : BitVec 4) (peerRx peerTx : W64) (depth : BitVec 16) : exec (.timeExchange port peerRx peerTx depth) s = execTimeExchange port peerRx peerTx depth s := rfl
theorem exec_timeHoldover : exec .timeHoldover s = execTimeHoldover s := rfl
theorem exec_transitForward (port : BitVec 4) (item : Transit) : exec (.transitForward port item) s = execTransitForward port item s := rfl
theorem exec_remoteRead (r : RemIn) (len : Nat) (ecc : Ecc) : exec (.remoteRead r len ecc) s = execRemoteRead r len ecc s := rfl
theorem exec_remoteWrite (r : RemIn) (bytes : List Byte) : exec (.remoteWrite r bytes) s = execRemoteWrite r bytes s := rfl
theorem exec_remoteAmo (r : RemIn) (op : BitVec 4) (w32 : Bool) (opnd exp : W64) (ecc : Ecc) : exec (.remoteAmo r op w32 opnd exp ecc) s = execRemoteAmo r op w32 opnd exp ecc s := rfl
theorem exec_remoteMsg (r : RemIn) (dst : BitVec 10) (tag : BitVec 16) (time : W64) (words : List W32) : exec (.remoteMsg r dst tag time words) s = execRemoteMsg r dst tag time words s := rfl
theorem exec_remoteResponse (req : Nat) (ans : RemAns) : exec (.remoteResponse req ans) s = execRemoteResponse req ans s := rfl
theorem exec_fabRtoExpiry (req : Nat) : exec (.fabRtoExpiry req) s = execFabRtoExpiry req s := rfl
theorem exec_postPlacement (r : RemIn) (chan : BitVec 3) (tag : W32) (time : W64) (bytes : List Byte) : exec (.postPlacement r chan tag time bytes) s = execPostPlacement r chan tag time bytes s := rfl
theorem exec_postResend (core : BitVec 10) (ch : BitVec 3) : exec (.postResend core ch) s = execPostResend core ch s := rfl
theorem exec_fabricBarrierEvent (dev : BitVec 17) (group : BitVec 16) (kind : BarKind) (par : Bool) : exec (.fabricBarrierEvent dev group kind par) s = execFabricBarrierEvent dev group kind par s := rfl
theorem exec_flr (fn : BitVec 4) : exec (.flr fn) s = execFlr fn s := rfl
theorem exec_flrEnd (fn : BitVec 4) : exec (.flrEnd fn) s = execFlrEnd fn s := rfl
theorem exec_busMasterEnableChange (fn : BitVec 4) (on : PciControl) : exec (.busMasterEnableChange fn on) s = execBusMasterEnableChange fn on s := rfl
theorem exec_vfEnableChange (en : Bool) (num : BitVec 4) : exec (.vfEnableChange en num) s = execVfEnableChange en num s := rfl
theorem exec_barResize (log : BitVec 6) (mse : Bool) : exec (.barResize log mse) s = execBarResize log mse s := rfl
theorem exec_msixUnmask (fn : BitVec 4) (vec : BitVec 11) : exec (.msixUnmask fn vec) s = execMsixUnmask fn vec s := rfl
theorem exec_bar4Read (off : W64) (len : Nat) (ecc : Ecc) : exec (.bar4Read off len ecc) s = execBar4Read off len ecc s := rfl
theorem exec_bar4Write (off : W64) (bytes : List Byte) : exec (.bar4Write off bytes) s = execBar4Write off bytes s := rfl
theorem exec_sqTail (door : DoorWrite) (v : W32) : exec (.sqTail door v) s = execSqTail door v s := rfl
theorem exec_cqHead (door : DoorWrite) (v : W32) : exec (.cqHead door v) s = execCqHead door v s := rfl
theorem exec_ringEnable (ring : BitVec 9) (cq : Bool) (v : W64) : exec (.ringEnable ring cq v) s = execRingEnable ring cq v s := rfl
theorem exec_ringDisable (ring : BitVec 9) (cq : Bool) (v : W64) : exec (.ringDisable ring cq v) s = execRingDisable ring cq v s := rfl
theorem exec_hstWinbaseWrite (v : W64) : exec (.hstWinbaseWrite v) s = execHstWinbaseWrite v s := rfl
theorem exec_prtTtflush (part : BitVec 3) (v : W64) : exec (.prtTtflush part v) s = execPrtTtflush part v s := rfl
theorem exec_ttflushComplete (part : BitVec 3) : exec (.ttflushComplete part) s = execTtflushComplete part s := rfl
theorem exec_timSet (v : W64) : exec (.timSet v) s = execTimSet v s := rfl
theorem exec_errQforce (v : W64) : exec (.errQforce v) s = execErrQforce v s := rfl
theorem exec_errLogconsWrite (v : W64) : exec (.errLogconsWrite v) s = execErrLogconsWrite v s := rfl
theorem exec_trcCfgWrite (part : BitVec 3) (v : W64) : exec (.trcCfgWrite part v) s = execTrcCfgWrite part v s := rfl
theorem exec_trcConsWrite (part : BitVec 3) (v : W64) : exec (.trcConsWrite part v) s = execTrcConsWrite part v s := rfl
theorem exec_prtDlconsWrite (part : BitVec 3) (v : W64) : exec (.prtDlconsWrite part v) s = execPrtDlconsWrite part v s := rfl
theorem exec_refusePosWrite (n : BitVec 6) (v : W32) : exec (.refusePosWrite n v) s = execRefusePosWrite n v s := rfl
theorem exec_halfopReqWrite (half : Bool) (v : W64) : exec (.halfopReqWrite half v) s = execHalfopReqWrite half v s := rfl
theorem exec_halfopCapWrite (half : Bool) (v : W64) : exec (.halfopCapWrite half v) s = execHalfopCapWrite half v s := rfl
theorem exec_fabPctlRetrain (port : BitVec 4) (v : W64) : exec (.fabPctlRetrain port v) s = execFabPctlRetrain port v s := rfl
theorem exec_fabPctlDisable (port : BitVec 4) (v : W64) : exec (.fabPctlDisable port v) s = execFabPctlDisable port v s := rfl
theorem exec_postRingDisable (r : BitVec 6) (v : W64) : exec (.postRingDisable r v) s = execPostRingDisable r v s := rfl
theorem exec_errSuspClear (k : BitVec 4) (v : W64) : exec (.errSuspClear k v) s = execErrSuspClear k v s := rfl
theorem exec_registerWrite (fn : BitVec 4) (off : W32) (half : RegHalf) (v : W64) : exec (.registerWrite fn off half v) s = execRegisterWrite fn off half v s := rfl
theorem exec_slcStatRead (acc : RegHalf) : exec (.slcStatRead acc) s = execSlcStatRead acc s := rfl
theorem exec_slcCntRead (part : BitVec 3) (k : BitVec 3) (acc : RegHalf) : exec (.slcCntRead part k acc) s = execSlcCntRead part k acc s := rfl
theorem exec_prtWdogRead (page : PartPage) (acc : RegHalf) : exec (.prtWdogRead page acc) s = execPrtWdogRead page acc s := rfl
theorem exec_pwrHalfopRead (half : Bool) (acc : RegHalf) : exec (.pwrHalfopRead half acc) s = execPwrHalfopRead half acc s := rfl
theorem exec_hstFlrlostRead (acc : RegHalf) : exec (.hstFlrlostRead acc) s = execHstFlrlostRead acc s := rfl
theorem exec_scoreboardRead (core : BitVec 10) (acc : RegHalf) : exec (.scoreboardRead core acc) s = execScoreboardRead core acc s := rfl
theorem exec_fabPstatRead (port : BitVec 4) (acc : RegHalf) : exec (.fabPstatRead port acc) s = execFabPstatRead port acc s := rfl
theorem exec_fabPfecRead (port : BitVec 4) (acc : RegHalf) : exec (.fabPfecRead port acc) s = execFabPfecRead port acc s := rfl
theorem exec_fabPretryRead (port : BitVec 4) (acc : RegHalf) : exec (.fabPretryRead port acc) s = execFabPretryRead port acc s := rfl
theorem exec_fabRtoRead (acc : RegHalf) : exec (.fabRtoRead acc) s = execFabRtoRead acc s := rfl
theorem exec_timPpserrRead (acc : RegHalf) : exec (.timPpserrRead acc) s = execTimPpserrRead acc s := rfl
theorem exec_trcSnapstatRead (part : BitVec 3) (acc : RegHalf) : exec (.trcSnapstatRead part acc) s = execTrcSnapstatRead part acc s := rfl
theorem exec_errCntRead (k : BitVec 5) (acc : RegHalf) : exec (.errCntRead k acc) s = execErrCntRead k acc s := rfl
theorem exec_errLoglostRead (acc : RegHalf) : exec (.errLoglostRead acc) s = execErrLoglostRead acc s := rfl
theorem exec_pwrPowerRead (acc : RegHalf) : exec (.pwrPowerRead acc) s = execPwrPowerRead acc s := rfl
theorem exec_nopCmd (ring : BitVec 9) : exec (.nopCmd ring) s = execNopCmd ring s := rfl
theorem exec_queryDevice (ring : BitVec 9) (ecc : Ecc) : exec (.queryDevice ring ecc) s = execQueryDevice ring ecc s := rfl
theorem exec_queryPartition (ring : BitVec 9) (ecc : Ecc) : exec (.queryPartition ring ecc) s = execQueryPartition ring ecc s := rfl
theorem exec_queryBerth (ring : BitVec 9) (ecc : Ecc) : exec (.queryBerth ring ecc) s = execQueryBerth ring ecc s := rfl
theorem exec_queryIndex (ring : BitVec 9) (ecc : Ecc) : exec (.queryIndex ring ecc) s = execQueryIndex ring ecc s := rfl
theorem exec_fence (ring : BitVec 9) (ecc : Ecc) : exec (.fence ring ecc) s = execFence ring ecc s := rfl
theorem exec_stageConfig (ring : BitVec 9) (ecc : Ecc) (head : List Byte) (ok : Bool) : exec (.stageConfig ring ecc head ok) s = execStageConfig ring ecc head ok s := rfl
theorem exec_commitConfig (ring : BitVec 9) (ecc : Ecc) : exec (.commitConfig ring ecc) s = execCommitConfig ring ecc s := rfl
theorem exec_commitConfigDevice (ring : BitVec 9) (ecc : Ecc) : exec (.commitConfigDevice ring ecc) s = execCommitConfigDevice ring ecc s := rfl
theorem exec_commitTakesEffect (target : BitVec 3) : exec (.commitTakesEffect target) s = execCommitTakesEffect target s := rfl
theorem exec_openBerth (ring : BitVec 9) (ecc : Ecc) : exec (.openBerth ring ecc) s = execOpenBerth ring ecc s := rfl
theorem exec_submit (ecc : Ecc) : exec (.submit ecc) s = execSubmit ecc s := rfl
theorem exec_cancel (ring : BitVec 9) (ecc : Ecc) : exec (.cancel ring ecc) s = execCancel ring ecc s := rfl
theorem exec_closeBerth (ring : BitVec 9) (ecc : Ecc) : exec (.closeBerth ring ecc) s = execCloseBerth ring ecc s := rfl
theorem exec_moor (ring : BitVec 9) (ecc : Ecc) : exec (.moor ring ecc) s = execMoor ring ecc s := rfl
theorem exec_unmoor (ring : BitVec 9) (ecc : Ecc) : exec (.unmoor ring ecc) s = execUnmoor ring ecc s := rfl
theorem exec_copyIn (ring : BitVec 9) (ecc : Ecc) : exec (.copyIn ring ecc) s = execCopyIn ring ecc s := rfl
theorem exec_copyOut (ring : BitVec 9) (ecc : Ecc) : exec (.copyOut ring ecc) s = execCopyOut ring ecc s := rfl
theorem exec_fill (ring : BitVec 9) (ecc : Ecc) : exec (.fill ring ecc) s = execFill ring ecc s := rfl
theorem exec_signal (ring : BitVec 9) : exec (.signal ring) s = execSignal ring s := rfl
theorem exec_traceControlSetRing (ring : BitVec 9) (ecc : Ecc) : exec (.traceControlSetRing ring ecc) s = execTraceControlSetRing ring ecc s := rfl
theorem exec_traceControlSetCfg (ring : BitVec 9) (ecc : Ecc) : exec (.traceControlSetCfg ring ecc) s = execTraceControlSetCfg ring ecc s := rfl
theorem exec_traceControlSetCons (ring : BitVec 9) (ecc : Ecc) : exec (.traceControlSetCons ring ecc) s = execTraceControlSetCons ring ecc s := rfl
theorem exec_traceControlSetSnapbase (ring : BitVec 9) (ecc : Ecc) : exec (.traceControlSetSnapbase ring ecc) s = execTraceControlSetSnapbase ring ecc s := rfl
theorem exec_traceControlRead (ring : BitVec 9) (ecc : Ecc) : exec (.traceControlRead ring ecc) s = execTraceControlRead ring ecc s := rfl
theorem exec_counterSnapshotLatest (ring : BitVec 9) (ecc : Ecc) : exec (.counterSnapshotLatest ring ecc) s = execCounterSnapshotLatest ring ecc s := rfl
theorem exec_counterSnapshotNow (ring : BitVec 9) (ecc : Ecc) : exec (.counterSnapshotNow ring ecc) s = execCounterSnapshotNow ring ecc s := rfl
theorem exec_resetPartition (ring : BitVec 9) (ecc : Ecc) : exec (.resetPartition ring ecc) s = execResetPartition ring ecc s := rfl
theorem exec_holdPartitionHold (ring : BitVec 9) (ecc : Ecc) : exec (.holdPartitionHold ring ecc) s = execHoldPartitionHold ring ecc s := rfl
theorem exec_holdPartitionRelease (ring : BitVec 9) (ecc : Ecc) : exec (.holdPartitionRelease ring ecc) s = execHoldPartitionRelease ring ecc s := rfl
theorem exec_setOperatingPoint (ring : BitVec 9) (ecc : Ecc) : exec (.setOperatingPoint ring ecc) s = execSetOperatingPoint ring ecc s := rfl
theorem exec_fabricControlPort (ring : BitVec 9) (ecc : Ecc) : exec (.fabricControlPort ring ecc) s = execFabricControlPort ring ecc s := rfl
theorem exec_fabricControlTorus (ring : BitVec 9) (ecc : Ecc) : exec (.fabricControlTorus ring ecc) s = execFabricControlTorus ring ecc s := rfl
theorem exec_fabricControlExport (ring : BitVec 9) (ecc : Ecc) : exec (.fabricControlExport ring ecc) s = execFabricControlExport ring ecc s := rfl
theorem exec_fabricControlPostRing (ring : BitVec 9) (ecc : Ecc) : exec (.fabricControlPostRing ring ecc) s = execFabricControlPostRing ring ecc s := rfl
theorem exec_fabricControlBarrier (ring : BitVec 9) (ecc : Ecc) : exec (.fabricControlBarrier ring ecc) s = execFabricControlBarrier ring ecc s := rfl
theorem exec_fabricControlTime (ring : BitVec 9) (ecc : Ecc) : exec (.fabricControlTime ring ecc) s = execFabricControlTime ring ecc s := rfl
theorem exec_fabricControlReadPort (ring : BitVec 9) (ecc : Ecc) : exec (.fabricControlReadPort ring ecc) s = execFabricControlReadPort ring ecc s := rfl
theorem exec_hsigCompletionPost (part : BitVec 3) : exec (.hsigCompletionPost part) s = execHsigCompletionPost part s := rfl
theorem exec_smbusBlockRead : exec .smbusBlockRead s = execSmbusBlockRead s := rfl
theorem exec_setEndpointId (m : SetEid) : exec (.setEndpointId m) s = execSetEndpointId m s := rfl
theorem exec_mctpRead (m : MctpReq) : exec (.mctpRead m) s = execMctpRead m s := rfl
theorem exec_mctpWrite (m : MctpReq) (v : W64) : exec (.mctpWrite m v) s = execMctpWrite m v s := rfl
theorem exec_mctpSensors : exec .mctpSensors s = execMctpSensors s := rfl
theorem exec_bypass : exec .bypass s = execBypass s := rfl
theorem exec_idcode : exec .idcode s = execIdcode s := rfl
theorem exec_samplePreload (scan : Scan) : exec (.samplePreload scan) s = execSamplePreload scan s := rfl
theorem exec_extest (scan : Scan) : exec (.extest scan) s = execExtest scan s := rfl
theorem exec_clamp : exec .clamp s = execClamp s := rfl
theorem exec_highz : exec .highz s = execHighz s := rfl
theorem exec_lockstepMismatch (e : CpError) : exec (.lockstepMismatch e) s = execLockstepMismatch e s := rfl
theorem exec_hbmStackFailure (stack : BitVec 3) : exec (.hbmStackFailure stack) s = execHbmStackFailure stack s := rfl
theorem exec_tier2PortLinkFailure (port : BitVec 5) : exec (.tier2PortLinkFailure port) s = execTier2PortLinkFailure port s := rfl
theorem exec_d2dFlitCrcError : exec .d2dFlitCrcError s = execD2dFlitCrcError s := rfl
theorem exec_d2dRetrainTimeout : exec .d2dRetrainTimeout s = execD2dRetrainTimeout s := rfl
theorem exec_vddAuxLoss (mv : BitVec 12) : exec (.vddAuxLoss mv) s = execVddAuxLoss mv s := rfl
theorem exec_pcieLinkStateChange (speed : BitVec 4) (width : BitVec 5) (flit up : Bool) : exec (.pcieLinkStateChange speed width flit up) s = execPcieLinkStateChange speed width flit up s := rfl
theorem exec_copyComplete (ring : BitVec 9) (bytes : List Byte) (ok : Bool) : exec (.copyComplete ring bytes ok) s = execCopyComplete ring bytes ok s := rfl

end Sys2Proof.Machine
end

