-- ==== Sys2Proof/Laws/Fields.lean ====
section
/-!
SUPPORT. Reading a bit field after writing one.
-/
namespace Sys2Proof.Machine

/-- The bits of a word after a field of it is written. -/
theorem getLsbD_setFld {n : Nat} (v : BitVec n) (lo w x i : Nat) :
    (setFld v lo w x).getLsbD i =
      if lo ≤ i ∧ i < lo + w ∧ i < n then x.testBit (i - lo) else v.getLsbD i := by
  unfold setFld
  rw [BitVec.getLsbD_or, BitVec.getLsbD_and, BitVec.getLsbD_not, BitVec.getLsbD_ofNat, BitVec.getLsbD_ofNat,
    Nat.testBit_shiftLeft, Nat.testBit_shiftLeft, Nat.testBit_two_pow_sub_one, Nat.testBit_mod_two_pow]
  by_cases h1 : i < n
  · by_cases h2 : lo ≤ i
    · by_cases h3 : i - lo < w
      · have : i < lo + w := by omega
        simp [*]
      · have : ¬ i < lo + w := by omega
        simp [*]
    · simp [h1, h2]
  · have := BitVec.getLsbD_of_ge v i (by omega)
    simp [*]

theorem getLsbD_setBit {n : Nat} (v : BitVec n) (j : Nat) (b : Bool) (i : Nat) :
    (setBit v j b).getLsbD i = if i = j ∧ i < n then b else v.getLsbD i := by
  unfold setBit
  rw [getLsbD_setFld]
  by_cases h : i = j
  · subst h; by_cases hi : i < n
    · cases b <;> simp [hi]
    · simp [hi]
  · have : ¬ (j ≤ i ∧ i < j + 1 ∧ i < n) := by omega
    rw [if_neg this, if_neg (fun e => h e.1)]

/-- The bits of a field. -/
theorem testBit_fld {n : Nat} (v : BitVec n) (lo w i : Nat) :
    (fld v lo w).testBit i = (decide (i < w) && v.getLsbD (lo + i)) := by
  unfold fld
  rw [Nat.testBit_mod_two_pow, Nat.testBit_shiftRight, BitVec.getLsbD]

theorem fld_lt {n : Nat} (v : BitVec n) (lo w : Nat) : fld v lo w < 2 ^ w := Nat.mod_lt _ (Nat.two_pow_pos w)

/-- A field reads as what was written to it. -/
theorem fld_setFld {n : Nat} (v : BitVec n) (lo w x : Nat) (h : lo + w ≤ n) : fld (setFld v lo w x) lo w = x % 2 ^ w := by
  apply Nat.eq_of_testBit_eq
  intro i
  rw [testBit_fld, Nat.testBit_mod_two_pow, getLsbD_setFld]
  by_cases hi : i < w
  · have : lo ≤ lo + i ∧ lo + i < lo + w ∧ lo + i < n := by omega
    simp [hi, this]
  · simp [hi]

/-- A field disjoint from the one written keeps its value. -/
theorem fld_setFld_ne {n : Nat} (v : BitVec n) (lo w x lo' w' : Nat) (h : lo + w ≤ lo' ∨ lo' + w' ≤ lo) :
    fld (setFld v lo w x) lo' w' = fld v lo' w' := by
  apply Nat.eq_of_testBit_eq
  intro i
  rw [testBit_fld, testBit_fld, getLsbD_setFld]
  by_cases hi : i < w'
  · have : ¬ (lo ≤ lo' + i ∧ lo' + i < lo + w ∧ lo' + i < n) := by omega
    simp [hi, this]
  · simp [hi]

section
variable (s : State)

theorem State.rfld_setRfld (off lo w x : Nat) (h : lo + w ≤ 64) : (s.setRfld off lo w x).rfld off lo w = x % 2 ^ w := by
  rw [State.rfld, State.reg_setRfld, fld_setFld _ _ _ _ h]

theorem State.rfld_setRfld_ne (off lo w x lo' w' : Nat) (h : lo + w ≤ lo' ∨ lo' + w' ≤ lo) :
    (s.setRfld off lo w x).rfld off lo' w' = s.rfld off lo' w' := by
  rw [State.rfld, State.reg_setRfld, fld_setFld_ne _ _ _ _ _ _ h]; rfl

theorem State.rfld_setRfld_off (off lo w x lo' w' : Nat) {o : Nat} (h : o ≠ off) :
    (s.setRfld off lo w x).rfld o lo' w' = s.rfld o lo' w' := by
  rw [State.rfld, State.reg_setRfld_ne _ _ _ _ h]; rfl

/-! Threads and their control words -/

theorem tix_inj {t u : BitVec 2} (h : tix t = tix u) : t = u := by
  have : t.toNat = u.toNat := congrArg Fin.val h
  exact BitVec.eq_of_toNat_eq this

theorem State.core_modThread_ne {c d : Nat} (t : BitVec 2) (f : Thread → Thread) (h : d ≠ c) :
    (s.modThread c t f).core d = s.core d := State.core_setCore_ne s _ h

@[simp] theorem State.ctl_setCtl (c : Nat) (t : BitVec 2) (x : ThrCtl) : (s.setCtl c t x).ctl c t = x := by
  simp [State.setCtl, State.ctl]

@[simp] theorem State.thread_setCtl (c : Nat) (t : BitVec 2) (x : ThrCtl) (u : BitVec 2) :
    (s.setCtl c t x).thread c u = s.thread c u := by
  simp [State.setCtl, State.thread]

@[simp] theorem State.ctl_modThread (c : Nat) (t : BitVec 2) (f : Thread → Thread) (u : BitVec 2) :
    (s.modThread c t f).ctl c u = s.ctl c u := by
  simp [State.modThread, State.setThread, State.ctl, Core.setThr]

theorem State.setPenn_thread (c i d : Nat) (t : BitVec 2) : (s.setPenn c i).thread d t = s.thread d t := by
  unfold State.setPenn
  split
  · by_cases h : d = c
    · subst h; simp [State.thread]
    · simp [State.thread, State.modCore, State.core_setCore_ne _ _ h]
  · rfl

theorem State.setPenn_ctl (c i d : Nat) (t : BitVec 2) : (s.setPenn c i).ctl d t = s.ctl d t := by
  unfold State.setPenn
  split
  · by_cases h : d = c
    · subst h; simp [State.ctl]
    · simp [State.ctl, State.modCore, State.core_setCore_ne _ _ h]
  · rfl

end

/-- A register set reads back. -/
theorem Thread.getG_setG (y : Thread) (r : BitVec 5) (v : W64) (k : BitVec 5) :
    (y.setG r v).getG k = if k = r ∧ k ≠ 0 then v else y.getG k := by
  unfold Thread.setG Thread.getG
  by_cases h0 : r = 0
  · simp only [if_pos h0]; by_cases hk : k = r
    · simp [hk, h0]
    · simp [hk]
  · by_cases hk : k = r
    · subst hk; simp only [if_neg h0, rget_rset_same]; rw [if_pos ⟨trivial, h0⟩]
    · have : rix k ≠ rix r := fun e => hk (BitVec.eq_of_toNat_eq (congrArg Fin.val e))
      simp only [if_neg h0, hk, false_and, if_false, rget_rset_ne _ _ this]

end Sys2Proof.Machine
end

