-- ==== Sys2Proof/Laws/Memory.lean ====
section
/-!
SUPPORT. Reading memory after writing it, and the canonical form that every write keeps.
-/
namespace Sys2Proof.Machine

theorem AMap.get_filter_ne {α : Type} (d : α) (m : AMap α) {a k : Nat} (h : k ≠ a) :
    AMap.get d (m.filter (fun c => c.1 != a)) k = AMap.get d m k := by
  induction m with
  | nil => rfl
  | cons p m ih =>
    obtain ⟨j, u⟩ := p
    by_cases hj : j = a
    · subst hj
      have : ¬ j = k := fun e => h e.symm
      simp [AMap.get, ih, this]
    · by_cases hk : j = k
      · subst hk; simp [AMap.get, hj]
      · simp [AMap.get, ih, hk, hj]

theorem AMap.get_filter_same {α : Type} (d : α) (m : AMap α) (a : Nat) :
    AMap.get d (m.filter (fun c => c.1 != a)) a = d := by
  induction m with
  | nil => rfl
  | cons p m ih =>
    obtain ⟨j, u⟩ := p
    by_cases hj : j = a
    · subst hj; simp [ih]
    · simp [AMap.get, ih, hj]

/-- A byte written reads back, and every other byte is as it was. -/
theorem Memory.read_write (m : List Host.Cell) (a : Nat) (b : Byte) (k : Nat) :
    Memory.read (Memory.write m a b) k = if k = a then b else Memory.read m k := by
  unfold Memory.write Memory.read
  by_cases hb : b = Memory.unlisted
  · simp only [hb, if_true]
    by_cases hk : k = a
    · subst hk; simp only [if_true]; exact AMap.get_filter_same ..
    · simp only [hk, if_false]; exact AMap.get_filter_ne _ _ hk
  · simp only [hb, if_false]
    by_cases hk : k = a
    · subst hk; simp only [if_true]; exact AMap.get_put_same ..
    · simp only [hk, if_false]
      rw [AMap.get_put_ne _ _ _ hk]
      exact AMap.get_filter_ne _ _ hk

/-- Bytes written read back in order, and every byte outside is as it was. -/
theorem Memory.read_writeBytes (m : List Host.Cell) (a : Nat) (bs : List Byte) (k : Nat) :
    Memory.read (Memory.writeBytes m a bs) k =
      if h : a ≤ k ∧ k < a + bs.length then bs[k - a]'(by omega) else Memory.read m k := by
  induction bs generalizing m a with
  | nil => simp [Memory.writeBytes]
  | cons b bs ih =>
    simp only [Memory.writeBytes, ih, Memory.read_write, List.length_cons]
    by_cases h1 : k = a
    · subst h1
      have h2 : ¬ (k + 1 ≤ k ∧ k < k + 1 + bs.length) := by omega
      have h3 : k ≤ k ∧ k < k + (bs.length + 1) := by omega
      simp [h3]
    · by_cases h2 : a + 1 ≤ k ∧ k < a + 1 + bs.length
      · have h3 : a ≤ k ∧ k < a + (bs.length + 1) := by omega
        rw [dif_pos h2, dif_pos h3]
        have : k - a = k - (a + 1) + 1 := by omega
        simp [this]
      · have h3 : ¬ (a ≤ k ∧ k < a + (bs.length + 1)) := by omega
        rw [dif_neg h2, dif_neg h3, if_neg h1]

theorem AMap.put_mem {α : Type} {m : AMap α} {k : Nat} {v : α} {p : Nat × α} (h : p ∈ AMap.put m k v) :
    p = (k, v) ∨ p ∈ m := by
  induction m with
  | nil => simpa [AMap.put] using h
  | cons q m ih =>
    obtain ⟨j, u⟩ := q
    simp only [AMap.put] at h
    split at h
    · rcases List.mem_cons.1 h with h | h
      · exact .inl h
      · exact .inr (List.mem_cons_of_mem _ h)
    · split at h
      · rcases List.mem_cons.1 h with h | h
        · exact .inl h
        · exact .inr h
      · rcases List.mem_cons.1 h with h | h
        · exact .inr (h ▸ List.mem_cons_self ..)
        · rcases ih h with h | h
          · exact .inl h
          · exact .inr (List.mem_cons_of_mem _ h)

theorem AMap.put_sorted {α : Type} (m : AMap α) (k : Nat) (v : α) (h : m.Pairwise (fun c d => c.1 < d.1)) :
    (AMap.put m k v).Pairwise (fun c d => c.1 < d.1) := by
  induction m with
  | nil => simp [AMap.put]
  | cons q m ih =>
    obtain ⟨j, u⟩ := q
    obtain ⟨h1, h2⟩ := List.pairwise_cons.1 h
    simp only [AMap.put]
    split
    · rename_i e; subst e
      exact List.pairwise_cons.2 ⟨h1, h2⟩
    · split
      · rename_i hl
        refine List.pairwise_cons.2 ⟨fun p hp => ?_, h⟩
        rcases List.mem_cons.1 hp with rfl | hp
        · exact hl
        · exact Nat.lt_trans hl (h1 p hp)
      · refine List.pairwise_cons.2 ⟨fun p hp => ?_, ih h2⟩
        rcases AMap.put_mem hp with rfl | hp
        · simp only; omega
        · exact h1 p hp

/-- A write keeps the canonical form. -/
theorem Memory.wf_write {m : List Host.Cell} (h : Memory.wf m) (a : Nat) (b : Byte) : Memory.wf (Memory.write m a b) := by
  unfold Memory.write
  have hf : Memory.wf (m.filter (fun c => c.1 != a)) :=
    ⟨h.1.filter _, fun c hc => h.2 c (List.mem_filter.1 hc).1⟩
  by_cases hb : b = Memory.unlisted
  · simp only [hb, if_true]; exact hf
  · simp only [hb, if_false]
    refine ⟨AMap.put_sorted _ _ _ hf.1, fun c hc => ?_⟩
    rcases AMap.put_mem hc with rfl | hc
    · exact hb
    · exact hf.2 c hc

theorem Memory.wf_writeBytes {m : List Host.Cell} (h : Memory.wf m) (a : Nat) (bs : List Byte) :
    Memory.wf (Memory.writeBytes m a bs) := by
  induction bs generalizing m a with
  | nil => exact h
  | cons b bs ih => exact ih (Memory.wf_write h a b) (a + 1)

/-- Reading bytes has the length asked for. -/
@[simp] theorem Memory.length_readBytes (m : List Host.Cell) (a n : Nat) : (Memory.readBytes m a n).length = n := by
  induction n generalizing a with
  | zero => rfl
  | succ n ih => simp [Memory.readBytes, ih]

theorem Memory.wf_reset : Memory.wf State.reset.mem := ⟨List.Pairwise.nil, fun _ h => nomatch h⟩

/-- A write at a home keeps the canonical form. -/
theorem State.homeWrite_wf {s : State} (h : Memory.wf s.mem) (pa : Nat) (bs : List Byte) :
    Memory.wf (s.homeWrite pa bs).mem := by
  unfold State.homeWrite
  split
  · exact Memory.wf_writeBytes h pa bs
  · exact h

end Sys2Proof.Machine
end

