-- ==== Sys2Proof/Laws/Report.lean ====
section
/-!
SUPPORT. What counting, logging and tracing leave alone.
-/
namespace Sys2Proof.Machine

section
variable (s : State)

theorem State.apart_core {s t : State} (h : t.apart = s.apart) (c : Nat) : t.core c = s.core c := by
  have : t.cores = s.cores := by show t.apart.cores = s.apart.cores; rw [h]
  simp [State.core, this]

theorem State.apart_mem {s t : State} (h : t.apart = s.apart) : t.mem = s.mem := by
  show t.apart.mem = s.apart.mem; rw [h]

@[simp] theorem State.setReg_apart (off : Nat) (v : W64) : (s.setReg off v).apart = s.apart := rfl
@[simp] theorem State.setRfld_apart (off lo w x : Nat) : (s.setRfld off lo w x).apart = s.apart := rfl
@[simp] theorem State.setPart_apart (n : Nat) (p : Part) : (s.setPart n p).apart = s.apart := rfl
@[simp] theorem State.modPart_apart (n : Nat) (f : Part → Part) : (s.modPart n f).apart = s.apart := rfl

@[simp] theorem State.satInc_apart (off lo w : Nat) : (s.satInc off lo w).apart = s.apart := by
  unfold State.satInc; split <;> rfl

@[simp] theorem State.countErr_apart (src : Nat) (unc : Bool) : (s.countErr src unc).apart = s.apart := by
  simp [State.countErr]

@[simp] theorem State.msix_apart (fn vec : Nat) : (s.msix fn vec).apart = s.apart := by
  unfold State.msix; simp only []; split <;> rfl

@[simp] theorem State.breakCond_apart (n c : Nat) : (s.breakCond n c).apart = s.apart := rfl
@[simp] theorem State.traceTo_apart (n : Nat) (r : BitVec 256) : (s.traceTo n r).apart = s.apart := rfl
@[simp] theorem State.traceLose_apart (n : Nat) : (s.traceLose n).apart = s.apart := rfl

theorem State.foldTrace_apart (l : List Nat) (r : BitVec 256) :
    (l.foldl (fun s n => s.traceTo n r) s).apart = s.apart := by
  induction l generalizing s with
  | nil => rfl
  | cons n l ih => simp only [List.foldl_cons, ih]; rfl

@[simp] theorem State.traceUnitAt_apart (time : W64) (u : Nat) (rings : List Nat) (ty p : Nat) :
    (s.traceUnitAt time u rings ty p).apart = s.apart := by
  unfold State.traceUnitAt
  simp only []
  split
  · rfl
  · rw [State.foldTrace_apart]; rfl

@[simp] theorem State.traceUnit_apart (u : Nat) (rings : List Nat) (ty p : Nat) :
    (s.traceUnit u rings ty p).apart = s.apart := by simp [State.traceUnit]

@[simp] theorem State.errLog_apart (e : LogEntry) : (s.errLog e).apart = s.apart := by
  unfold State.errLog
  simp only [State.traceUnit_apart]
  split
  · split <;> simp
  · simp

/-- A core's record changes, of the core, its sequence number and its count of records only. -/
theorem State.traceCore_apart (c thr ty p : Nat) :
    (s.traceCore c thr ty p).apart = s.apart ∨
      (s.traceCore c thr ty p).apart =
        (s.setCore c { s.core c with seqno := (s.core c).seqno + 1, traced := (s.core c).traced + 1 }).apart := by
  unfold State.traceCore
  split
  · exact .inl rfl
  · split
    · right; simp only []; split <;> rfl
    · exact .inl rfl

end

end Sys2Proof.Machine
end

