-- ==== Sys2Proof/Laws/Vector.lean ====
section
/-!
SUPPORT. How vector instructions end where they start, and what lane-wise operations leave in each lane.
-/
namespace Sys2Proof.Machine

variable {s s1 s2 : State} {x : Iss} {i : Info}

theorem State.starts_vectorBound {b : Option (BitVec 5 × Bool)} (h : s.starts x b = some s1) :
    (s1.core x.core.toNat).vectorBound x.thr = (s.core x.core.toNat).vectorBound x.thr := by
  simp [Core.vectorBound, (State.starts_engines h).2.2.1]

theorem State.starts_matrixBound {b : Option (BitVec 5 × Bool)} (h : s.starts x b = some s1) :
    (s1.core x.core.toNat).matrixBound x.thr = (s.core x.core.toNat).matrixBound x.thr := by
  simp [Core.matrixBound, (State.starts_engines h).2.2.1]

/-- Nothing of the core is in its scoreboard or its engines. -/
structure State.EnginesIdle (s : State) (c : Nat) : Prop where
  accs : (s.core c).mem.accs = []
  mq : (s.core c).mx.queue = []
  vq : (s.core c).vx.queue = []
  vd : (s.core c).vx.done = []

theorem State.Quiet.idle {c : Nat} {t : BitVec 2} (q : s.Quiet c t) : s.EnginesIdle c := ⟨q.accs, q.queue, q.vq, q.vd⟩

/-- With nothing there, bringing the engines forward changes nothing. -/
theorem State.EnginesIdle.soft {c : Nat} (h : s.EnginesIdle c) (t : BitVec 2) : s.soft c t = .ok s := by
  simp [State.soft, Core.forcible, h.accs, State.forceList, State.matrixRun_idle s c t h.mq h.vq 23, State.vecRetire_idle s c h.vd]

/-- With nothing there, a vector instruction that has run retires at once, and sets pennant 20 (R98, R153). -/
theorem State.EnginesIdle.vecEnd {c : Nat} (h : s.EnginesIdle c) (t : BitVec 2) (n : Nat) (old : VecEng) :
    s.vecEnd c t n old none = s.vecDone c := by
  simp [State.vecEnd, Core.unsettled, h.accs, h.mq, h.vq, h.vd]

/-- A change of a thread leaves the engines idle; so does a change of the core that leaves them alone. -/
theorem State.EnginesIdle.modThread {c : Nat} (h : s.EnginesIdle c) (t : BitVec 2) (f : Thread → Thread) :
    (s.modThread c t f).EnginesIdle c := by
  constructor <;> simp [State.modThread, State.setThread, Core.setThr, h.accs, h.mq, h.vq, h.vd]

theorem State.EnginesIdle.modCore {c : Nat} (h : s.EnginesIdle c) (f : Core → Core)
    (h1 : (f (s.core c)).mem.accs = (s.core c).mem.accs) (h2 : (f (s.core c)).mx.queue = (s.core c).mx.queue)
    (h3 : (f (s.core c)).vx.queue = (s.core c).vx.queue) (h4 : (f (s.core c)).vx.done = (s.core c).vx.done) :
    (s.modCore c f).EnginesIdle c := by
  constructor
  · simp [h1, h.accs]
  · simp [h2, h.mq]
  · simp [h3, h.vq]
  · simp [h4, h.vd]

theorem State.EnginesIdle.setV {c : Nat} (h : s.EnginesIdle c) (r : BitVec 5) (v : VReg) : (s.setV c r v).EnginesIdle c :=
  h.modCore _ rfl rfl rfl rfl

theorem State.EnginesIdle.putVRes {c : Nat} (h : s.EnginesIdle c) (t : BitVec 2) (vd : BitVec 5) (r : VRes) :
    (s.putVRes c t vd r).EnginesIdle c := (h.setV ..).modThread ..

theorem State.EnginesIdle.putGroup {c : Nat} (h : s.EnginesIdle c) (vd : BitVec 5) (l : List VReg) :
    (s.putGroup c vd l).EnginesIdle c := by
  induction l generalizing s vd with
  | nil => exact h
  | cons v vs ih => exact ih (h.setV ..) _

/-- No vector instruction's own effect puts anything there. -/
theorem State.EnginesIdle.vecFn {c : Nat} (h : s.EnginesIdle c) (t : BitVec 2) (q : VKind) : (s.vecFn c t q).EnginesIdle c := by
  cases q with
  | arith op o => exact h.putVRes ..
  | cmp o => exact h.setV ..
  | bit op o => exact h.setV ..
  | perm o => exact h.setV ..
  | red op o => exact h.putVRes ..
  | sf op o => exact h.putVRes ..
  | narrow o =>
    unfold State.vecFn State.runNarrow
    simp only []
    split
    · exact (h.setV ..).putVRes ..
    · exact h.putVRes ..
  | widen o =>
    unfold State.vecFn State.runWiden
    exact (h.putGroup ..).modThread ..
  | bcast vd x => exact h.setV ..
  | movt v o =>
    unfold State.vecFn
    cases v
    · refine h.modCore _ rfl ?_ rfl rfl
      simp only [Matrix.putGroup]
      split
      · rfl
      · split <;> rfl
    · exact h.modCore _ rfl rfl rfl rfl
  | vld => exact h
  | vst => exact h

/-- An instruction of an engine that the thread is not bound to, on no lines. -/
theorem State.unbound_nil (s : State) (c : Nat) (t : BitVec 2) (v : W64) (need : Need) :
    s.unbound c t v need [] = .trap s { code := excAccess, stval := v } := by
  unfold State.unbound State.resolveLines
  rfl

section
variable {need : Need} {lines : State → List RowLine} {now : State → List RowLine → Res} {later : State → Res}

/-- A vector instruction of a bound thread whose effect is complete (R153, R401). -/
theorem State.vectorMem_done (h : s.starts x i.base = some s1) (hl : i.legal = true) (hp : i.priv = false)
    (hv : (s.core x.core.toNat).vectorBound x.thr = true) (hf : now s1 (lines s1) = .done s2)
    (hi : s2.EnginesIdle x.core.toNat) :
    s.vectorMem x i need lines now later = .next ((s2.vecDone x.core.toNat).after x id) := by
  unfold State.vectorMem
  refine State.issue_done (s1 := s1) (i := i) h hl (fun h => by rw [hp] at h; cases h) ?_
  simp only [State.starts_vectorBound h, hv, if_true, (State.starts_quiet h).idle.soft, (State.starts_quiet h).vq,
    List.isEmpty_nil, hf, vecRes, hi.vecEnd]

/-- One that waits. -/
theorem State.vectorMem_wait (h : s.starts x i.base = some s1) (hl : i.legal = true) (hp : i.priv = false)
    (hv : (s.core x.core.toNat).vectorBound x.thr = true) (hf : now s1 (lines s1) = .wait s2) :
    s.vectorMem x i need lines now later = .next s2 := by
  unfold State.vectorMem
  refine State.issue_wait (s1 := s1) (i := i) h hl (fun h => by rw [hp] at h; cases h) ?_
  simp only [State.starts_vectorBound h, hv, if_true, (State.starts_quiet h).idle.soft, (State.starts_quiet h).vq,
    List.isEmpty_nil, hf, vecRes]

/-- One that raises an exception with nothing changed. -/
theorem State.vectorMem_trap (h : s.starts x i.base = some s1) (hl : i.legal = true) (hp : i.priv = false)
    (hv : (s.core x.core.toNat).vectorBound x.thr = true) {e : Exc} (hf : now s1 (lines s1) = .trap s1 e) :
    s.vectorMem x i need lines now later = .next (s1.enterExc x.core.toNat x.thr e) := by
  unfold State.vectorMem
  refine State.issue_trap (s1 := s1) (i := i) h hl (fun h => by rw [hp] at h; cases h) ?_ (State.starts_quiet h)
  simp only [State.starts_vectorBound h, hv, if_true, (State.starts_quiet h).idle.soft, (State.starts_quiet h).vq,
    List.isEmpty_nil, hf, vecRes]

/-- One of a thread that is not bound, on no lines (R83). -/
theorem State.vectorMem_unbound (h : s.starts x i.base = some s1) (hl : i.legal = true) (hp : i.priv = false)
    (hv : (s.core x.core.toNat).vectorBound x.thr = false) (hn : lines s1 = []) :
    s.vectorMem x i need lines now later = .next (s1.enterExc x.core.toNat x.thr { code := excAccess, stval := 57 }) := by
  unfold State.vectorMem
  refine State.issue_trap (s1 := s1) (s2 := s1) (i := i) (e := { code := excAccess, stval := 57 }) h hl
    (fun h => by rw [hp] at h; cases h) ?_ (State.starts_quiet h)
  have e := s1.unbound_nil x.core.toNat x.thr 57 need
  simp only [State.starts_vectorBound h, hv, hn, Bool.false_eq_true, if_false, e]

/-- A lane-wise instruction where it starts, of a thread that is bound: its effect, counted, with pennant 20 (R153, R401). -/
theorem State.vectorOp_done {q : State → VKind} (h : s.starts x i.base = some s1) (hl : i.legal = true) (hp : i.priv = false)
    (hv : (s.core x.core.toNat).vectorBound x.thr = true) :
    s.vectorOp x i none q = .next (((s1.vecFn x.core.toNat x.thr (q s1)).vecDone x.core.toNat).after x id) := by
  unfold State.vectorOp
  refine State.vectorMem_done (s2 := s1.vecFn x.core.toNat x.thr (q s1)) h hl hp hv ?_ ((State.starts_quiet h).idle.vecFn ..)
  rfl

end

/-! ### Lanes -/

theorem lane_setLane (v : VReg) (i : Nat) (y : W32) (j : Nat) (hi : i < 64) :
    lane (setLane v i y) j = if j = i then y else lane v j := by
  unfold lane setLane
  by_cases h : j = i
  · subst h
    rw [fld_setFld _ _ _ _ (by omega)]
    simp [Nat.mod_eq_of_lt y.isLt]
  · rw [fld_setFld_ne _ _ _ _ _ _ (by omega), if_neg h]

theorem srAfter_succ (n : Nat) (r : W32) : srAfter (n + 1) r = srAdvance (srAfter n r) := by
  induction n generalizing r with
  | zero => rfl
  | succ n ih => rw [srAfter, ih]; rfl

/-- A lane-wise operation over lanes `lo` to `lo + n - 1`. -/
theorem laneLoop_range (draw : Bool) (f : Nat → W32 → W32 × Flags) (n lo : Nat) (v : VReg) (seed : W32) (fl : Flags)
    (h : lo + n ≤ 64) :
    (∀ j, lane (laneLoop draw f (List.range' lo n) (v, seed, fl)).1 j = if lo ≤ j ∧ j < lo + n then
      (f j (if draw then srAfter (j - lo + 1) seed else seed)).1 else lane v j) ∧
    (laneLoop draw f (List.range' lo n) (v, seed, fl)).2.1 = if draw then srAfter n seed else seed := by
  induction n generalizing lo v seed fl with
  | zero => refine ⟨fun j => ?_, ?_⟩
            · rw [if_neg (by omega)]; rfl
            · cases draw <;> rfl
  | succ n ih =>
    simp only [List.range'_succ, laneLoop]
    obtain ⟨h1, h2⟩ := ih (lo + 1) (setLane v lo (f lo (if draw = true then srAdvance seed else seed)).1)
      (if draw = true then srAdvance seed else seed) (fl ||| (f lo (if draw = true then srAdvance seed else seed)).2)
      (by omega)
    refine ⟨fun j => ?_, ?_⟩
    · rw [h1]
      by_cases hj : j = lo
      · subst hj
        have g1 : ¬ (j + 1 ≤ j ∧ j < j + 1 + n) := by omega
        have g2 : j ≤ j ∧ j < j + (n + 1) := by omega
        rw [if_neg g1, if_pos g2, lane_setLane _ _ _ _ (by omega), if_pos rfl]
        cases draw <;> simp [srAfter]
      · by_cases hr : lo + 1 ≤ j ∧ j < lo + 1 + n
        · have g : lo ≤ j ∧ j < lo + (n + 1) := by omega
          rw [if_pos hr, if_pos g]
          have e : j - lo + 1 = (j - (lo + 1) + 1) + 1 := by omega
          rw [e]
          cases draw <;> simp only [if_true, srAfter]; rfl
        · have g : ¬ (lo ≤ j ∧ j < lo + (n + 1)) := by omega
          rw [if_neg hr, if_neg g, lane_setLane _ _ _ _ (by omega), if_neg hj]
    · rw [h2]; cases draw <;> simp [srAfter]

end Sys2Proof.Machine
end

