-- ==== Sys2Proof/Laws/Waits.lean ====
section
/-!
SUPPORT. Where nothing in a core waits for its own earlier work, bringing it forward changes nothing.
-/
namespace Sys2Proof.Machine

variable {s : State} {c : Nat}

theorem State.atRest.vstServe (h : s.atRest c) : s.vstServe c = s := by
  unfold State.vstServe
  rw [List.filter_eq_nil_iff.2 (fun a ha => ?_)]
  · rfl
  · have := (h.2.2.2.2 a ha).2
    split <;> simp_all

theorem State.atRest.kick (h : s.atRest c) : s.kick c = s := by
  have hl : s.lateServe c = (s, none) := by
    have : (s.core c).mem.accs.find? (fun a => a.err.isSome && (s.core c).isFirst a.thr a.n a.id) = none :=
      List.find?_eq_none.2 fun a ha => by simp [(h.2.2.2.2 a ha).1]
    simp [State.lateServe, this]
  have hm : s.memRun c = (s, none) := by simp [State.memRun, h.2.1]
  have hv : s.vecMem c = (s, none) := by simp [State.vecMem, h.2.2.1]
  have he : s.engines c 24 = s := by simp [State.engines, State.engineStep, State.vecHead, h.2.1, h.2.2.1]
  have ha : s.armTfin c = s := by simp [State.armTfin, Matrix.nextTfin, h.2.1]
  simp only [State.kick, hl, hm, hv, he, h.vstServe, s.vecRetire_idle c h.2.2.2.1, ha]

theorem State.atRest.poke (h : s.atRest c) : s.poke c = s := by
  have hg : ∀ t, (s.trapServe c t).gatherTry c t = s := fun t => by
    simp [State.trapServe, State.gatherTry, h.1 t]
  have hn : ∀ ch, s.sdescNext c ch = none := fun ch => List.find?_eq_none.2 fun t _ => by simp [h.1 t]
  have hd : ∀ ch, s.sdescServe c ch 4 = s := fun ch => by simp [State.sdescServe, hn ch]
  have hf : ∀ t, s.ftqServe c t = s := fun t => by simp [State.ftqServe, h.1 t]
  have hfold {α : Type} (f : State → α → State) (hf : ∀ a, f s a = s) (l : List α) : l.foldl f s = s := by
    induction l with
    | nil => rfl
    | cons a l ih => rw [List.foldl_cons, hf, ih]
  simp only [State.poke, h.kick, State.ftqServeAll]
  rw [hfold _ hg, hfold _ hd, hfold _ hf]

/-- Requests that this device has to answer itself: there are none. -/
theorem State.ownErrors_nil (h : s.unrouted = []) (c : Nat) : s.ownErrors c = s := by
  have : ({ s with unrouted := [] } : State) = s := by cases s; simp_all
  simp [State.ownErrors, h, this]

end Sys2Proof.Machine
end

