-- ==== Sys2Proof/WellFormed.lean ====
section
/-!
DEFINITION. Which commands are well formed: their operands lie in the ranges that the spec gives them. `exec` takes the
others too, with the effect that the rule of the row gives the operand as it stands.
-/
namespace Sys2Proof

/-- A failed check has a code of the partition audit (R410) or of the device audit (R412). -/
def Mismatch.wellFormed (m : Mismatch) : Bool :=
  (1 ≤ m.check.toNat && m.check.toNat ≤ 10) || (0x81 ≤ m.check.toNat && m.check.toNat ≤ 0x84)

/-- Nine credit classes (R353, R358). -/
def CreditSide.wellFormed (v : CreditSide) : Bool := v.held.length == 9 && v.moving.length == 9

/-- The operands are in range. -/
def Instr.wellFormed (i : Instr) : Bool :=
  match i with
  | .barrierArrival _ bar _ _ => decide (bar.toNat < 80)  -- 80 barriers (R205)
  | .barrierTimeout _ bar => decide (bar.toNat < 80)  -- 80 barriers (R205)
  | .stepBoundary _ found => found.all Mismatch.wellFormed  -- codes of R410
  | .packetRead _ bytes _ => bytes.length % 64 == 0  -- slots of 64 bytes (R299)
  | .deviceConservationAudit found => found.all Mismatch.wellFormed  -- codes of R412
  | .selftest failed _ => failed.all (fun p => decide (p < 1088))  -- 1,088 physical cores (R429)
  | .creditCheck _ tx rx => tx.wellFormed && rx.wellFormed
  | .retrainComplete _ _ _ view => view.tx.wellFormed && view.rx.wellFormed
  | .kflFlitReceive _ flit => flit.bytes.length == 256  -- flits of 256 bytes (R347)
  | .transitForward _ item => item.ty.toNat != 0  -- item types (R354)
  | .remoteAmo _ op _ _ _ _ => decide (op.toNat ≤ 9)  -- ten operations (R91)
  | .remoteMsg _ _ _ _ words => decide (words.length ≤ 8)  -- 0 to 8 payload words (R180)
  | .postPlacement _ _ _ _ bytes => decide (bytes.length ≤ 4032)  -- at most 4,032 bytes (R371)
  | .flr fn => decide (fn.toNat ≤ 8)  -- the PF and eight VFs (R293)
  | .flrEnd fn => decide (fn.toNat ≤ 8)
  | .busMasterEnableChange fn _ => decide (fn.toNat ≤ 8)
  | .vfEnableChange _ num => decide (num.toNat ≤ 8)  -- TotalVFs = 8 (R293)
  | .barResize log _ => 28 ≤ log.toNat && log.toNat ≤ 36  -- 256 MiB to 64 GiB (R296)
  | .msixUnmask fn _ => decide (fn.toNat ≤ 8)
  | .ringEnable _ _ v => v.getLsbD 6  -- a write of EN = 1 (R300)
  | .ringDisable _ _ v => !v.getLsbD 6  -- a write of EN = 0 (R300)
  | .prtTtflush _ v => v.getLsbD 0  -- a write of GO (R272)
  | .errQforce v => v.getLsbD 10  -- a write of GO (R423)
  | .fabPctlRetrain _ v => v.getLsbD 3  -- a write of RETRAIN (R350)
  | .fabPctlDisable _ v => !v.getLsbD 2  -- a write of ENABLE = 0 (R379)
  | .postRingDisable _ v => !v.getLsbD 56  -- a write of EN = 0 (R382)
  | .registerWrite fn _ _ _ => decide (fn.toNat ≤ 8)
  | .slcCntRead _ k _ => decide (k.toNat ≤ 4)  -- the counts of R48
  | .errCntRead k _ => decide (k.toNat ≤ 22)  -- sources 0 to 22 (R419)
  | .tier2PortLinkFailure port => decide (port.toNat < 24)  -- 24 ports (R267)
  | .vddAuxLoss mv => decide (mv.toNat < 1620)  -- a fall below 1.62 V (R431)
  | .add .. | .sub .. | .and .. | .or .. | .xor .. | .andn .. | .sll .. | .srl .. | .sra .. | .min .. | .max ..
  | .minu .. | .maxu .. | .clz .. | .ctz .. | .popc .. | .mul .. | .mulh .. | .mulhu .. | .div .. | .divu ..
  | .rem .. | .remu .. | .addi .. | .andi .. | .ori .. | .xori .. | .slli .. | .srli .. | .srai .. | .lui ..
  | .cmp .. | .cmpi .. | .plogAnd .. | .plogOr .. | .plogXor .. | .plogAndn .. | .plogOrn .. | .plogMov ..
  | .plogNot .. | .plogSet .. | .plogClr .. | .br .. | .call .. | .jalr .. | .rpt .. | .rptn .. | .csrr .. | .csrw ..
  | .csrs .. | .csrc .. | .ld8 .. | .ld8u .. | .ld16 .. | .ld16u .. | .ld32 .. | .ld32u .. | .ld64 .. | .st8 ..
  | .st16 .. | .st32 .. | .st64 .. | .ldAcq .. | .stRel .. | .ldAcqr .. | .amoAdd .. | .amoAnd .. | .amoOr ..
  | .amoXor .. | .amoSwap .. | .amoMin .. | .amoMax .. | .amoMinu .. | .amoMaxu .. | .amoCas .. | .waitm ..
  | .sysNop .. | .syscall .. | .brk .. | .eret .. | .remfence .. | .iinv .. | .ctxsv .. | .ctxld .. | .tld ..
  | .tst .. | .tmma .. | .tzero .. | .tfree .. | .tsld .. | .tsst .. | .tfin .. | .tald .. | .tast .. | .vld ..
  | .vst .. | .varithAdd .. | .varithSub .. | .varithMul .. | .varithMin .. | .varithMax .. | .varithFma ..
  | .varithFms .. | .varithAbs .. | .varithNeg .. | .vcmp .. | .vcvtNarrow .. | .vcvtWiden .. | .vsfExp ..
  | .vsfExp2 .. | .vsfLog .. | .vsfLog2 .. | .vsfRcp .. | .vsfSqrt .. | .vsfRsqrt .. | .vsfTanh .. | .vsfSigmoid ..
  | .vsfErf .. | .vsfSin .. | .vsfCos .. | .vredSum .. | .vredMax .. | .vredMin .. | .vredArgmax .. | .vredIntSum ..
  | .vredIntMax .. | .vredIntMin .. | .vperm .. | .vmovtToMatrix .. | .vmovtToVector .. | .vftqRead .. | .vftqPop ..
  | .vftqStat .. | .vsetvl .. | .vbitAnd .. | .vbitOr .. | .vbitXor .. | .vbitAndn .. | .vbitSll .. | .vbitSrl ..
  | .vbitSra .. | .vbitSel .. | .vbitMov .. | .vmovgBcast .. | .vmovgGet0 .. | .vmovgGet .. | .sdescPost ..
  | .sdescResume .. | .sstop .. | .sstat .. | .send .. | .recvSel .. | .movq .. | .pset .. | .pclr .. | .pwait ..
  | .barrWait .. | .barrArrive .. | .barrTest .. | .barm .. | .hsig .. | .engbindWrite .. | .tcfgWrite ..
  | .tiuWrite .. | .vlWrite .. | .srseedWrite .. | .threadRunRequest .. | .threadStopRequest .. | .threadStop ..
  | .interruptEntry .. | .loadArrival .. | .homeRead .. | .homeWrite .. | .homeAtomic .. | .writeAcknowledgement ..
  | .remoteWriteError .. | .waitmWatchTrigger .. | .waitmPoll .. | .waitmTimeout .. | .tmmaCollect ..
  | .tmmaFinish .. | .checksumFail .. | .tfinCopyDone .. | .tileRowTransfer .. | .channelBeat ..
  | .blockListEntryRead .. | .descriptorComplete .. | .niSlotInject .. | .messageArrival .. | .sendAnswerArrival ..
  | .messageResend .. | .sendWait .. | .spillRecordMove .. | .deadLetterWrite .. | .linkLineSend ..
  | .linkLineWrite .. | .pwaitWake .. | .devtimeTick | .snapshotComplete .. | .stepEnd .. | .bandOverrun ..
  | .overrun .. | .wdogFired .. | .completionWrite .. | .coalescingTimer .. | .restoreStart .. | .restoreEnd ..
  | .moorRecordComplete .. | .scrubAccess .. | .traceRecordWrite .. | .quarantine .. | .thermalTrip
  | .supplyRailOutOfWindow | .throttleEvaluation .. | .powerCapEvaluation .. | .voltageLowerRequest .. | .pgChange ..
  | .pgWindowExpiry .. | .referenceClockLoss | .porstNFall | .porstNRise .. | .warmrstNAssert | .warmReset
  | .warmrstNRise | .por .. | .train .. | .boot | .hold | .trainPassComplete | .pePerstN .. | .ppsInEdge
  | .ppsOutEdge | .ppsLockTimeout | .linkAckTimer .. | .nakUnanswered .. | .laneLockLoss ..
  | .retrainTimeout .. | .portTrainingComplete .. | .portTrainingRetry .. | .lightChange ..
  | .timeExchange .. | .timeHoldover | .remoteRead .. | .remoteWrite .. | .remoteResponse .. | .fabRtoExpiry ..
  | .postResend .. | .fabricBarrierEvent .. | .bar4Read .. | .bar4Write .. | .sqTail .. | .cqHead ..
  | .hstWinbaseWrite .. | .ttflushComplete .. | .timSet .. | .errLogconsWrite .. | .trcCfgWrite .. | .trcConsWrite ..
  | .prtDlconsWrite .. | .refusePosWrite .. | .halfopReqWrite .. | .halfopCapWrite .. | .errSuspClear ..
  | .slcStatRead .. | .prtWdogRead .. | .pwrHalfopRead .. | .hstFlrlostRead .. | .scoreboardRead ..
  | .fabPstatRead .. | .fabPfecRead .. | .fabPretryRead .. | .fabRtoRead .. | .timPpserrRead .. | .trcSnapstatRead ..
  | .errLoglostRead .. | .pwrPowerRead .. | .nopCmd .. | .queryDevice .. | .queryPartition .. | .queryBerth ..
  | .queryIndex .. | .fence .. | .stageConfig .. | .commitConfig .. | .commitConfigDevice .. | .commitTakesEffect ..
  | .openBerth .. | .submit .. | .cancel .. | .closeBerth .. | .moor .. | .unmoor .. | .copyIn .. | .copyOut ..
  | .fill .. | .signal .. | .traceControlSetRing .. | .traceControlSetCfg .. | .traceControlSetCons ..
  | .traceControlSetSnapbase .. | .traceControlRead .. | .counterSnapshotLatest .. | .counterSnapshotNow ..
  | .resetPartition .. | .holdPartitionHold .. | .holdPartitionRelease .. | .setOperatingPoint ..
  | .fabricControlPort .. | .fabricControlTorus .. | .fabricControlExport .. | .fabricControlPostRing ..
  | .fabricControlBarrier .. | .fabricControlTime .. | .fabricControlReadPort .. | .hsigCompletionPost ..
  | .smbusBlockRead | .setEndpointId .. | .mctpRead .. | .mctpWrite .. | .mctpSensors | .bypass | .idcode
  | .samplePreload .. | .extest .. | .clamp | .highz | .lockstepMismatch .. | .hbmStackFailure .. | .d2dFlitCrcError
  | .d2dRetrainTimeout | .pcieLinkStateChange .. | .copyComplete .. => true

end Sys2Proof
end

