-- ==== Sys2Proof/Tests/Slice0.lean ====
section
/-!
SUPPORT. Tests: the checks of WellFormed refuse, words written out from the spec's encodings decode, single steps, and for
each statement a state and operands that meet its hypotheses.
-/
namespace Sys2Proof.Tests
open Sys2Proof Sys2Proof.Machine
set_option Elab.async false

/-! ### Ill-formed commands, and the last well-formed value beside each -/

def from0 : RemIn := ⟨0, 1, 0, 0, 0, false, false, 0⟩
def badCheck : Mismatch := ⟨11, 0, 0, 0, 0⟩
def okCheck : Mismatch := ⟨10, 0, 0, 0, 0⟩
/-- An item of a type on `CTRL` from device 2 to device 1. -/
def transitOf (ty : BitVec 4) : Transit := ⟨ty, 1, false, 1, 2, 0, false, 0, 0, 7, 0, 0, 0, []⟩
def views (n : Nat) : CreditView := ⟨⟨List.replicate n 0, List.replicate 9 0⟩, ⟨List.replicate 9 0, List.replicate 9 0⟩⟩

/-- Each is refused: its operand is out of the range of its rule. -/
theorem test_wellFormed_refuses : ([
    .barrierArrival 0 80 0 0, .barrierTimeout 0 80, .stepBoundary 0 (some badCheck), .packetRead 0 [0] ⟨true, []⟩,
    .deviceConservationAudit (some badCheck), .deviceConservationAudit (some ⟨0x85, 0, 0, 0, 0⟩), .selftest [1088] false,
    .creditCheck 0 ⟨[], []⟩ ⟨[], []⟩, .creditCheck 0 (views 8).tx (views 8).rx, .transitForward 0 (transitOf 0),
    .remoteAmo from0 10 false 0 0 .good, .remoteMsg from0 0 0 0 (List.replicate 9 0),
    .postPlacement from0 0 0 0 (List.replicate 4033 0), .flr 9, .flrEnd 9, .busMasterEnableChange 9 ⟨true, false, true, false, 0⟩,
    .vfEnableChange true 9, .barResize 27 false, .barResize 37 false, .msixUnmask 9 0, .ringEnable 0 false 0,
    .ringDisable 0 false 0x40, .prtTtflush 0 0, .errQforce 0, .fabPctlRetrain 0 0, .fabPctlDisable 0 4,
    .postRingDisable 0 0x100000000000000, .registerWrite 9 0 .all 0, .slcCntRead 0 5 .all, .errCntRead 23 .all,
    .tier2PortLinkFailure 24, .vddAuxLoss 1620] : List Instr).all (fun i => !i.wellFormed) = true := by decide +kernel

/-- Each is accepted: the operand at the edge of its range. -/
theorem test_wellFormed_accepts : ([
    .barrierArrival 0 79 0 0, .barrierTimeout 0 79, .stepBoundary 0 (some okCheck), .stepBoundary 0 none,
    .packetRead 0 (List.replicate 64 0) ⟨true, []⟩, .packetRead 0 [] ⟨false, []⟩, .deviceConservationAudit (some ⟨0x84, 0, 0, 0, 0⟩),
    .selftest [1087] false, .creditCheck 0 (views 9).tx (views 9).rx, .transitForward 0 (transitOf 1),
    .remoteAmo from0 9 false 0 0 .good, .remoteMsg from0 0 0 0 (List.replicate 8 0),
    .postPlacement from0 0 0 0 (List.replicate 4032 0), .flr 8, .flrEnd 8, .busMasterEnableChange 8 ⟨true, false, true, false, 0⟩,
    .vfEnableChange true 8, .barResize 28 false, .barResize 36 false, .msixUnmask 8 2047, .ringEnable 0 false 0x40,
    .ringDisable 0 false 0, .prtTtflush 0 1, .errQforce 0x400, .fabPctlRetrain 0 8, .fabPctlDisable 0 0,
    .postRingDisable 0 0, .registerWrite 8 0 .all 0, .slcCntRead 0 4 .all, .errCntRead 22 .all,
    .tier2PortLinkFailure 23, .vddAuxLoss 1619] : List Instr).all Instr.wellFormed = true := by decide +kernel

/-! ### Words written out from the spec's encodings (R84) -/

/-- Core 5, thread 2, predicate `p0`; and predicate `p3` negated. -/
def x52 : Iss := ⟨5, 2, false, 0, .ok⟩
def n52 : Iss := ⟨5, 2, true, 3, .ok⟩
def dec (w : Nat) : Option Instr := decodeCore 5 2 .ok 0 w

/-- R84, R87, R88: `ADD g3, g4, g5`, negated by `p3`: major 1 | 1 | 011 | rd | ra | rb | func 0. -/
theorem test_word_alu : dec 0b000001_1_011_00011_00100_00101_0000000 = some (.add n52 ⟨3, 4, 5⟩) ∧
    dec 0b000001_0_000_11111_00001_00010_0010011 = some (.div x52 ⟨31, 1, 2⟩) := by decide +kernel

/-- R84, R87, R90: an I, an U, a P and an L format word; `SRAI` by 63. -/
theorem test_word_immediates :
    dec 0b000010_0_000_00001_00010_111111111111 = some (.addi x52 ⟨1, 2, 0xFFF⟩) ∧
    dec 0b000110_0_000_00001_00010_0000_10_111111 = some (.srai x52 ⟨1, 2, 0, 63⟩) ∧
    dec 0b000111_0_000_00111_10000000000000001 = some (.lui x52 ⟨7, 0x10001⟩) ∧
    dec 0b001000_0_000_010_1010_00011_00100_00000 = some (.cmp x52 ⟨2, 10, 3, 4, 0⟩) ∧
    dec 0b001001_0_000_010_0001_00011_1000000001 = some (.cmpi x52 ⟨2, 1, 3, 0x201⟩) ∧
    dec 0b001010_0_000_001_010_011_0011_000000000 = some (.plogAndn x52 ⟨1, 2, 3, 0⟩) := by decide +kernel

/-- R84, R87, R89, R96: branches, a return, a system call and a repeat prefix. -/
theorem test_word_control :
    dec 0b001100_0_000_1111111111111111111110 = some (.br x52 0x3FFFFE) ∧
    dec 0b001110_0_000_00000_00001_000000000100 = some (.jalr x52 ⟨0, 1, 4⟩) ∧
    dec 0 = some (.sysNop x52 ⟨0, 0⟩) ∧
    dec 0b000000_0_000_00001_00000_000000000111 = some (.syscall x52 ⟨0, 7⟩) ∧
    dec 0b000000_0_000_00110_00011_000000000010 = some (.ctxsv x52 ⟨3, 2⟩) ∧
    dec 0b001111_0_000_1_0000011_00_000000001000 = some (.rptn x52 ⟨3, 0, 8⟩ 0) ∧
    dec 0b010001_0_000_00000_00011_000000000110 = some (.csrw x52 ⟨0, 3, 6⟩) := by decide +kernel

/-- R84, R87, R91: a load with base `g31` and a displacement of −8, a release store, a 32-bit `CAS`. -/
theorem test_word_memory :
    dec 0b011010_0_000_00101_111_11111111111000 = some (.ld64 x52 ⟨5, 7, 0x3FF8⟩) ∧
    dec 0b100000_0_000_00101_000_00000000001000 = some (.stRel x52 ⟨5, 0, 8⟩) ∧
    dec 0b100001_0_000_00001_00010_00011_0000110 = some (.ldAcqr x52 ⟨1, 2, 3⟩ 6) ∧
    dec 0b100010_0_000_00001_00010_00011_0011001 = some (.amoCas x52 ⟨1, 2, 3, 0, true⟩) := by decide +kernel

/-- R92, R114, R121, R120: `TMMA`, `TALD`, `TFIN`. -/
theorem test_word_matrix :
    dec 0b111000_0_000_0010_01_10_011_100_1_0000000 = some (.tmma x52 ⟨1, 2, 3, 4, true, 0⟩) ∧
    dec 0b111000_0_000_1000_00100_001_1111111111 = some (.tald x52 ⟨4, 1, 0x3FF⟩) ∧
    dec 0b111000_0_000_0111_00_11_000000_10100101 = some (.tfin x52 ⟨0, 3, 0, 0xA5⟩) := by decide +kernel

/-- R92, R143, R145, R147: an INT32 addition, `VBIT` `SEL`, `VSF` `SQRT`. -/
theorem test_word_vector :
    dec 0b111001_0_000_0010_00_00001_00010_1_00000 = some (.varithAdd x52 ⟨0, 1, 2, true⟩) ∧
    dec 0b111001_0_000_1011_00_00001_00010_0111_00 = some (.vbitSel x52 ⟨0, 1, 2, 0⟩) ∧
    dec 0b111001_0_000_0101_01_00001_00010_0101_00 = some (.vsfSqrt x52 ⟨1, 1, 2, 0⟩) := by decide +kernel

/-- R92, R159, R161, R192, R193, R203, R204, R206, R207: the stream, message and synchronisation blocks. -/
theorem test_word_units :
    dec 0b111010_0_000_0010_00_00011_00000_101_10_0 = some (.sstat x52 ⟨0, 3, 0, 5, 2, 0⟩) ∧
    dec 0b111011_0_000_0010_00_00011_101_1_0000000 = some (.movq x52 ⟨0, 3, 5, true, 0⟩) ∧
    dec 0b111011_0_000_0001_00_00011_10000001_1_00 = some (.recvSel x52 ⟨0, 3, 0x81, true, 0⟩) ∧
    dec 0b111011_0_000_0011_00_00011_00000000000 = some (.pset x52 ⟨0, 3, 0⟩) ∧
    dec 0b111011_0_000_0101_00_00011_00100_1_00000 = some (.pwait x52 ⟨0, 3, 4, true, 0⟩) ∧
    dec 0b111011_0_000_0110_00_00011_1001111_10_00 = some (.barrTest x52 ⟨0, 3, 79, 0⟩) ∧
    dec 0b111011_0_000_0111_00_00011_1000000_0000 = some (.barm x52 ⟨0, 3, 64, 0⟩) := by decide +kernel

/-- R87, R92: words of no instruction. -/
theorem test_word_of_none : [0b001011_0_000_0000000000000000000000, 0b111100_0_000_0000000000000000000000,
    0b111000_0_000_1010_000000000000000000].all (fun w => (dec w).isNone) = true := by decide +kernel

/-- No row of the table gives bits. -/
theorem test_table_gives_no_bits : decodeTableWord 32 0 = none := by decide +kernel

/-! ### States -/

/-- `s` with register words. -/
def regs (s : State) (l : List (Nat × W64)) : State := l.foldl (fun s p => s.setReg p.1 p.2) s

/-- A device in `RUN` after `HOLD`: partition 0 runs in the west half with P = 100 µs, partition 1 is held in the east;
1 s has passed. -/
def w : State :=
  { regs State.reset [(0x10, 0x60006), (prt 0 0x10, 100), (prt 0 0x18, 50000), (prt 1 0x10, 100)] with
    partmap := 0xF00F
    elapsed := 1000000000
    devtime := 5000
    boot := { State.reset.boot with held := true }
    pins := { State.reset.pins with perst := true } }

/-- Who issues in the tests: core 0, thread 1, predicate `p0`. -/
def x0 : Iss := ⟨0, 1, false, 0, .ok⟩

/-- A running thread in supervisor or user mode, its PC at 0x40 of its LM. -/
def thr (sup : Bool) : Thread := { Thread.reset with pc := 0x40, stat := if sup then 1 else 0, p := 0b10 }
def ctlOn : ThrCtl := { ThrCtl.reset with stopped := false, run := true }

/-- `w` with core `c` so that its thread 1 is `y` and runs. -/
def on (c : Nat) (y : Thread) (f : Core → Core) : State :=
  w.setCore c (f { Core.reset with thr := rset Core.reset.thr (tix 1) y, ctl := rset Core.reset.ctl (tix 1) ctlOn })

/-- A supervisor and a user that can issue; with both engines bound. -/
def sup : State := on 0 (thr true) id
def usr : State := on 0 (thr false) id
def eng : State := on 0 (thr true) (fun k => { k with engbind := 0x55 })

/-- An instruction of `x0` starts. -/
def go (s : State) (b : Option (BitVec 5 × Bool)) : Bool := (s.starts x0 b).isSome
/-- Its fetch is allowed. -/
def fe (s : State) (x : Iss) : Bool := (s.fetched x).isSome

def k0 (s : State) : Core := s.core 0

/-! ### States and operands that meet the hypotheses of the statements on instructions -/

theorem test_meets_AluResults : go sup none = true ∧ (0 : BitVec 5) = 0 := by decide +kernel

theorem test_meets_ImmediatesAndPredicates : go sup none = true ∧ go usr none = true ∧ (10 : BitVec 4).toNat ≤ 10 := by
  decide +kernel

/-- A target that is a multiple of 4 and one that is not; a prefix that repeats nothing and one that repeats a load; the
last repetition and one before it. -/
theorem test_meets_ControlFlow : go sup none = true ∧ x0.pi = 0 ∧ x0.pn = false ∧
    ((sup.gAt x0 0 + (4 : BitVec 12).signExtend 64).toNat % 4 = 0) ∧
    ((sup.gAt x0 0 + (3 : BitVec 12).signExtend 64).toNat % 4 ≠ 0) ∧
    rptAllows 8 0b011010_0_000_00101_000_00000000000000 = true ∧ (64 : BitVec 7).toNat ≤ 64 ∧
    (let y : Thread := { thr true with rptcnt := 0x100800000002, rptOn := true, rptBase := some (24, false) };
      2 ≤ y.rptcnt.toNat % 2 ^ 32 ∧ ({ y with rptcnt := 0x100800000001 } : Thread).rptcnt.toNat % 2 ^ 32 = 1) := by
  decide +kernel

/-- A register of the thread, one of each engine, one that is not listed; an engine that is bound and one that is not. -/
theorem test_meets_ControlRegisters :
    go eng none = true ∧ go sup none = true ∧ fe usr x0 = true ∧ eng.supAt x0 = true ∧ usr.supAt x0 = false ∧
    (csrListed 0x08 = true ∧ csrMatrix 0x08 = false ∧ csrVector 0x08 = false ∧ csrPrivRead 0x08 = false) ∧
    (csrListed 0x20 = true ∧ csrMatrix 0x20 = true ∧ csrListed 0x30 = true ∧ csrVector 0x30 = true) ∧
    (k0 eng).matrixBound 1 = true ∧ (k0 eng).vectorBound 1 = true ∧ (k0 sup).matrixBound 1 = false ∧
    (k0 sup).vectorBound 1 = false ∧ csrListed 0xFFF = false ∧
    (csrListed 0x04 = true ∧ csrPrivRead 0x04 = true ∧ csrPrivWrite 0x04 = true) ∧
    (sup.thread 0 1).sup = true ∧ ¬(x0.pn = true ∧ x0.pi = 0) := by decide +kernel

theorem test_meets_SystemInstructions : go sup none = true ∧ sup.supAt x0 = true ∧
    (sup.thread 0 1).remErr = none ∧ (sup.core 0).mem.remOut = [] := by decide +kernel

theorem test_meets_Exceptions : (sup.thread 0 1).stat.getLsbD 4 = false ∧ sup.present 0 = true ∧
    ((on 0 { thr true with stat := 0x11 } id).thread 0 1).stat.getLsbD 4 = true := by decide +kernel

/-- A load in its first line of the own LM, at the last byte of it, and one of the neighbour's. -/
def based (b : W64) : State := on 0 ((thr true).setG 24 b) id
def resolves (s : State) (ea : W64) (n : Need) : Bool :=
  match ((s.starts x0 none).getD s).resolve 0 ea n (!s.supAt x0) with
  | (_, .ok _) => true
  | (_, .error _) => false

theorem test_meets_AccessesIssue :
    go (based 0x7FFF8) (some (24, false)) = true ∧ resolves (based 0x7FFF8) 0x7FFF8 .read = true ∧
    resolves (based 0x7FFF8) 0x7FFFF .write = true ∧ resolves (based 0x40000100000) 0x40000100000 .both = true ∧
    (0x7FFF8 : W64).toNat % 8 = 0 := by decide +kernel

theorem test_meets_AcquireAndWait :
    go sup (some (baseReg 0, false)) = true ∧ go sup none = true ∧ resolves sup 8 .read = true ∧ (6 : BitVec 7).toNat = 6 ∧
    (47 : BitVec 7).toNat ≤ 47 := by decide +kernel

/-- A misaligned address; an address that does not resolve: past the own LM with no translation, and an absent half of a
neighbour's window. -/
theorem test_meets_AccessTraps :
    go sup (some (24, false)) = true ∧ (7 : W64).toNat % 8 ≠ 0 ∧ resolves sup 0x80000 .read = false ∧
    resolves sup 0x40000180000 .both = false ∧ resolves sup 0x40000180000 .write = false := by decide +kernel

/-! Accesses in flight. -/

/-- Access 3 of thread 1 of core 0, which has been injected. -/
def acc (kind : AccKind) (pa : Nat) : Acc :=
  { id := 3, thr := 1, n := 5, kind := kind, ea := BitVec.ofNat 64 pa, place := .here pa, space := .lm 1, lo := 0, len := 8
    injected := true, performed := false, val := 0, line := none, fill := false, err := none, snap := thr true }
def flies (a : Acc) : State := on 0 (thr true) (fun k => { k with mem := { k.mem with accs := [a], nextId := 4 } })
def lm1 : Nat := lmAddr 1 0x40

theorem test_meets_HomeAccesses :
    (∀ kind ∈ ([.load 3 8 false true false, .store 8 7, .amo 3 9 false 1 2, .amo 3 0 true 1 2] : List AccKind),
      ((flies (acc kind lm1)).core 0).acc? 3 = some (acc kind lm1) ∧
      (flies (acc kind lm1)).mayPerform 0 (acc kind lm1) = true ∧ (flies (acc kind lm1)).homeUp lm1 = true ∧
      (flies (acc kind lm1)).poisoned lm1 8 = false) ∧ w.homeUp 0x5FFFFFFFFF = true := by decide +kernel

theorem test_meets_AtomicResults : 0 < 64 ∧ 0 < 32 := by decide

def waits (x : Wait) : State := on 0 { thr true with wait := some x } id

/-- An access that waits for its slot, a performed load and store, a load whose line fills the data cache; a `WAITM` seen
by a write, with its limit past, and one that polls a word that differs; a remote write that fails. -/
theorem test_meets_AccessesComplete :
    (let a := { acc (.load 3 8 false true false) lm1 with injected := false };
      (flies a).coreRuns 0 = true ∧ (flies a).unrouted = [] ∧ (∀ t : Fin 4, ((flies a).thread 0 (BitVec.ofNat 2 t.val)).wait = none) ∧
      ∃ slot : Fin 16, (flies a).accFor 0 (((flies a).core 0).slot slot.val) = some a) ∧
    (∀ kind ∈ ([.load 3 8 false true false, .store 8 7] : List AccKind),
      let a := { acc kind lm1 with performed := true };
      ((flies a).core 0).acc? 3 = some a ∧ a.err = none) ∧
    (let a := { acc (.load 3 8 false true false) 0x1000 with performed := true, line := some 0, fill := true };
      ((flies a).core 0).acc? 3 = some a ∧ (lineOf a.place).isSome = true) ∧
    ((waits (.waitm 3 5 1 0x40 (.here lm1) true true (some 9))).thread 0 1).wait.isSome = true ∧ (1 : W64) ≠ 0 ∧
    w.homeUp lm1 = true ∧ w.memRuns lm1 = true ∧ w.slotFor 0 0x40000100040 (.here lm1) false = true ∧ w.poisoned lm1 8 = false ∧
    BitVec.ofNat 64 (ofLE (Memory.readBytes w.mem lm1 8)) ≠ 5 ∧
    (let r : RemWrite := ⟨7, 1, 0x800000000000⟩;
      let s := on 0 (thr true) (fun k => { k with mem := { k.mem with remOut := [r] } });
      (s.core 0).mem.remOut.find? (fun v => v.id == 7) = some r ∧ (s.thread 0 1).wait ≠ some .remfence) := by decide +kernel

/-! The engines. -/

theorem test_meets_VectorResults : go eng none = true ∧ (k0 eng).vectorBound x0.thr = true := by decide +kernel

theorem test_meets_VectorLanes : go eng none = true ∧ (k0 eng).vectorBound x0.thr = true ∧ f32 0x7FC00000 = .nan ∧
    f32 0xFF800001 = .nan := by decide +kernel

/-- Each type converts both ways where its group fits; FP32 does not. -/
theorem test_meets_VectorMoves :
    go eng none = true ∧ (k0 eng).matrixBusy = false ∧ (k0 eng).vectorBound 1 = true ∧ (k0 eng).matrixBound 1 = true ∧
    ((List.range 11).filter (fun t => t != 9)).all (fun t => cvtLegal ⟨0, 0, 8, BitVec.ofNat 4 t, false⟩ true &&
      cvtLegal ⟨0, 8, 0, BitVec.ofNat 4 t, false⟩ false) = true ∧
    (k0 (on 0 (thr true) (fun k => { k with engbind := 0x55, mx := { k.mx with ftq := [⟨0, 1, false, 2⟩] } }))).mx.ftq =
      [⟨0, 1, false, 2⟩] ∧ (k0 eng).mx.ftq = [] := by decide +kernel

/-- Four rows of 64 bytes of the own LM: they can be read, and written. -/
def rowsAt (b : W64) (n : Nat) (u : Nat) : List RowLine := rowLines b 64 n u
def reads (s : State) (l : List RowLine) : Bool := (((s.starts x0 (some (24, true))).getD s).bytesOf x0 64 l).isSome
def writes (s : State) (l : List RowLine) : Bool := (((s.starts x0 (some (24, true))).getD s).placesOf x0 l).isSome

theorem test_meets_VectorMemory :
    go eng (some (24, true)) = true ∧ (k0 eng).vectorBound 1 = true ∧ reads eng (rowsAt 0x7FF00 4 1) = true ∧
    writes eng (rowsAt 0x7FF00 4 1) = true ∧ go sup none = true ∧ (k0 sup).vectorBound 1 = false ∧
    cvtLegal ⟨0, 8, 0, 15, false⟩ false = true ∧ cvtLegal ⟨0, 0, 8, 11, false⟩ true = true := by decide +kernel

/-- `TMMA` of two configurations as they are at reset; one whose format is reserved, and a pair that does not match. -/
def mxOf (f : Matrix → Matrix) : State := on 0 (thr true) (fun k => { k with engbind := 0x55, mx := f k.mx })
def mx0 : Matrix := (k0 eng).mx

theorem test_meets_MatrixIssue :
    go eng none = true ∧ (k0 eng).matrixBound 1 = true ∧ (k0 sup).matrixBound 1 = false ∧ go sup none = true ∧
    srcRowFault (mx0.tcfgOf 0) = none ∧ cfgFmt (mx0.tcfgOf 0) < 9 ∧
    (∃ f : Fin 9, let m := { mx0 with tcfg := Vector.replicate 8 (BitVec.ofNat 64 (32 * 16 + 64 * 1024 + f.val)) };
      srcRowFault (m.tcfgOf 0) = none ∧ cfgFmt (m.tcfgOf 0) < 9 ∧ tmmaShape m 0 0 1 true = none) ∧
    (let m := { mx0 with tcfg := Vector.replicate 8 (BitVec.ofNat 64 (32 * 16 + 64 * 1024 + 15)) };
      srcRowFault (m.tcfgOf 0) = none ∧ 9 ≤ cfgFmt (m.tcfgOf 0)) ∧
    (let m := { mx0 with tcfg := Vector.replicate 8 (BitVec.ofNat 64 (64 * 1024)) };
      srcRowFault (m.tcfgOf 0) = none ∧ cfgFmt (m.tcfgOf 0) < 9 ∧ (tmmaShape m 0 0 1 true).isSome = true) := by
  decide +kernel

/-- A row of a tile on its way into it and out of it. -/
def moves (st : Bool) : State :=
  on 0 { thr true with wait := some (.rows 3 st 0 0x1000 64) } (fun k => { k with engbind := 0x55 })
/-- It resolves, and its turn has come, at a home in service. -/
def rowReady (st : Bool) : Bool :=
  match (moves st).resolveLines 0 (if st then .write else .read) false 64 [⟨0x1000, 0x1000⟩] with
  | (s2, .ok [(ea, dest)]) =>
    match s2.orderLines 0 1 3 [(ea, dest)] st 64, dest.place with
    | .ok s3, .here pa => !s3.poisoned pa 64 && s3.homeUp pa
    | _, _ => false
  | _ => false

theorem test_meets_MatrixMemory :
    go eng (some (24, true)) = true ∧ (k0 eng).matrixBound 1 = true ∧ reads eng (rowLines 0x1000 64 8 1) = true ∧
    reads eng (rowLines 0x1000 64 32 2) = true ∧ writes eng (rowLines 0x1000 64 8 1) = true ∧
    writes eng (rowLines 0x1000 64 32 2) = true ∧ rowsOk (mx0.tcfgOf 7) = true ∧ fld mx0.trow 0 5 < cfgRows (mx0.tcfgOf 7) ∧
    (k0 eng).matrixBusy = false ∧
    (∀ st : Bool, (moves st).coreRuns 0 = true ∧ (moves st).eventDue 0 1 = false ∧
      ((moves st).thread 0 1).wait = some (.rows 3 st 0 0x1000 64) ∧ rowReady st = true ∧
      (match ((eng.starts x0 (some (24, true))).getD eng).resolveLines 0 (if st then .write else .read) false 64
          [⟨0x1000, 0x1000⟩] with | (_, .ok _) => true | (_, .error _) => false) = true) := by
  decide +kernel

/-- A queue whose head is a `TMMA` that has not copied its operands, one that has, or a `TFIN`. -/
def cfg0 : W64 := BitVec.ofNat 64 (32 * 16 + 64 * 1024)
def buf0 : Collected := ⟨0, 0, 0, 0⟩
def heads (k : MKind) : State := mxOf (fun m => { m with queue := [⟨1, 5, k, thr true, 0⟩] })

theorem test_meets_MatrixEvents :
    (∀ k ∈ ([.tmma 0 0 0 1 true cfg0 cfg0 1 none, .tmma 0 0 0 1 true cfg0 cfg0 1 (some buf0), .tfin 0 5 false] : List MKind),
      (k0 (heads k)).mx.queue = [⟨1, 5, k, thr true, 0⟩] ∧ (heads k).collectHeld 0 ⟨1, 5, k, thr true, 0⟩ = false ∧
      (k0 (heads k)).unsettled 1 5 = false ∧ (k0 (heads k)).mx.ftq.length < 4 ∧ (k0 (heads k)).mem.accs = [] ∧
      (heads k).coreRuns 0 = true ∧ (∀ t : Fin 4, ((heads k).thread 0 (BitVec.ofNat 2 t.val)).wait = none) ∧
      ((k0 (heads k)).discard 1 5 (thr true)).mx.queue = []) ∧
    cfgSrc cfg0 = false ∧ (k0 (heads (.tmma 0 0 0 1 true cfg0 cfg0 1 none))).mx.buffers < 2 ∧
    (thr true).stat.getLsbD 4 = false := by decide +kernel

theorem test_meets_TmmaElements : cfgRows cfg0 ≤ 32 ∧ (∃ f : Fin 9, pairInt f.val = true) := by decide +kernel

/-- Thread 1 saves and loads thread 2, which is stopped; and its own context, or at a misaligned base. Thread 2 has no
engine, or both (`ctx2`), with a context of both in memory (`both`). -/
def ctx2 : State := on 0 (thr true) (fun k => { k with engbind := 0x66 })
def both (s : State) : State := { s with mem := [(lmAddr 0 0x1001, 3)] }
def area (s : State) (need : Need) (nos : List Nat) : Bool × State :=
  let r := s.areaExc 0 need false 64 0x1000 none (ctxLines 0x1000 nos)
  (r.2.isNone, r.1)
def began (s : State) : State := (s.starts x0 none).getD s

theorem test_meets_Contexts_saves :
    go eng none = true ∧ eng.supAt x0 = true ∧ (2 : BitVec 2) ≠ x0.thr ∧ (eng.ctl 0 2).stopped = true ∧
    (eng.ctl 0 1).stopped = false ∧ (0x20 : W64).toNat % 64 ≠ 0 ∧ (thr true).pc.toNat % 4 = 0 ∧
    (k0 eng).matrixBound 2 = false ∧ (k0 ctx2).matrixBound 2 = true ∧ (k0 ctx2).vectorBound 2 = true ∧ go ctx2 none = true ∧
    ([eng, ctx2].all (fun s =>
      let a := area (began s) .write (List.range 8)
      let nos := ctxLineNos ((k0 s).matrixBound 2) ((k0 s).vectorBound 2) (k0 s).mx.tiu.toNat
      let b := area a.2 .write nos
      a.1 && b.1 && (b.2.placesOf x0 (ctxLines 0x1000 nos)).isSome)) = true := by decide +kernel

theorem test_meets_Contexts_loads :
    ([eng, both eng, both ctx2].map (fun s =>
      let a := area (began s) .read (List.range 8)
      let no := a.2.nextAcc x0
      let held := a.2.modCore 0 (fun k => k.addLines 0 1 (ctxLines 0x1000 (List.range 716)) 64 false)
      match held.bytesHeld x0 no 64 (ctxLines 0x1000 (List.range 8)) with
      | some (s3, head) =>
        let lm := (wordAt head 0).getLsbD 8
        let lv := (wordAt head 0).getLsbD 9
        (match s3.bytesHeld x0 no 64 (ctxLines 0x1000 [8, 9]) with
          | some (s4, ctl) =>
            let nos := ctxLineNos lm lv (if lm then fld (wordAt ctl 8) 0 12 else 0)
            let b := area (if lm then s4 else s3) .read nos
            (a.1, lm, lv, b.1 && (b.2.bytesHeld x0 no 64 (ctxLines 0x1000 (nos.filter (· != 11)))).isSome)
          | none => (a.1, lm, lv, false))
      | none => (false, false, false, false))) =
    [(true, false, false, true), (true, true, true, true), (true, true, true, true)] := by decide +kernel

/-- A list of one descriptor of zeros, one of 17, one that ends past its space; a descriptor that fails its checks. A
channel that runs, one that is stopped or faulted. -/
def chan (f : Channel → Channel) : State :=
  on 0 (thr true) (fun k => { k with ch := rset k.ch (qix 2) (f Channel.reset) })
def listAt (list : W64) (n : Nat) : Bool × State :=
  let held := (began sup).modCore 0 (fun k => k.addLines 0 1 (listLines list (min n 16)) 32 false)
  let r := held.areaExc 0 .read false 32 list none (listLines list (min n 16))
  (r.2.isNone, r.1)

theorem test_meets_StreamInstructions :
    go sup none = true ∧ (w.chan 0 2).active = false ∧ (0x1010 : W64).toNat % 32 ≠ 0 ∧ (0x1000 : W64).toNat % 32 = 0 ∧
    (listAt 0x1000 1).1 = true ∧ (listAt 0x1000 16).1 = true ∧ sup.spanOk 0x1000 32 = true ∧
    sup.spanOk 0x7FE00 (32 * 16) = true ∧ (listAt 0x7FFE0 1).1 = true ∧ sup.spanOk 0x7FFE0 (32 * 17) = false ∧
    (match (listAt 0x1000 1).2.bytesHeld x0 (sup.nextAcc x0) 32 (listLines 0x1000 1) with
      | some (_, bs) => sup.descOk (BitVec.ofNat 256 (ofLE (bs.take 32)))
      | none => false) = true ∧
    (∀ t : Fin 4, (sup.thread 0 (BitVec.ofNat 2 t.val)).ahead 2 (sup.nextAcc x0) = false) ∧
    ([BitVec.ofNat 256 (2 ^ 256 - 1)] : List (BitVec 256)).findIdx? (fun d => !w.descOk d) = some 0 ∧
    (∀ st ∈ ([.running, .stopping] : List ChState), ((chan (fun h => { h with state := st })).chan 0 2).active = true) ∧
    (∀ f : Bool, ((chan (fun h => { h with state := .faulted, fnr := f })).chan 0 2).fnr = f) := by decide +kernel

/-- A descriptor of one byte from 0x1000 to 0x2000 of the own LM, and a channel that executes it. -/
def desc1 : BitVec 256 := BitVec.ofNat 256 (0x1000 + 0x2000 * 2 ^ 64 + 2 ^ 128)
def runs (f : Channel → Channel) : State :=
  chan (fun h => f { h with state := .running, n := 1, store := [desc1] })

/-- A beat of channel 2 has its turn; and the state in which it has been served. -/
def turn (s : State) (kind : BeatKind) : Bool :=
  match s.beatNeeds 0 2 kind with
  | some need => s.granted 0 2 need
  | none => false
def served (s : State) (kind : BeatKind) : State :=
  match s.beatNeeds 0 2 kind with
  | some need => s.modCore 0 (fun k => k.serve 2 need.1)
  | none => s

theorem test_meets_Channels_reads :
    (let s := runs id;
      let h := s.chan 0 2;
      s.coreRuns 0 = true ∧ h.active = true ∧ h.cur = some desc1 ∧ turn s .source = true ∧
      (match h.srcAt desc1, (served s .source).resolve 0 0x1000 .read false with
        | some (some a, room), (s2, .ok r) => a == 0x1000 && h.fit desc1 (min room 64) != 0 &&
            s2.beatFree 0 h 0x1000 r (h.fit desc1 (min room 64)) false && r.place == .here (lmAddr 0 0x1000) &&
            s2.homeUp (lmAddr 0 0x1000) && !s2.poisoned (lmAddr 0 0x1000) 64
        | _, _ => false) = true) ∧
    (let s := runs (fun h => { h with rd := 1, hold := [7] });
      let h := s.chan 0 2;
      turn s .destination = true ∧
      (match h.dstAt desc1, (served s .destination).resolve 0 0x2000 .write false with
        | some (some a, room), (s2, .ok r) => a == 0x2000 && min room 64 != 0 && decide (min room 64 ≤ h.hold.length) &&
            s2.beatFree 0 h 0x2000 r (min room 64) true
        | _, _ => false) = true) := by decide +kernel

/-- The destination is a block list of one entry at 0x3000, which memory holds as zeros; and a descriptor that is done. -/
def descBl : BitVec 256 := BitVec.ofNat 256 (0x1000 + 0x3000 * 2 ^ 64 + 2 ^ 128 + 2 ^ 176 + 2 ^ 201)

theorem test_meets_Channels_completes :
    (let s := runs (fun h => { h with rd := 1, wr := 1 });
      let h := s.chan 0 2;
      h.active = true ∧ h.cur = some desc1 ∧ h.complete = true ∧ (s.thread 0 1).wait = none) ∧
    (let s := runs (fun h => { h with store := [descBl] });
      let h := s.chan 0 2;
      h.active = true ∧ h.cur = some descBl ∧ h.needsEntry descBl true = some (0, 0x3000, 1, 1) ∧
      turn s (.entry true) = true ∧
      (match (served s (.entry true)).resolve 0 0x3000 .read false with
        | (s2, .ok r) => s2.beatFree 0 h 0x3000 r 16 false && r.place == .here (lmAddr 0 0x3000)
        | (_, .error _) => false) = true ∧ s.poisoned (lmAddr 0 0x3000) 16 = false ∧
      entryOk (BitVec.ofNat 128 (ofLE (Memory.readBytes s.mem (lmAddr 0 0x3000) 16))) 1 = true) := by decide +kernel

/-- A header for thread 0 of core 0 of this device with no word, one with a reserved bit; one for device 1. -/
theorem test_meets_MessageInstructions :
    go sup none = true ∧ (fld (0x8000000 : W64) 48 16 = 0 ∧ fld (0x8000000 : W64) 44 4 ≤ 8 ∧ sup.present 0 = true ∧
      sup.partOf 0 = sup.partOf 0) ∧ fld (0x1000000000000 : W64) 48 16 ≠ 0 ∧ (1 : Nat) ≠ sup.devid ∧
    (let q : List QMsg := [⟨0, ⟨0, 0, [1, 2, 3]⟩, 1, [2, 3], false⟩];
      popWords 1 q = some (none, [2], [⟨0, ⟨0, 0, [1, 2, 3]⟩, 2, [3], false⟩]) ∧ (popWords 2 q).isSome = true ∧
      popWords 2 ([] : List QMsg) = none) ∧
    (let s := on 0 (thr true) (fun k => { k with mu := k.mu.setQueue 7 [⟨0, ⟨0, 0, [1]⟩, 0, [1], false⟩] });
      (s.core 0).mu.words 7 ≠ 0 ∧ (s.core 0).mu.words 0 = 0 ∧ (s.core 0).mu.forms 0 = []) ∧
    (∀ i : Fin 8, (sup.core 0).mu.words (BitVec.ofNat 3 i.val) = 0 ∧ (sup.core 0).mu.forms (BitVec.ofNat 3 i.val) = []) := by
  decide +kernel

theorem test_meets_PennantInstructions :
    go sup none = true ∧ go usr none = true ∧ usr.supAt x0 = false ∧ (255 : W32).toNat < 256 ∧ (256 : W32).toNat ≥ 256 ∧
    (sup.thread 0 1).pmask.setWidth 32 = (0 : W32) ∧
    (let s := on 0 { thr true with pmask := 1 } (fun k => { k with penn := 1 });
      go s none = true ∧ (k0 s).penn &&& (s.thread 0 1).pmask.setWidth 32 ≠ 0) ∧
    (let s := on 0 { thr true with pmask := 1 } id;
      go s none = true ∧ (k0 s).penn &&& (s.thread 0 1).pmask.setWidth 32 = 0) := by decide +kernel

/-- `sup` with barrier 79 of its partition in a state; the thread pending there in a parity. -/
def atBar (st : Nat) (pend par : Bool) : State :=
  let s := on 0 { thr true with barPend := setBit 0 79 pend, barPar := setBit 0 79 par } id
  s.setRfld (barOff 0 79) 26 2 st

theorem test_meets_BarrierInstructions :
    (∀ st : Fin 4, ∀ pend par : Bool, go (atBar st.val pend par) none = true ∧ (atBar st.val pend par).barState 0 79 = st.val ∧
      ((atBar st.val pend par).thread 0 1).barPend.getLsbD 79 = pend) ∧
    ((sup.partOf 0).getD 0 = 0 ∧ (79 : BitVec 7).toNat ≤ 79 ∧ fld (0x1000 : W64) 0 13 = 4096 ∧ fld (0x1001 : W64) 0 13 > 4096 ∧
      fld (0x2000 : W64) 13 3 ≠ 0) ∧
    (sup.rfld (prt 0 0x130) 6 1 = 0 ∧ (sup.setRfld (prt 0 0x130) 6 1 1).rfld (prt 0 0x130) 6 1 ≠ 0 ∧
      go (sup.setRfld (prt 0 0x130) 6 1 1) none = true) := by decide +kernel

/-- An arrival at an `ARMED` barrier of count 2 that is the first, and one that is the last; a barrier whose time is over;
a thread that waits at a barrier that has broken. -/
def arr0 : BarArr := ⟨7, 0, 1, false, false⟩
def armed (arrived : Nat) : State :=
  (w.setRfld (barOff 0 7) 0 64 (2 + arrived * 2 ^ 13 + 2 ^ 26 + 5 * 2 ^ 32)).modPart 0 (fun p => { p with bars := [arr0] })

theorem test_meets_BarrierEvents :
    (∀ a ∈ [0, 1], (armed a).barState 0 7 = 1 ∧ (armed a).fbarOn 0 7 = false ∧ (armed a).isFinal 0 7 = false ∧
      (armed a).barArrived 0 7 = a ∧ (armed a).barCount 0 7 = 2 ∧
      ((armed a).part 0).bars.find? (fun a => a.bar == 7 && a.core == 0 && a.thr == 1 && !a.counted) = some arr0) ∧
    ((armed 1).barTmo 0 7 = 5 ∧ (AMap.get 0 ((armed 1).part 0).barFirst 7).toNat + 1000 * 5 ≤ (armed 1).elapsed.toNat) ∧
    (let y := { thr true with wait := some (.barr 3 7) };
      (w.setRfld (barOff 0 7) 26 2 3).barOutcome 0 7 y = some 2) := by decide +kernel

/-! ### Messages, links, steps -/

/-- `w` with core 0 as its only present core of partition 0. -/
def absent1 : State := w.setReg 0x200 0xFFFF0000FFFE0000

/-- A message of one word flies from thread 1 of core 0 to core 1 of its half. -/
def fly0 : Flight := ⟨9, .thread 0 1, 1, ⟨0, 0, [5]⟩⟩
def sends (ph : SendPhase) (ev : Bool) : State :=
  { on 0 { thr true with wait := some (.send 0x8000001 [5] 3 ph ev) } id with msgs := [fly0], nextMsg := 10 }
/-- As it is, with the queue that its tag matches full, and with it full and its ring enabled. -/
def full (ring : Bool) : State := (sends .flying false).modCore 1 (fun k =>
  { k with mu := { k.mu with
    q := Vector.replicate 8 [⟨0, ⟨0, 0, List.replicate 32 0⟩, 0, List.replicate 32 0, false⟩]
    qcfg := Vector.replicate 8 (BitVec.ofNat 64 (8 * 256 + if ring then 4 else 0)) } })

theorem test_meets_MessageArrives :
    (∀ s ∈ [sends .flying false, full false, full true], s.msgs.find? (fun f => f.id == 9) = some fly0 ∧
      s.halfRuns (coreHalf 1) = true ∧ s.present 1 = true ∧
      (s.thread 0 1).wait = some (.send 0x8000001 [5] 3 .flying false) ∧ (∀ t : Fin 4, (s.thread 1 (BitVec.ofNat 2 t.val)).wait = none)) ∧
    (let mu := ((sends .flying false).core 1).mu;
      mu.forms (mu.matchTag 0) = [] ∧ mu.words (mu.matchTag 0) + (fly0.msg.placed 0).length ≤ 32) ∧
    (∀ r : Bool, let mu := ((full r).core 1).mu;
      32 < mu.words (mu.matchTag 0) + (fly0.msg.placed (fld (mu.cfg (mu.matchTag 0)) 0 2)).length ∧
      (mu.cfg (mu.matchTag 0)).getLsbD 2 = r ∧ (mu.forms (mu.matchTag 0)).length < mu.ringRecs (mu.matchTag 0)) := by
  decide +kernel

/-- An absent core of partition 0; a `SIGNAL` of pennant 26 on its way to core 0. -/
theorem test_meets_MessageArrives_others :
    (let s := { absent1 with msgs := [fly0] };
      s.present 1 = false ∧ s.partOf 1 = some 0 ∧ s.halfRuns (coreHalf 1) = true ∧ (s.part 0).dead.length < 65535) ∧
    (let g : HostSignal := ⟨⟨1, 0, 0x40, [], 0, 0⟩, 0, 2, ⟨0, 0, []⟩, true⟩;
      let s := sup.modPart 0 (fun p => { p with signals := [g] });
      (s.part 0).signals.find? (fun g => g.pkt.id == 1) = some g ∧ s.present 0 = true) := by decide +kernel

theorem test_meets_MessageArrives_full (r : BitVec 512) (n : Nat) :
    n ≤ ((absent1.modPart 0 (fun p => { p with dead := List.replicate n r })).part 0).dead.length := by
  rw [show ((absent1.modPart 0 (fun p => { p with dead := List.replicate n r })).part 0).dead = List.replicate n r from rfl]
  simp

theorem test_meets_MessageEvents :
    (∀ ph ∈ ([.answered true, .answered false, .held, .flying, .lost] : List SendPhase),
      (sends ph false).coreRuns 0 = true ∧
      ((sends ph false).thread 0 1).wait = some (.send 0x8000001 [5] 3 ph false) ∧ (sends ph false).eventDue 0 1 = false ∧
      fld ((sends ph false).thread 0 1).swlim 0 32 ≠ 0 ∧ (sends ph false).stillAt 0 1 = true) ∧
    (0x8000001 : W64).getLsbD 27 = true ∧
    (let s := on 0 (thr true) (fun k => { k with mu := { k.mu with spForms := Vector.replicate 8 [(0, 4)] } });
      let msg := recordMsg (Memory.readBytes s.mem (lmAddr 0 ((s.core 0).mu.recOff 7 ((s.core 0).mu.head 7))) 64);
      (s.core 0).mu.forms 7 = [(0, 4)] ∧ s.poison = [] ∧ (s.core 0).mu.words 7 + (msg.placed 0).length ≤ 32 ∧
      (∀ t : Fin 4, (s.thread 0 (BitVec.ofNat 2 t.val)).wait = none)) ∧
    (let s := (regs w [(prt 0 0x108, 0x26), (prt 0 0x100, 0x10000)]).modPart 0 (fun p => { p with dead := [1] });
      (s.part 0).dead = [1] ∧ s.rfld (prt 0 0x108) 5 1 = 1 ∧
      (s.rfld (prt 0 0x110) 0 32 + 2 ^ 32 - s.rfld (prt 0 0x118) 0 32) % 2 ^ 32 < 2 ^ s.rfld (prt 0 0x108) 0 5 ∧
      s.homeUp (s.rfld (prt 0 0x100) 0 43) = true) := by decide +kernel

/-- A step that runs in partition 0, whose slot plan sends one line from core 0 east. -/
def run0 : StepRun := ⟨3, 300000, 5000, 0, false, false, false, false⟩
def prog0 : Program :=
  ⟨1, 100, 50000, 1, 15, 0, 0, 0, 1, 7, false, 0, [], [], [], [⟨0, 0, 30000⟩], [], []⟩
def stepping (f : Part → Part) : State :=
  w.modPart 0 (fun p => f { p with step := some run0, prog := some prog0, nextK := 4 })


/-- An entry of a plan: one line, one hop east. -/
def ent1 : BitVec 128 := BitVec.ofNat 128 (2 ^ 32 + 2 ^ 34 + 2 ^ 40)

theorem test_meets_LinkAndThreadEvents :
    (let s := stepping (fun p => { p with prog := some { prog0 with plans := [(0, [ent1])] } });
      s.partOf 0 = some 0 ∧ (s.part 0).step = some run0 ∧
      s.nextLine (s.part 0) (s.seamPoints prog0) 0 1 = some (false, ent1, 0, 1) ∧ hopCore 0 1 1 = some 1 ∧ s.present 1 = true ∧
      s.present 0 = true ∧ s.halfRuns 0 = true) ∧
    (let s := { stepping (fun p => { p with prog := some { prog0 with plans := [(15, [ent1])], seam := 2 } }) with partmap := 0xFF };
      s.nextLine (s.part 0) 6 15 1 = some (true, ent1, 0, 1) ∧ hopCore 15 1 1 = some 16 ∧ crosses 15 16 = true ∧
      (s.part 0).seamHeld 15 1 < 16 ∧ 0 < fld ent1 40 16 ∧ AMap.get 0 (s.part 0).link.free (4 * 15 + 1) ≤ fld ent1 0 32 ∧
      (AMap.get [] (s.part 0).link.dues (4 * coreRow 15 + 1)).length < 16 ∧
      6 / 4 ^ coreHalf 15 % 4 = 2 ∧ 6 / 4 ^ coreHalf 16 % 4 = 1) ∧
    (let l : LinkLine := ⟨0, 1, 1, 5, [], false, 70, false⟩;
      let s := stepping (fun p => { p with lines := [{ l with due := 71 }, l, l] });
      s.partOf 1 = some 0 ∧ l.bad = false ∧ firstDue ((s.part 0).lines.filter (fun l => l.dst == 1 && l.dir == 1)) = some l) ∧
    (let s := on 0 (thr true) (fun k => { k with ctl := rset k.ctl (tix 1) { ctlOn with stopReq := true } });
      s.present 0 = true ∧ s.halfRuns 0 = true ∧ s.stillAt 0 1 = true ∧ (s.thread 0 1).wait = none ∧
      (s.thread 0 1).rptOn = false ∧ (s.ctl 0 1).stopReq = true) ∧
    (let s := on 0 { thr true with stat := 5, imask := 0x8001 } (fun k => { k with penn := 0x80010000 });
      s.stillAt 0 1 = true ∧ (s.ctl 0 1).stopped = false ∧ (s.thread 0 1).stat.getLsbD 2 = true ∧
      (s.thread 0 1).stat.getLsbD 4 = false ∧ (k0 s).penn.getLsbD (16 + 15) = true ∧ (s.thread 0 1).imask.getLsbD 15 = true) ∧
    (let s := on 0 { thr true with pmask := 2, wait := some (.pwait 3 7 true) } (fun k => { k with penn := 2 });
      (k0 s).penn &&& (s.thread 0 1).pmask.setWidth 32 ≠ 0 ∧ (s.thread 0 1).wait = some (.pwait 3 7 true) ∧ s.coreRuns 0 = true ∧
      s.wokenFirst 0 1 = false ∧ s.plainWoken 0 1 = false) := by decide +kernel

/-- `w` with core 0 as its only present core. -/
def lone : State :=
  regs w ((0x200, 0xFFFF0000FFFE0000) :: (List.range 31).map (fun r => (0x208 + 8 * r, 0xFFFF0000FFFF0000)))

/-- Step 4 is due, and starts; the one that runs ends, is broken, lasts too long. -/
theorem test_meets_StepEvents :
    (w.dstate ≠ 0 ∧ w.west.window = false ∧ w.east.window = false) ∧
    (let s := { w with devtime := 1000000 };
      s.pstate 0 = 2 ∧ s.dstate ≠ 7 ∧ s.t0 0 + (s.part 0).nextK * s.period 0 ≤ s.devtime.toNat ∧
      (s.part 0).step = none ∧ s.consHold 0 = false) ∧
    (let s := w.setRfld 0x80400 8 1 1;
      s.consHold 0 = true ∧ (s.modPart 0 (fun p => { p with nextK := p.nextK + 1 })).auditSeam = none) ∧
    (let s := stepping (fun p => { p with finalDone := true });
      (s.part 0).finalDone = true ∧ (s.part 0).items = [] ∧ run0.broken = false) ∧
    (let s := lone.modPart 0 (fun p => { p with step := some { run0 with broken := true }, finalSeen := [0] });
      s.partCores 0 = [0] ∧ (s.part 0).finalSeen = [0]) ∧
    (let s := stepping id;
      (s.part 0).finalDone = false ∧ 30000 ≤ (s.elapsed - run0.began).toNat ∧ s.rfld (prt 0 0x18) 0 32 = 50000 ∧
      s.period 0 ≤ (s.elapsed - run0.began).toNat ∧ run0.late = false ∧ run0.banded = false) ∧
    ((w.modPart 0 (fun p => { p with snap := some (3, [1]) })).part 0).snap = some (3, [1]) := by decide +kernel

/-- A packet of ring pair 0 of whole slots: its opcode, and fields of bytes at offsets. -/
def setBytes (bs : List Byte) (off : Nat) (v : List Byte) : List Byte := bs.take off ++ v ++ bs.drop (off + v.length)
def pk (op slots : Nat) (fs : List (Nat × Nat × Nat)) : Packet :=
  ⟨1, 0, op, fs.foldl (fun b f => setBytes b f.1 (toLE f.2.1 f.2.2)) (setBytes (List.replicate (64 * slots) 0) 0
    (toLE 1 op ++ [0] ++ toLE 1 slots)), 0, 0⟩

/-- An item of berth 16 of class 0. -/
def item0 : Item :=
  { pkt := pk 0x21 2 [], cls := 0, berth := some 16, named := true, steps := 3, weight := 1, deadline := 0, accepted := 0
    promise := 0, k0 := 9, done := 0, running := false, started := false, cancelled := false, broken := false
    rest := none, causes := [] }

/-- The items of a step: one that runs, and one that was cancelled while it ran. -/
def twoItems : List Item :=
  [{ item0 with running := true }, { item0 with pkt := { item0.pkt with id := 5 }, running := true, cancelled := true }]

theorem test_meets_StepEvents_items :
    (∀ i ∈ twoItems, i.pkt.part = 0) ∧ (∃ i ∈ twoItems, i.running = true ∧ i.cancelled = true) ∧
    ((stepping id).part 0).items = [] ∧
    (let s := (stepping (fun p => { p with items := [{ item0 with running := true }] })).setCore 0
        { Core.reset with ctl := rset Core.reset.ctl (tix 1) ctlOn };
      (s.part 0).items.all (fun i => !i.cancelled) = true ∧ 0 ∈ s.partCores 0 ∧ (s.ctl 0 1).stopped = false ∧
        (s.ctl 0 1).halted = false ∧ (s.thread 0 1).barPend.getLsbD prog0.finalBar = false) ∧
    (∀ t : Fin 4, ((stepping id).thread 0 (BitVec.ofNat 2 t.val)).waitsOpen = false) ∧ lone.partCores 0 = [0] := by decide +kernel

/-- A step starts at the boundary that is due. -/
def due : State := { (lone.modPart 0 (fun p => { p with prog := some prog0, nextK := 4 })) with devtime := 1000000 }
def due2 : State :=
  (((due.modPart 0 (fun p => { p with nextK := 5 })).configBoundary 0).pointBoundary 0 400000).1.berthBoundary 0

theorem test_meets_StepEvents_start :
    due.t0 0 + (due.part 0).nextK * due.period 0 ≤ due.devtime.toNat ∧ (due.part 0).step = none ∧
    (due.modPart 0 (fun p => { p with nextK := 5 })).audit 0 none = none ∧
    (due.modPart 0 (fun p => { p with nextK := 5 })).auditSeam = none ∧ due.consHold 0 = false ∧ due2.pstate 0 = 2 ∧ due2.dstate = 6 ∧
    due2.meetsDecl 0 = true := by decide +kernel

/-! ### Rings, packets, berths and moorings -/

/-- Pages of 2 MiB: virtual 0x200000 is at 0x400000 of tier 1, all allowed. Four berths from 16, two indices, one class
open; ring pair 0 has both rings enabled, the host reads and writes, and pair 0 is privileged. -/
def mapped : State :=
  { regs w [(prt 0 0x80, 0x1000), (prt 0 0x88, 3), (prt 0 0xA0, 0x200000), (prt 0 0xA8, 0x4000000300000),
      (prt 0 0xB0, 0x20000), (prt 0 0xB8, 0x10000000000), (prt 0 0x30, 0x40010), (prt 0 0x40, 0x80020001),
      (prt 0 0x50, 0x1000000010), (0x20000, 10000), (0x10028, 0x200), (rg 0 8, 0x46), (rg 0 0x20, 0x46),
      (rg 0 0x10, 0x2)] with
    mem := Memory.writeBytes (Memory.writeBytes [] 0x1000 (toLE 8 0x2003)) 0x2008 (toLE 8 0x40001F)
    link := { State.reset.link with bme := 1, msixOn := 1 } }

theorem test_maps : mapped.devAddr 0 0x200040 .write = some 0x400040 ∧ mapped.inBerths 0 19 = true ∧
    mapped.inBerths 0 20 = false ∧ mapped.inIdx 0 1 = true := by decide +kernel

def withFw (s : State) (p : Packet) : State := { s with fwq := [p] }
/-- CP0 takes it. -/
def takes (s : State) (p : Packet) (l : List PField) : Bool :=
  (withFw s p).fwNext 0 p.op == some p && s.dstate == 6 && (p.bad l).isNone

/-- Restores into berth 16 from index 0, whose record has no page, and from index 1, which holds none. -/
def rest0 (idx : Nat) (st : Bool) : Restore := ⟨idx, 4000, 9000, st, false, 0⟩
def restoring (idx : Nat) (st : Bool) : State :=
  let m := { mapped with mem := Memory.writeBytes mapped.mem 0x10000000000 (recHeader 0 0 0 (List.replicate 64 0) [] []) }
  m.modPart 0 (fun p => { p with items := [{ item0 with rest := some (rest0 idx st) }] })

set_option maxRecDepth 100000 in
theorem test_meets_MooringEvents_starts :
    (∀ st : Bool, (restoring 0 st).restItem 0 = some ({ item0 with rest := some (rest0 0 st) }, rest0 0 st)) ∧
    (4000 ≤ (restoring 0 false).devtime.toNat) ∧ (({ restoring 1 true with poison := [0x10000041000 + 0x80] }).restoreInto 0 16 1).2.isSome = true ∧
    ((restoring 1 true).restoreInto 0 16 1).2.isSome = true ∧ item0.pkt.part = 0 := by
  decide +kernel

set_option maxRecDepth 100000 in
theorem test_meets_MooringEvents_ends : ((restoring 0 true).restoreInto 0 16 0).2.isNone = true := by decide +kernel

/-- A `MOOR` of berth 16 into index 1: its page list is empty, or does not translate. -/
def mooring (b : Nat) : State :=
  mapped.modPart 0 (fun p => { p with moors := [(⟨pk 0x24 1 [], 0, .moor b 1⟩, true)] })

/-- The page list of berth 16 has one page, at the line of tier 1 that is uncorrectable. -/
def paged : State :=
  { mapped with
    mem := Memory.writeBytes (Memory.writeBytes mapped.mem 0x400002 (toLE 2 1)) 0x400040 (toLE 8 0x210000 ++ toLE 8 64)
    poison := [0x410000] }

theorem test_meets_MooringEvents_poison :
    (match paged.pageList 0 16 with
      | some es => es.length == 1 && (paged.pageData 0 es).isNone && paged.pagePoison 0 es == some 0x410000
      | none => false) = true := by decide +kernel

theorem test_meets_MooringEvents_moors :
    (∀ b ∈ [16, 0x8020], ((mooring b).part 0).moors.find? (·.2) = some (⟨pk 0x24 1 [], 0, .moor b 1⟩, true)) ∧
    mapped.pageList 0 16 = some [] ∧ mapped.pageData 0 [] = some [] ∧ (mapped.devRead 0 (mapped.blockAddr 0 16) 64).isSome = true ∧
    mapped.rangeUp (mapped.slotAddr 0 1) 4096 = true ∧ mapped.pageList 0 0x8020 = none := by decide +kernel

theorem test_meets_Doorbells :
    mapped.pins.perst = true ∧ mapped.outOfReset = true ∧ mapped.fnOf (255 / 32) = 0 ∧ (mapped.setReg 0x10008 0x118).vfOn 8 = true ∧ mapped.sqEn 0 = true ∧ mapped.cqEn 0 = true ∧
    w.sqEn 0 = false ∧ w.cqEn 0 = false ∧ cdiff 64 (mapped.sqTail 0) ≤ mapped.sqSize 0 - cdiff (mapped.sqTail 0) (mapped.sqHead 0) ∧
    mapped.sqSize 0 - cdiff (mapped.sqTail 0) (mapped.sqHead 0) < cdiff 65 (mapped.sqTail 0) ∧
    cdiff 0 (mapped.cqCons 0) ≤ cdiff (mapped.cqProd 0) (mapped.cqCons 0) ∧
    cdiff (mapped.cqProd 0) (mapped.cqCons 0) < cdiff 1 (mapped.cqCons 0) := by decide +kernel

/-- The ring holds two slots: padding, a packet of each kind, and headers with a framing error; a completion that leaves;
a coalesced message. -/
theorem test_meets_RingTraffic :
    mapped.mayRead 0 = true ∧ mapped.inTurn 0 [] = true ∧ mapped.entriesUsed 0 + 2 ≤ 8192 ∧ mapped.fwq.length < 128 ∧ mapped.sluice.length < 64 ∧
    (∀ n ∈ [1, 2], n ≤ mapped.sqSize 0 - mapped.sqHead 0 % mapped.sqSize 0 ∧ n ≤ cdiff (mapped.sqTail 0) (mapped.sqHead 0)) ∧
    0 ∉ mapped.link.framed ∧ cdiff (mapped.sqTail 0) (mapped.sqHead 0) < mapped.sqSize 0 - mapped.sqHead 0 % mapped.sqSize 0 ∧
    (let s := { mapped with link := { mapped.link with framed := [0] } }.setReg (rg 0 0x10) (BitVec.ofNat 64 (2 ^ 32 * 62 + 64));
      s.mayRead 0 = true ∧ s.inTurn 0 [] = true ∧ 0 ∈ s.link.framed ∧ s.sqSize 0 - s.sqHead 0 % s.sqSize 0 = 2 ∧ cdiff (s.sqTail 0) (s.sqHead 0) = 2 ∧
        (s.setReg (rg 0 0x10) (BitVec.ofNat 64 (2 ^ 32 * 62 + 63))).mayRead 0 = true) ∧
    (opSlots 0x7F = none ∧ opSlots 0x01 = some (1, 1) ∧ opSlots 0x22 = some (1, 1) ∧ (1 : Nat) < 2) ∧ ofLE (((pk 0x21 2 []).bytes.drop 2).take 1) = 2 ∧
    (pk 0x21 2 [(16, 2, 16), (20, 4, 1)]).bad (mapped.submitFields (pk 0x21 2 [(16, 2, 16), (20, 4, 1)])) = none ∧
    (pk 0x22 1 [(20, 2, 16)]).bad (mapped.cancelFields (pk 0x22 1 [(20, 2, 16)])) = none ∧
    (let s := { mapped with compl := [(pk 0x01 1 []).reply 0 0] };
      s.compl.find? (fun c => c.ring == 0) = some ((pk 0x01 1 []).reply 0 0) ∧ s.hostUp 0 = true ∧ s.cqEn 0 = true ∧ 1 ≤ s.cqFree 0 ∧
      ((pk 0x01 1 []).reply 0 0).extra = [] ∧ s.rfld (rg 0 0x20) 7 1 = 0 ∧ ((pk 0x01 1 []).reply 0 0).after = []) ∧
    (let s := { regs w [(rg 0 0x20, 0x10004C6)] with
        link := { State.reset.link with bme := 1, msixOn := 1, coal := [(0, (3, 0))] } };
      let s := (s.setRfld (rg 0 0x20) 28 12 5).setReg (msixEntry 4 + 8) 0;
      AMap.get (0, 0) s.link.coal 0 = (3, 0) ∧ s.rfld (rg 0 0x20) 7 1 = 1 ∧ s.rfld (rg 0 0x20) 28 12 = 5 ∧
      (0 : W64).toNat + 1000 * 5 ≤ s.elapsed.toNat ∧ s.rfld (rg 0 0x20) 8 11 = 4 ∧
      (s.reg (msixEntry 4 + 8)).getLsbD 32 = false ∧ s.fnSends (s.fnOf 0) = true) := by decide +kernel

/-- A completion of two slots in the last slot of the ring, and one of one slot; the third and the second of `COAL_CNT` 3,
its vector masked or not; a ring without `IEN`. -/
def completing (ien count : Nat) (two mask : Bool) : State :=
  let s := { (mapped.setReg (rg 0 0x20) (BitVec.ofNat 64 (0x446 + ien * 128 + 3 * 2 ^ 20))) with
    compl := [{ (pk 0x02 1 []).reply 0 0 with extra := if two then [toLE 8 1] else [] }] }
  (({ s with link := { s.link with coal := [(0, (count, 7))] } }.setReg (rg 0 0x28) 0x3F0000003F).setReg (msixEntry 4 + 8)
    (if mask then 0x100000000 else 0))

theorem test_meets_RingTraffic_completions :
    (∀ ien : Fin 2, ∀ count ∈ [1, 2], ∀ two mask : Bool, let s := completing ien.val count two mask;
      let n := if two then 2 else 1;
      s.cqEn 0 = true ∧ s.hostUp 0 = true ∧ s.rfld (rg 0 0x20) 7 1 = ien.val ∧
      s.compl.all (fun c => c.ring == 0 && c.after == [] && 1 + c.extra.length == n) = true ∧ s.compl.length = 1 ∧
      s.cqSize 0 - s.cqProd 0 % s.cqSize 0 = 1 ∧ (if n ≤ 1 then 0 else 1) + n ≤ s.cqFree 0 ∧
      (AMap.get (0, 0) s.link.coal 0).1 = count ∧ (decide (max 1 (s.rfld (rg 0 0x20) 20 8) ≤ count + 1) = (count == 2)) ∧
      s.rfld (rg 0 0x20) 8 11 = 4 ∧ (s.reg (msixEntry 4 + 8)).getLsbD 32 = mask ∧ s.fnSends (s.fnOf 0) = true) := by
  decide +kernel

def sg : Packet := pk 0x40 1 [(16, 2, 0)]
def sgS : State := { mapped with fast := [sg] }

theorem test_meets_PacketQueries :
    (let s := { mapped with fast := [pk 0x01 1 []] };
      s.fastHead 0 0x01 = some (pk 0x01 1 []) ∧ (pk 0x01 1 []).bad [] = none ∧ (pk 0x01 1 [(63, 1, 1)]).bad [] = some 63) ∧
    (sgS.fastHead 0 0x40 = some sg ∧ sg.bad (sgS.signalFields sg) = none ∧ mapped.dstate = 6 ∧ mapped.present 0 = true ∧
      mapped.pstate 0 ≠ 0 ∧ (mapped.setPstate 0 0).pstate 0 = 0) ∧
    (∀ f ∈ ([(0, 0), (1, 0), (2, 16), (2, 19), (3, 1)] : List (Nat × Nat)),
      takes mapped (pk 0x02 1 [(16, 1, f.1), (20, 4, f.2)]) (mapped.queryFields (pk 0x02 1 [(16, 1, f.1), (20, 4, f.2)])) = true) ∧
    ((mapped.modPart 0 (fun p => { p with items := [item0] })).part 0).items.find? (fun i => i.berth == some 16) = some item0 ∧
    takes mapped (pk 0x03 1 [(16, 1, 1)]) [⟨16, 1, true⟩] = true ∧
    (let j : Job := ⟨pk 0x03 1 [(16, 1, 1)], 7, .fence⟩;
      let s := { mapped with jobs := [j] };
      s.jobs.find? (fun j => j.pkt.ring == 0 && j.kind == .fence && s.fenceOpen j.pkt) = some j) ∧
    takes mapped (pk 0x50 1 [(16, 1, 4)]) (traceFields (pk 0x50 1 [(16, 1, 4)])) = true ∧
    (∀ f ∈ ([(0, 1), (0, 0x100000), (1, 0), (1, 0x100000)] : List (Nat × Nat)),
      takes mapped (pk 0x51 1 [(16, 1, f.1), (24, 4, f.2)]) [⟨8, 8, true⟩, ⟨16, 1, true⟩, ⟨24, 4, true⟩] = true) ∧ (pk 0x51 1 []).param.toNat % 64 = 0 ∧
    (1 < 256 + 704 * 512 ∧ 256 + 704 * 512 ≤ 0x100000) := by decide +kernel

/-- A `SUBMIT` of one step of weight 1 of class 0 into berth 16, which is open, with its deadline at the end of time; items
that a `CANCEL` names. -/
def submit0 (steps : Nat) : Packet := pk 0x21 2 [(8, 8, 2 ^ 63), (16, 2, 16), (20, 4, steps), (24, 1, 1)]
def opened (st : BerthState) : State :=
  mapped.modPart 0 (fun p => { p with berths := [(16, ⟨st, 0, none⟩)], prog := some prog0, items := [item0] })
def queued (p : Packet) : State := { opened .opened with sluice := [p] }

theorem test_meets_Admission_submits :
    (∀ n ∈ [0, 1], nextSubmit (queued (submit0 n)).sluice = some (submit0 n)) ∧
    (let s := queued (submit0 1);
      s.mayDecide = true ∧ s.pstate 0 = 2 ∧ s.overrun 0 = false ∧ s.clsOpen 0 0 = true ∧ s.clsOpen 0 1 = false ∧
      (submit0 1).cls < 3 ∧ (submit0 1).moored = false ∧ (submit0 1).num 16 2 ≠ 0xFFFF ∧ (s.berth 0 16).st = .opened ∧
      (s.berth 0 16).cls = 0 ∧ s.below 0 = false ∧ (submit0 1).num 20 4 ≠ 0 ∧ (submit0 0).num 20 4 = 0 ∧
      (s.devtime.toNat + s.rfld 0x20000 0 16 - s.t0 0 + s.period 0 - 1) / s.period 0 = 1 ∧
      (s.search (submit0 1) 0 256 1).isSome = true) ∧ (mapped.setRfld (prt 0 0x70) 56 1 1).overrun 0 = true := by decide +kernel

/-- Berths 16 to 19, the first `a` of which are held by class 0 and the rest by class `c`. -/
def heldOf (a c : Nat) : State :=
  mapped.modPart 0 (fun p => { p with
    berths := (List.range 4).map (fun i => (16 + i, ⟨.opened, if i < a then 0 else c, none⟩)), prog := some prog0 })
/-- A `SUBMIT` of `BERTH_ANY` of a class, which may name index 1; index 1 is `MOORED`, and the partition has a share. -/
def anySubmit (c flags : Nat) : Packet := pk 0x21 2 [(1, 1, flags), (3, 1, c), (8, 8, 2 ^ 63), (16, 2, 0xFFFF), (20, 4, 1), (24, 1, 1),
  (28, 2, flags / 2)]
def moored1 (s : State) : State := (s.setReg (prt 0 0xB0) 0xA00020000).setIdx 1 2
/-- Class 3 is open. -/
def bulkOpen (s : State) : State := s.setReg (prt 0 0x48) 0x8002000000000000

theorem test_meets_Admission_any :
    (let p := anySubmit 0 0;
      nextSubmit [p] = some p ∧ p.cls < 3 ∧ p.moored = false ∧ p.num 16 2 = 0xFFFF ∧ p.num 20 4 ≠ 0 ∧
      (opened .opened).freeBerth? 0 = some 17 ∧ ¬(opened .opened).maxBerths 0 0 < (opened .opened).heldBy 0 0 + 1 ∧
      ¬(opened .opened).sharedBerths 0 < (opened .opened).sharedUsed 0 + 1) ∧
    ((heldOf 2 1).maxBerths 0 0 < (heldOf 2 1).heldBy 0 0 + 1) ∧
    (let s := (opened .opened).setReg (prt 0 0x30) 0x10010;
      ¬s.maxBerths 0 0 < s.heldBy 0 0 + 1 ∧ s.rsvBerths 0 0 ≤ s.heldBy 0 0 ∧ s.sharedBerths 0 < s.sharedUsed 0 + 1) ∧
    (let s := heldOf 0 1;
      s.freeBerth? 0 = none ∧ ¬s.maxBerths 0 0 < s.heldBy 0 0 + 1 ∧ ¬s.rsvBerths 0 0 ≤ s.heldBy 0 0) := by decide +kernel

theorem test_meets_Admission_moored :
    (let p := anySubmit 0 2;
      let s := moored1 (opened .opened);
      p.moored = true ∧ p.num 28 2 = 1 ∧ s.idxState 1 = 2 ∧ (opened .opened).idxState 1 ≠ 2 ∧ s.t2slots 0 = 5 ∧
      (opened .opened).t2slots 0 = 0 ∧ s.freeBerth? 0 = some 17 ∧ s.below 0 = false ∧
      (s.search p 0 256 1).isSome = true ∧
      (let far := s.setReg (prt 0 0xD8) 100000000;
        256 < ((far.reg (prt 0 0xD8)).toNat + 1500) / far.period 0)) ∧
    ((opened .opened).modPart 0 (fun p => { p with prog := some { prog0 with decl := 15 } })).below 0 = true ∧
    (let p := { anySubmit 0 1 with bytes := setBytes (anySubmit 0 1).bytes 24 [200] };
      let s := opened .opened;
      p.late = true ∧ s.search p 0 256 1 = none ∧ s.overMax 0 0 200 0 1 1 = true) ∧
    ((anySubmit 0 0).num 8 8 = 2 ^ 63 ∧ (opened .opened).search { anySubmit 0 0 with bytes := setBytes (anySubmit 0 0).bytes 8 (toLE 8 0) } 0 256 1 = none) := by
  decide +kernel

theorem test_meets_Admission_bulk :
    (let s := bulkOpen (heldOf 2 3);
      s.clsOpen 0 3 = true ∧ (anySubmit 3 0).cls = 3 ∧ (s.berth 0 18).st = .opened ∧ (s.berth 0 18).cls = 3 ∧ s.bulkCount 0 < 1024 ∧
      s.maxBerths 0 3 < s.heldBy 0 3 + 1) ∧
    (let s := bulkOpen (heldOf 4 0);
      ¬s.maxBerths 0 3 < s.heldBy 0 3 + 1 ∧ s.sharedBerths 0 < s.sharedUsed 0 + 1) ∧
    (let s := bulkOpen (heldOf 0 1);
      ¬s.maxBerths 0 3 < s.heldBy 0 3 + 1 ∧ s.freeBerth? 0 = none) ∧
    (let s := moored1 (bulkOpen (opened .opened));
      (anySubmit 3 2).moored = true ∧ s.idxState 1 = 2 ∧ ¬s.maxBerths 0 3 < s.heldBy 0 3 + 1 ∧
      ¬s.sharedBerths 0 < s.sharedUsed 0 + 1 ∧ s.freeBerth? 0 = some 17 ∧ s.t2slots 0 ≠ 0 ∧
      (bulkOpen (opened .opened)).t2slots 0 = 0) := by decide +kernel

theorem test_meets_Admission_queue :
    1024 ≤ (mapped.modPart 0 (fun p => { p with items := List.replicate 1024 { item0 with cls := 3, berth := none } })).bulkCount 0 := by
  decide +kernel

theorem test_meets_Admission_cancels :
    (∀ f ∈ ([(item0, 16), ({ item0 with running := true, started := true }, 16)] : List (Item × Nat)),
      let c := pk 0x22 1 [(20, 2, f.2)];
      let s := { mapped.modPart 0 (fun p => { p with items := [f.1] }) with sluice := [c] };
      nextCancel (s.sluice.filter (fun q => q.ring != 0)) (s.sluice.filter (fun q => q.ring == 0)) = some c ∧
      s.mayDecide = true ∧ s.dstate = 6 ∧ s.cancelTarget 0 (c.num 16 4) (c.num 20 2) = some f.1 ∧ f.1.cancelled = false ∧
      f.1.broken = false ∧ mapped.cancelTarget 0 (c.num 16 4) (c.num 20 2) = none) := by decide +kernel

theorem test_meets_Admission_ends :
    (let s := stepping (fun p => { p with finalDone := true, items := [{ item0 with running := true, started := true, steps := 1 }] });
      s.itemEnds { item0 with running := true, started := true, steps := 1 } = true) ∧
    mapped.itemEnds { item0 with running := true, started := true } = false := by decide +kernel

theorem test_meets_PacketBerths :
    (let p := pk 0x20 1 [(16, 2, 17)];
      takes (opened .free) p [⟨3, 1, true⟩, ⟨16, 2, (opened .free).inBerths 0 17⟩, ⟨32, 32, true⟩] = true) ∧
    (mapped.mayDecide = true ∧ mapped.pstate 0 ≠ 0 ∧ mapped.clsOpen 0 0 = true ∧ mapped.clsOpen 0 3 = false) ∧
    ((opened .opened).berth 0 16).held = true ∧ ((opened .opened).berth 0 17).held = false ∧
    (opened .opened).heldBy 0 0 = 1 ∧ (opened .opened).maxBerths 0 0 = 2 ∧ mapped.heldBy 0 0 < mapped.rsvBerths 0 0 ∧
    (opened .opened).sharedUsed 0 < (opened .opened).sharedBerths 0 ∧
    (let s := mapped.modPart 0 (fun p => { p with berths := [(16, ⟨.opened, 0, none⟩), (17, ⟨.opened, 0, none⟩)] });
      s.maxBerths 0 0 ≤ s.heldBy 0 0) ∧
    (let s := (opened .opened).setReg (prt 0 0x30) 0x10010;
      s.heldBy 0 0 < s.maxBerths 0 0 ∧ s.rsvBerths 0 0 ≤ s.heldBy 0 0 ∧ s.sharedBerths 0 ≤ s.sharedUsed 0) ∧
    takes mapped (pk 0x23 1 [(16, 2, 16)]) [⟨16, 2, mapped.inBerths 0 16⟩] = true ∧
    takes mapped (pk 0x24 1 [(16, 2, 16), (20, 2, 1)]) [⟨16, 2, mapped.inBerths 0 16⟩, ⟨20, 2, mapped.inIdx 0 1⟩] = true ∧
    (opened .opened).moorBad 0 16 = none ∧ (opened .opened).idxState 1 = 0 ∧ ((opened .opened).setIdx 1 2).idxState 1 = 2 ∧
    takes mapped (pk 0x25 1 [(20, 2, 1)]) [⟨20, 2, mapped.inIdx 0 1⟩] = true := by decide +kernel

theorem test_meets_PacketCopies :
    (∀ op ∈ [0x30, 0x31, 0x32], ∀ f ∈ ([(0x200000, 0), (0x200000, 8), (0x80000, 8)] : List (Nat × Nat)),
      takes mapped (pk op 1 [(16, 8, f.1), (24, 4, f.2)]) [⟨8, 8, true⟩, ⟨16, 8, true⟩, ⟨24, 4, true⟩] = true) ∧
    mapped.devBad 0 0x200000 8 .write false = none ∧ mapped.devBad 0 0x80000 8 .read false = some 0x80000 ∧
    (∀ op ∈ [0x30, 0x31, 0x32],
      let j : Job := ⟨pk op 1 [(16, 8, 0x200000), (24, 4, 8)], 0, .copy [(0x400000, 8)]⟩;
      j.pkt.num 24 4 = 8 ∧ mapped.homeUp 0x400000 = true ∧ mapped.poisoned 0x400000 8 = false) ∧
    (let h : HSig := ⟨0, 1, 2, 3, 4⟩;
      let s := mapped.modPart 0 (fun p => { p with hsigs := [h] });
      (s.part 0).hsigs = [h] ∧ s.cqEn (64 * 0 + s.rfld (prt 0 0x130) 0 6) = true ∧ 1 ≤ s.cqFree 0 ∧ s.cores = []) := by
  decide +kernel

/-! ### Configuration, partitions, faults, power -/

def bytesAt (n : Nat) (fs : List (Nat × Nat × Nat)) : List Byte :=
  fs.foldl (fun b f => setBytes b f.1 (toLE f.2.1 f.2.2)) (List.replicate n 0)

/-- An image of a `PROGRAM` for partition 0's sections and its cost table; one of a `DEVICE` section. -/
def image0 : List Byte := bytesAt 448 [(6, 2, 2), (64, 2, 0x20), (68, 4, 128), (72, 4, 256), (80, 2, 0x23), (84, 4, 384),
  (88, 4, 16), (128, 4, 100), (132, 4, 30000), (140, 1, 15), (141, 1, 1), (142, 1, 14), (144, 1, 16), (384, 2, 1), (392, 4, 30000)]
def image8 : List Byte := bytesAt 256 [(6, 2, 1), (64, 2, 0x10), (68, 4, 128), (72, 4, 128), (228, 8, 0xF00F)]
def stagedS : State := { mapped with staged := [(0, image0), (8, image8)] }

theorem test_meets_PacketConfig_stages :
    (let p := pk 0x10 1 [(24, 4, 13)];
      takes mapped p [⟨8, 8, true⟩, ⟨24, 4, true⟩] = true ∧ mapped.stageScope (List.replicate 64 0) p = true) ∧
    (takes mapped (pk 0x10 1 [(24, 4, 0)]) [⟨8, 8, true⟩, ⟨24, 4, true⟩] = true) ∧
    mapped.stageMib * 2 ^ 20 < 0xFFFFFFFF ∧ 13 ≤ mapped.stageMib * 2 ^ 20 ∧
    imgBad (List.replicate 64 0) .command = some 0 := by decide +kernel

theorem test_meets_PacketConfig_commits :
    (∀ sel ∈ [0, 8], takes stagedS (pk 0x11 1 [(16, 1, sel)]) [⟨8, 8, true⟩, ⟨16, 1, true⟩] = true ∧
      stagedS.otherScope (pk 0x11 1 [(16, 1, sel)]) = true) ∧
    stagedS.sects 0 ≠ 0 ∧ stagedS.commitBad 0 image0 (programOf image0) = none ∧ (stagedS.setPstate 0 1).pstate 0 ≤ 1 ∧
    (stagedS.part 0).items = [] ∧ mapped.stagedFor 0 = [] ∧ mapped.stagedFor 8 = [] := by decide +kernel

theorem test_meets_PacketConfig_commits_device :
    (let s := stagedS.setReg 0x10 0x60005;
      let d := deviceOf image8 128;
      s.dstate = 5 ∧ s.deviceStop d 1 = none ∧ s.slotsOk d = true) := by decide +kernel

theorem test_meets_PacketConfig_registers :
    (∀ sel ∈ [0, 1, 2, 3], takes mapped (pk 0x50 1 [(16, 1, sel)]) (traceFields (pk 0x50 1 [(16, 1, sel)])) = true) ∧
    (mapped.regWrites [(trc 0 0, 0x1000), (trc 0 8, 0x2A)]).isSome = true ∧ mapped.regWrites [(trc 0 0x18, 1)] = none ∧
    (∀ sel ∈ [1, 2, 3], takes mapped (pk 0x62 1 [(16, 1, sel), (17, 1, 2)]) [⟨16, 1, true⟩, ⟨17, 1, true⟩] = true) ∧
    mapped.privScope (pk 0x62 1 []) = true ∧ mapped.reqRefused 0 2 = false ∧ mapped.reqRefused 0 3 = true ∧
    (∀ f ∈ ([(0, 1), (1, 2), (2, 1), (3, 1), (4, 1), (5, 1), (6, 1)] : List (Nat × Nat)),
      takes mapped (pk 0x70 f.2 [(16, 1, f.1)]) (fabFields (pk 0x70 f.2 [(16, 1, f.1)])) = true) := by decide +kernel

/-- `HOLD_PARTITION` and its release of partitions in each state; a reset; a commit whose time has come. -/
theorem test_meets_PartitionControl :
    (∀ f ∈ [0, 1], ∀ n ∈ [0, 7], let p := pk 0x61 1 [(16, 1, n), (17, 1, f)];
      takes mapped p [⟨16, 1, true⟩, ⟨17, 1, true⟩] = true ∧ mapped.otherScope p = true) ∧
    (mapped.pstate 0 = 2 ∧ (mapped.part 0).step = none ∧ mapped.pstate 1 = 1 ∧ mapped.noHold 1 = true ∧ mapped.pstate 7 = 0 ∧
      (mapped.setRfld 0x80420 8 1 1).noHold 1 = false ∧ (stepping id).pstate 0 = 2 ∧ ((stepping id).part 0).step.isSome = true) ∧
    (mapped.mayDecide = true ∧ takes mapped (pk 0x60 1 [(16, 1, 7)]) [⟨16, 1, true⟩] = true ∧
      mapped.otherScope (pk 0x60 1 [(16, 1, 7)]) = true) ∧
    (let c : Commit := ⟨prog0, some 4000, ⟨pk 0x11 1 [], 0, .commit 0⟩⟩;
      let s := mapped.modPart 0 (fun p => { p with commits := [c] });
      (s.part 0).commits.find? (fun c => match c.t0 with | some t => t ≤ s.devtime | none => false) = some c ∧
        (s.part 0).step = none ∧ s.hardWork 0 = false ∧ (s.modPart 0 (fun p => { p with items := [item0] })).hardWork 0 = true) := by
  decide +kernel

def inState (d : Nat) : State := w.setReg 0x10 (0x60000 + BitVec.ofNat 64 d)
def halfAt (x : Half) : State := { w with west := x }

/-- `BOOT`, `HOLD` and `RUN`, which faults of every kind leave for `FAULT`; windows that are over. -/
theorem test_meets_FaultEntry :
    (2 ≤ (inState 2).dstate ∧ 4 ≤ (inState 4).dstate ∧ (inState 6).dstate ≠ 7) ∧ (179 : BitVec 12).toNat < 180 ∧
    (1619 : BitVec 12).toNat < 1620 ∧ w.inWindow 0 = false ∧ w.pins.porst = true ∧ w.pins.therm = false ∧ w.boot.held = true ∧
    (inState 7).dstate = 7 ∧ (State.reset.dstate = 1 ∧ State.reset.pins.porst = true) ∧
    (w.modPart 0 (fun p => { p with lines := [⟨0, 1, 1, 5, [], false, 70, true⟩] })).auditSeam.isSome = true ∧
    (let s := halfAt { Half.reset with window := true, pg := false };
      (s.half 0).window = true ∧ s.inWindow 0 = false ∧ (s.half 0).pg = false) := by decide +kernel

theorem test_meets_ErrorEvents :
    (3 ≤ w.dstate ∧ w.rfld 0x40000 (32 + 23) 1 = 1 ∧ w.rfld 0x40000 32 1 = 1) ∧
    (4 ≤ w.dstate ∧ w.homeUp 0 = true ∧ inTier1 0x5FFFFFFFFF = true ∧ inTier2 0x10000000000 = true ∧
      w.homeUp 0x10000000000 = true) ∧
    (let s := (lone.setReg 0x80800 1);
      (s.reg (0x80800 + 8 * (0 / 64))).getLsbD 0 = true ∧ s.rfld 0x80030 0 1 = 1 ∧ s.present 0 = true ∧ s.partOf 0 = some 0 ∧
      (s.part 0).step = none ∧ ((s.modPart 0 (fun p => { p with step := some run0 })).part 0).step = some run0) := by
  decide +kernel

theorem test_meets_PowerEvents :
    (w.stM (halfop 0) &&& ~~~0xC = 0 ∧ w.stM (halfop 1) &&& ~~~0xC = 0 ∧ w.cp1Runs = true ∧ 2 ≤ w.dstate) ∧
    (let s := halfAt { Half.reset with lowDue := some 7 };
      (s.half 0).lowDue = some 7 ∧ (7 : W64).toNat ≤ s.elapsed.toNat) ∧
    (let s := halfAt { Half.reset with window := true, pg := true };
      (s.half 0).window = true ∧ s.inWindow 0 = false ∧ (s.half 0).pg = true) ∧
    (w.rfld 0x90010 16 8 = 100 ∧ (w.half 0).thrAt = none) ∧
    (let s := halfAt { Half.reset with thr := true, coolSince := some 5 };
      (95 : BitVec 8).toNat + 5 ≤ s.rfld 0x90010 16 8 ∧ (s.half 0).thr = true ∧ (s.half 0).coolSince = some 5 ∧
        5 + 100000000 ≤ s.elapsed.toNat) ∧
    (let s := { w.setReg 0x90018 100 with capped := [1], calmSince := some 5 };
      s.rfld 0x90018 0 16 = 100 ∧ 100 < (101 : BitVec 16).toNat ∧ (s.half 0).cap = false ∧ 100 * (94 : BitVec 16).toNat < 95 * 100 ∧
        s.capped = [1] ∧ s.calmSince = some 5) := by decide +kernel

def booting (d : Nat) (f : Boot → Boot) : State := { inState d with boot := f State.reset.boot }

theorem test_meets_BringUp :
    (State.reset.pins.porst = true ∧ State.reset.dstate = 1 ∧ State.reset.pins.warm = true ∧ State.reset.boot.porDone = false) ∧
    (let s := { w with pins := { w.pins with warm := false, warmAt := 5 } };
      s.pins.porst = true ∧ s.pins.warm = false ∧ s.pins.therm = false ∧ s.pins.inReset = false ∧
        s.pins.warmAt.toNat + 10000 ≤ s.elapsed.toNat) ∧
    (let s := { w with elapsed := 500, pins := { w.pins with warm := false, warmAt := 5 } };
      s.elapsed.toNat - s.pins.warmAt.toNat < 1000) ∧
    (let s := { booting 1 (fun b => { b with porDone := true }) with
        west := { Half.reset with pg := true }, east := { Half.reset with pg := true } };
      s.dstate = 1 ∧ s.boot.porDone = true ∧ (s.half 0).pg = true ∧ (s.half 1).pg = true) ∧
    ((inState 2).dstate = 2) ∧ ((booting 3 id).dstate = 3 ∧ (booting 3 id).boot.held = false) ∧
    (let s := (booting 4 id).setReg 0x20 1;
      s.dstate = 4 ∧ s.rfld 0x20 0 1 = 1 ∧ s.boot.image = none) ∧
    (let s := inState 3;
      s.dstate = 3 ∧ s.boot.held = true ∧ s.trainDone = true) := by decide +kernel

/-! ### Registers, time, ports, requests of other devices, the host link, management -/

/-- `hostOpen`, spelled as what can be decided. -/
def opens (s : State) : Bool :=
  s.pins.porst && s.pins.warm && s.pins.perst && s.dstate != 0 && s.boot.held &&
    decide (s.boot.highAt.toNat + 20000000 ≤ s.elapsed.toNat) && !s.link.d3hot.getLsbD 0

theorem test_meets_RegisterReads : opens w = true ∧ w.vfOn 8 = false ∧ ((w.setReg 0x10008 0x118).vfOn 8 = true ∧
    opens (w.setReg 0x10008 0x118) = true) ∧ w.present 0 = true ∧ lone.present 1 = false ∧ (22 : BitVec 5).toNat < 23 ∧
    (let s := { w with boot := State.reset.boot };
      s.pins.perst = true ∧ s.boot.held = false ∧ s.link.d3hot.getLsbD 0 = false) ∧
    (let s := { w with link := { w.link with d3hot := 0x100 } };
      opens s = true ∧ s.link.d3hot.getLsbD 8 = true ∧ w.link.d3hot.getLsbD 8 = false) := by decide +kernel

theorem test_meets_RegisterWrites :
    opens mapped = true ∧ (fld (0x10000000 : W64) 0 43 % 2 ^ mapped.link.barLog = 0) ∧
    (fld (0x8000000 : W64) 0 43 % 2 ^ mapped.link.barLog ≠ 0) ∧
    (let s := regs w [(0x80018, 7), (0x80020, 3), (trc 0 0x10, 7), (trc 0 0x18, 3)];
      s.reg 0x80020 ≤ 7 ∧ (7 : W64) ≤ s.reg 0x80018 ∧ (2 : W64) < s.reg 0x80020 ∧ s.reg 0x80018 < 8 ∧
        s.reg (trc 0 0x18) ≤ 3 ∧ (3 : W64) ≤ s.reg (trc 0 0x10)) ∧
    ((0x400 : W64).getLsbD 10 = true ∧ w.present (fld (0x400 : W64) 0 10) = true ∧ lone.present (fld (0x401 : W64) 0 10) = false) ∧
    ((w.setRfld (prng 63 0) 56 1 1).rfld (prng 63 0) 56 1 = 1) ∧ ((w.setRfld (fabp 15 0) 0 3 2).pstat 15 = 2) ∧
    w.rfld (fabp 15 8) 2 1 = 1 ∧ w.stM (halfop 0) &&& ~~~0xC = 0 ∧ w.reqRefused 0 2 = false ∧ w.reqRefused 0 3 = true ∧
    (w.setReg 0x10 6).halfEmpty 1 = true ∧ w.rfld 0x50020 0 4 = 15 ∧ (inState 5).dstate ≠ 6 ∧ w.pstate 0 ≠ 0 ∧ 0 < w.period 0 ∧
    (fld (0x800 : W32) 7 5 = 16 ∧ fld (0xF80 : W32) 7 5 = 31 ∧ fld (0x880 : W32) 7 5 = 17) ∧
    ((w.setReg 0x10008 0x118).vfOn 8 = true ∧ mapped.sqEn 0 = true ∧ w.sqEn 0 = false) ∧
    ((w.setRfld (prt 7 0x90) 1 1 1).rfld (prt 7 0x90) 1 1 = 1) ∧
    (let s := { mapped with boot := { mapped.boot with highAt := 1 } };
      s.barOpen (rg 511 0) = true ∧ (w.setReg 0x10008 0x8018).fnOf 7 ≠ 0) := by decide +kernel

theorem test_meets_TimeBase :
    (w.rfld 0x60008 1 1 = 0 ∧ (w.setReg 0x60008 7).rfld 0x60008 1 1 = 1) ∧
    (let s := { w with sync := { State.reset.sync with ppsEdge := some 600000000 } };
      s.sync.ppsEdge = some 600000000 ∧ s.elapsed.toNat < 600000000 + 500000000) ∧
    (w.sync.ppsEdge = none ∧ w.sync.ppsGood = none ∧ w.sync.set = none) ∧
    ({ w with sync := { w.sync with set := some (w.elapsed, 9) } } : State).sync.set = some (w.elapsed, 9) ∧
    (let s := { w with devtime := 2000000000, sync := { State.reset.sync with ppsGood := some 1000000000 } };
      1000000000 + 999000000 ≤ s.devtime.toNat ∧ s.devtime.toNat ≤ 1000000000 + 1001000000) ∧
    ((3000000000 : W64).toNat ≤ ({ w with elapsed := 3000000000 } : State).elapsed.toNat) ∧
    (let s := { w.setReg 0x60008 4 with devtime := 100000000001 };
      ((s.devtime.toNat : Int) - s.rfld 0x60028 0 30) % 1000000000 ≤ 1 ∧ s.rfld 0x60008 2 1 = 1 ∧ s.dstate = 6 ∧
        s.rfld 0x60028 0 30 < 1000000000) ∧
    (let s := (regs w [(fabp 3 0, 2), (0x50008, 1), (0x50040, 8), (0x50028, 1)]).setPort 3 { Port.reset with timeTx := some 7 };
      s.pstat 3 = 2 ∧ s.parentPort = some 3 ∧ (s.port 3).timeTx = some 7 ∧ (s.port 4).timeTx = none ∧ 3 ≤ s.dstate ∧ (s.setReg 0x10 3).dstate = 3 ∧ (s.setReg 0x10 3).rfld 0x10 4 1 = 0 ∧
        s.devid ≠ s.rfld 0x50028 0 17 ∧ s.sync.last.toNat + 10000000 ≤ s.elapsed.toNat) ∧
    w.devid = w.rfld 0x50028 0 17 ∧
    (let s := (regs w [(trc 0 0, 0x1000), (trc 0 8, 10)]).modPart 0 (fun p => { p with trcPend := [1, 2], trcLost := 4 });
      (s.part 0).trcPend = [1, 2] ∧ (s.reg (trc 0 0x10)).toNat - (s.reg (trc 0 0x18)).toNat < 2 ^ s.rfld (trc 0 8) 0 5 ∧
        inTiers 0x1000 32 = true ∧ s.homeUp 0x1000 = true ∧ (s.part 0).trcLost ≠ 0) ∧
    (let s := (regs w [(trc 0 0, 0x1000), (trc 0 8, 42)]).modPart 0 (fun p => { p with trcLost := 4 });
      (s.part 0).trcPend = [] ∧ (s.part 0).trcLost ≠ 0 ∧ s.rfld (trc 0 8) 5 1 = 1 ∧ 0 < 2 ^ s.rfld (trc 0 8) 0 5) ∧
    (let s := regs w [(trc 0 8, 10), (trc 0 0x10, 1024)];
      ¬((s.reg (trc 0 0x10)).toNat - (s.reg (trc 0 0x18)).toNat < 2 ^ s.rfld (trc 0 8) 0 5)) := by decide +kernel

/-- Port 3 in a state, in the direction +x of a ring of two devices, of which this one is device 0. -/
def port3 (st : Nat) (f : Port → Port) : State :=
  (regs w [(fabp 3 0, 0x1E0 + BitVec.ofNat 64 st), (0x50008, 1), (0x50040, 8), (0x50048, 16)]).setPort 3 (f Port.reset)
/-- A flit of the number that the port expects, or of link control; good, or with a CRC that does not match. -/
def flitOf (seq : Nat) (ctl nak : Bool) : Flit := ⟨1, 0, flitBytes seq ctl 0 nak 1 1 (List.replicate 244 0)⟩
def badFlit : Flit := ⟨0, 0, List.replicate 256 1⟩

set_option maxRecDepth 100000 in
theorem test_meets_PortEvents_receive :
    (port3 2 id).pstat 3 = 2 ∧ (port3 2 id).portLit 3 = true ∧ (port3 0 id).portLit 3 = false ∧
    ((port3 1 id).portLit 3 = true ∧ (port3 1 id).pstat 3 ≠ 2) ∧ badFlit.crcOk = false ∧
    ((flitOf 0 false false).crcOk = true ∧ (flitOf 0 false false).ctl = false ∧ (flitOf 0 false false).nak = false ∧
      (flitOf 0 false false).seq = ((port3 2 id).port 3).rxSeq ∧ (flitOf 1 false false).seq ≠ 0 ∧
      (flitOf 0 false false).cls = 1 ∧ (flitOf 0 false false).cret = 1 ∧ ((port3 2 id).port 3).nakSent = false ∧
      ((port3 2 (fun x => { x with nakSent := true })).port 3).nakSent = true) ∧
    ((flitOf 0 true true).crcOk = true ∧ (flitOf 0 true true).ctl = true ∧ (flitOf 0 true true).nak = true) ∧
    ((({ Port.reset with kept := [⟨0, 1, 0, []⟩, ⟨1, 1, 0, []⟩], txSeq := 2 } : Port).ackTo 1).kept = [⟨1, 1, 0, []⟩]) ∧
    (15 ≤ ((List.replicate 15 (999999999 : W64)).filter (fun t => w.elapsed.toNat < t.toNat + 10000)).length) ∧
    (((port3 2 id).port 3).lastTx.toNat + 200 ≤ w.elapsed.toNat) ∧
    (let s := port3 2 (fun x => { x with nakAt := some 5 });
      (s.port 3).nakAt = some 5 ∧ (5 : W64).toNat + 2000 ≤ s.elapsed.toNat) := by decide +kernel

/-- An item that goes on from port 4 by port 3, one that has no route, one that has none and is no request. -/
def goesOn (st : Nat) : State := ((port3 st id).setAvail 3 1 ((port3 st id).credSize 3 1)).setReg (fabp 4 0) 0x1E2
def stuck (ty : BitVec 4) : State := (port3 2 (fun x => { x with rx := [⟨1, { transitOf ty with dst := 2 }⟩] }))

theorem test_meets_PortEvents_transit :
    (transitOf 1).dst.toNat ≠ (goesOn 2).devid ∧ (∀ st ∈ [2, 3], (goesOn st).pstat 4 = 2 ∧ (goesOn st).route 1 0 7 = some (3, 0) ∧ (goesOn st).pstat 3 = st) ∧
    (let sent := { transitOf 1 with dl := (goesOn 2).crosses 0 || ((transitOf 1).dl && (goesOn 2).portDim 3 == some 0) };
      sent.cls < 9 ∧ sent.bytes.length ≤ 244 ∧ credits sent.bytes.length ≤ (goesOn 2).avail 3 sent.cls) ∧
    (let x := (goesOn 2).port 3; x.queue = [] ∧ x.begun = [] ∧ x.out = [] ∧ x.owed = [] ∧ x.unacked < 256 ∧ ((goesOn 2).port 4).rx = [] ∧
      ((goesOn 2).port 4).mayLeave (transitOf 1) = true) ∧
    (∀ first ∈ [⟨1, { transitOf 1 with req := 8 }⟩, ⟨1, transitOf 1⟩],
      let x := { Port.reset with rx := [first, (⟨1, transitOf 1⟩ : RxItem)] };
      x.mayLeave (transitOf 1) = decide (first.item = transitOf 1)) ∧
    (∀ ty ∈ ([0, 1, 5, 6] : List (BitVec 4)), (stuck ty).route 2 0 7 = none ∧
      ((stuck ty).port 3).rx = [⟨1, { transitOf ty with dst := 2 }⟩] ∧ (2 : Nat) ≠ (stuck ty).devid) := by decide +kernel

/-- The view of the credits that agrees with port 3. -/
def fits (s : State) : CreditView :=
  ⟨⟨(List.range 9).map (fun v => s.credSize 3 v - s.avail 3 v), (views 9).tx.moving⟩,
    ⟨(List.range 9).map (s.credSize 3), (views 9).rx.moving⟩⟩

theorem test_meets_PortEvents_credits :
    (∀ st ∈ [2, 3], let s := port3 st id;
      s.creditsAgree 3 (fits s) = true ∧ s.creditsAgree 3 (views 9) = false ∧ (s.port 3).held = [] ∧ s.edges 3 = []) := by
  decide +kernel

theorem test_meets_PortEvents_train :
    (let s := port3 2 (fun x => { x with lanes := 15 });
      (s.port 3).lanes.getLsbD 3 = true ∧ (s.setRfld (fabp 3 0) (5 + 3) 1 0).rfld (fabp 3 0) 5 4 = 7) ∧
    (let s := regs w [(fabp 3 0, 0x102)];
      s.portLit 3 = true ∧ s.rfld (fabp 3 0) 5 4 = 8 ∧ s.edges 3 = [] ∧ (s.port 3).held = []) ∧
    ((port3 2 id).port 3).lanes.getLsbD 3 = false ∧
    (let s := port3 3 (fun x => { x with lanes := 15, retrainAt := some 5 });
      s.pstat 3 = 3 ∧ pickLanes 15 (min (s.maxMode 3) (laneMode (s.port 3).lanes)) = 15 ∧ pickLanes 0 3 = 0 ∧
        (s.port 3).inWindow 0 = true ∧ (s.port 3).inWindow 9 = false ∧ (s.port 3).fails < 3 ∧
        (s.port 3).retrainAt = some 5 ∧ 5 + 100000 ≤ s.elapsed.toNat ∧ (s.port 3).held = [] ∧ s.edges 3 = []) ∧
    (3 ≤ ((port3 3 (fun x => { x with fails := 3 })).port 3).fails) ∧
    (let s := port3 1 id;
      s.pstat 3 = 1 ∧ pickLanes 3 (s.maxMode 3) = 3 ∧ s.identityOk 3 1 1 = true ∧ s.identityOk 3 2 1 = false ∧
        (s.port 3).queue = [] ∧ (s.port 3).begun = []) ∧
    ((port3 0 id).pstat 3 = 0 ∧ (port3 0 id).portEn 3 = true ∧ (port3 0 id).dstate = 6 ∧
      ((port3 0 id).setRfld (fabp 3 0) 9 1 1).light 3 = true) := by
  decide +kernel

/-- A device that exports 64 KiB of tier 1 and the LM of core 0 to requests of others. -/
def exports : State :=
  regs mapped [(0x54000, 0xF), (0x54008, 0xF000), (0x54010, 0x4000000000F), (0x54018, 0x4000007F000)]

theorem test_meets_RemoteRequests :
    (inState 5).dstate ≠ 6 ∧ (2 ^ 43 : Nat) / 2 ^ 43 % 16 ≠ 0 ∧ (inLm (lmAddr 1 0) = true ∧ lone.present (lmCore (lmAddr 1 0)) = false) ∧
    (∀ p ∈ ([(0xFFC0, 0), (lmAddr 0 0x7FFC0, 1)] : List (Nat × Nat)), ∀ need ∈ [2, 4, 14],
      inMemory p.1 64 = true ∧ exports.fabOpen 0 = true ∧ exports.exportOk 0 p.2 p.1 64 need = true ∧
        exports.poisoned p.1 64 = false ∧ exports.homeUp p.1 = true ∧ exports.memRuns p.1 = true) ∧
    (let s := exports.setRfld (halfop 0) 0 2 0;
      s.memRuns (lmAddr 0 0x7FFC0) = false ∧ s.exportOk 0 1 (lmAddr 0 0x7FFC0) 64 2 = true ∧ s.fabOpen 0 = true ∧ s.present 0 = true) ∧ exports.partOf (lmCore (lmAddr 0 0)) = some 0 ∧
    exports.exportOk 0 0 0x10000 64 2 = false ∧ (9 : BitVec 4).toNat ≤ 9 ∧ w.fabOpen 0 = false ∧
    ({ exports with poison := [0x40] } : State).poisoned 0x40 64 = true := by decide +kernel

/-- Post ring 63 of 64 slots at 0x10000, its counts at 0x20000: empty, and full. -/
def posts (prod : Nat) : State :=
  { regs exports [(prng 63 0, 0x106000000010000), (prng 63 8, 0x20000)] with
    mem := Memory.writeBytes [] 0x20000 (toLE 8 prod) }

theorem test_meets_Posts :
    (let o := 2 ^ 43 + 63 * 4096;
      o / 4096 % 64 = 63 ∧ o / 2 ^ 43 % 16 = 1 ∧ o / 2 ^ 18 % 2 ^ 25 = 0 ∧ o % 4096 = 0) ∧
    ((posts 0).rfld (prng 63 0) 56 1 = 1 ∧ 2 ^ (posts 0).rfld (prng 63 0) 48 5 = 64 ∧ (posts 0).rfld (prng 63 8) 0 43 = 0x20000 ∧
      (posts 0).poisoned 0x20000 16 = false ∧ (posts 0).homeUp 0x20000 = true ∧ w.rfld (prng 63 0) 56 1 = 0) ∧
    (∀ n ∈ [0, 63, 64], ofLE (Memory.readBytes (posts n).mem 0x20000 8) = n) ∧ (64 < 64 + 0 + 2 ∧ ¬64 < 63 + 0 + 1) ∧
    (spans 0x10000 128).all (fun q => (posts 0).homeUp q.1) = true ∧
    (let s := { runs id with postWaits := [⟨0, 2, 5, 4⟩] };
      s.postWaits.find? (fun v => v.core == 0 && v.ch == 2) = some ⟨0, 2, 5, 4⟩ ∧ s.coreRuns 0 = true ∧ (5 : W64).toNat + 1000 ≤ s.elapsed.toNat ∧
        (s.chan 0 2).cur = some desc1 ∧ (s.chan 0 2).active = true) := by decide +kernel

def asks (s : State) (o : RemOrigin) : State := { s with remReqs := [⟨7, o, 0x800000000040, 5⟩], lateReqs := [6] }

theorem test_meets_RemoteAnswers :
    (∀ o ∈ ([.write 0 1, .send 0 1, .poll 0 1, .post 0 2 4, .chanWrite 0 2 6] : List RemOrigin),
      (asks sup o).halfRuns (coreHalf o.core) = true ∧ (k0 (asks sup o)).mx.queue = [] ∧ (k0 (asks sup o)).vx.queue = [] ∧
      (k0 (asks sup o)).vx.done = [] ∧ (k0 (asks sup o)).mem.accs = [] ∧ (∀ t : Fin 4, ((asks sup o).thread 0 (BitVec.ofNat 2 t.val)).wait = none) ∧
      (asks sup o).remReqs.find? (fun q => q.id == 7) = some ⟨7, o, 0x800000000040, 5⟩) ∧
    (RemOrigin.write 0 1).takes (.answer true) = false ∧
    (5 : W64).toNat + 1000 * sup.rfld 0x50018 0 32 ≤ sup.elapsed.toNat ∧
    ((sends .flying false).thread 0 1).wait = some (.send 0x8000001 [5] 3 .flying false) ∧
    ((waits (.waitm 3 5 1 0x40 (.remote 0x800000000040) false false none)).thread 0 1).wait =
      some (.waitm 3 5 1 0x40 (.remote 0x800000000040) false false none) ∧
    BitVec.ofNat 64 (ofLE ([1, 0, 0, 0, 0, 0, 0, 0] : List Byte)) ≠ 5 ∧ ((runs id).chan 0 2).active = true ∧
    ((asks sup (.write 0 1)).remReqs.find? (fun q => q.id == 6)) = none ∧ (asks sup (.write 0 1)).lateReqs.contains 6 = true := by
  decide +kernel

/-- Barrier 79 of partition 0 is of group 9, with one child; at the root or below device 5. -/
def grouped (root : Bool) (arrived : Nat) : State :=
  ((regs w [(fbarOff 0 79, 0x50009 + if root then 0x20000 else 0), (fbarOff 0 79 + 8, 5)]).setRfld (barOff 0 79) 0 64
    (1 + arrived * 2 ^ 13 + 2 ^ 26)).modPart 0 (fun p => { p with barKnown := [(79, 9, 4)] })

theorem test_meets_FabricBarriers :
    (∀ root : Bool, ∀ a ∈ [0, 1], (grouped root a).groupBars 9 = [(0, 79)] ∧ (grouped root a).barState 0 79 = 1 ∧
      (grouped root a).barGen 0 79 % 2 = 0 ∧ (grouped root a).fbarKids 0 79 = [] ∧ (grouped root a).fbarRoot 0 79 = root ∧
      (grouped root a).barArrived 0 79 = a ∧ (grouped root a).barCount 0 79 = 1 ∧ (grouped root a).rfld (fbarOff 0 79 + 8) 0 17 = 5) ∧
    ((grouped true 1).fbarAll 0 79 = [4] ∧ (4 : BitVec 17).toNat ∉ (grouped true 1).fbarKids 0 79 ∧
      ((grouped true 1).modPart 0 (fun p => { p with barKids := [(79, [4])] })).fbarKids 0 79 = [4]) ∧
    (∀ st ∈ [2, 3], ((grouped true 1).setRfld (barOff 0 79) 26 2 st).barState 0 79 = st) ∧ 0 + 1 = (grouped true 1).rfld (fbarOff 0 79) 18 4 ∧ (grouped true 1).groupBars 8 = [] := by decide +kernel

/-- Vector 3 of VF 8 is pending and not masked. -/
def msixS : State :=
  { regs w [(8 * 0x100000000 + msixPba 3, 8), (8 * 0x100000000 + msixEntry 3 + 8, 0), (0x10008, 0x18)] with
    link := { w.link with bme := 0x100, msixOn := 0x100 } }

theorem test_meets_HostLinkEvents :
    (w.pins.perst = true ∧ w.pins.porst = true ∧ w.pins.warm = true) ∧
    (0xFFFFFC0 + 64 ≤ 2 ^ w.link.barLog ∧ inTiers (w.rfld 0x10010 0 43 + 0xFFFFFC0) 64 = true ∧ w.poisoned 0 64 = false ∧
      w.rangeUp 0xFFFFFC0 64 = true ∧ ¬(0xFFFFFC1 + 64 ≤ 2 ^ w.link.barLog)) ∧
    (({ w with poison := [0x20] } : State).poisoned 0 64 = true) ∧
    (opens w = true ∧ (w.setReg 0x10008 0x118).vfOn 8 = true ∧ (w.reg (msixEntry 3 + 8)).getLsbD 32 = true) ∧
    ((msixS.reg (8 * 0x100000000 + msixPba 3)).getLsbD 3 = true ∧ msixS.link.bme.getLsbD 8 = true ∧
      msixS.link.msixOn.getLsbD 8 = true ∧ msixS.link.msixMask.getLsbD 8 = false ∧ msixS.link.d3hot.getLsbD 8 = false ∧
      msixS.msixPending 8 = [3] ∧ msixS.vfOn 8 = true ∧ w.msixPending 8 = [] ∧
      ({ w with link := { w.link with d3hot := 1 } } : State).link.d3hot.getLsbD 0 = true ∧ w.pins.inReset = false ∧
      (msixS.reg (8 * 0x100000000 + msixEntry 3 + 8)).getLsbD 32 = false) ∧
    (let s := { w with link := { w.link with flrs := [(8, 5)] } };
      s.link.flrs.find? (fun x => x.1 == 8) = some (8, 5) ∧ (5 : W64).toNat + 100000000 ≤ s.elapsed.toNat) := by decide +kernel

theorem test_meets_ManagementAccess :
    (w.cp1Runs = true ∧ State.reset.cp1Runs = false ∧ w.pins.porst = true ∧ 20000000 ≤ w.elapsed.toNat) ∧
    (0x9FFF8 % 8 = 0 ∧ 0x80000 ≤ 0x9FFF8) ∧ ({ w with pins := { w.pins with porst := false } } : State).pins.porst = false ∧
    (0x40 + w.pins.straps.setWidth 7 : BitVec 7) = 0x40 ∧ w.pins.trst = true ∧
    ({ w with pins := { w.pins with trst := false } } : State).pins.trst = false ∧
    (let m : MctpReq := ⟨⟨0x40, 0x7E, 0x1F3C⟩, 1, 4, 0x90018⟩;
      m.head.addr = 0x40 + w.pins.straps.setWidth 7 ∧ m.off.toNat = 0x90018 ∧ m.len ≠ 12 ∧ (5 : Byte) ∉ [(1 : Byte), 2, 3]) ∧
    ((0x80020 : W32).toNat = 0x80020 ∧ (2 : Byte) ∈ [(1 : Byte), 2, 3]) ∧ Signal.ready.driven = true ∧
    w.level .porstN = some true := by
  decide +kernel

/-- A legal word of any thread, one with a reserved field, one that only a supervisor may run; predicates that do not hold. -/
theorem test_meets_IssueOutcomes :
    (encode (.add x0 ⟨1, 2, 3⟩)).isSome = true ∧ (Instr.add x0 ⟨1, 2, 3⟩).iss = some x0 ∧ fe sup x0 = true ∧ fe usr x0 = true ∧
    (encode (.clz x0 ⟨1, 2, 3⟩)).isSome = true ∧ (encode (.eret x0 ⟨0, 0⟩)).isSome = true ∧ (usr.thread 0 1).sup = false ∧
    (fe sup { x0 with pi := 1, pn := true } = true ∧ (sup.thread 0 1).getP 1 = true) ∧
    (fe sup { x0 with pi := 2 } = true ∧ (sup.thread 0 1).getP 2 = false) ∧
    (let s := on 0 { thr true with rptcnt := 0x100800000002, rptOn := true, rptBase := some (24, false) } id;
      fe s { x0 with pi := 2 } = true ∧ (s.thread 0 1).rptOn = true ∧ repBase (.ld64 x0 ⟨5, 0, 8⟩) = some (24, false) ∧
      repBase (.amoAdd x0 ⟨1, 2, 3, 0, true⟩) = none) := by decide +kernel

theorem test_meets_WordsOfInstructions :
    (encode (.add x0 ⟨1, 2, 3⟩)).isSome = true ∧ (Instr.engbindWrite x0 .write 3).csrRow = true ∧
    (encode (.engbindWrite x0 .write 3)).isSome = true ∧ (dec 0xFFFFFFFF).isNone = true ∧ (dec 0).isSome = true := by
  decide +kernel

theorem test_meets_EveryStepCompletes : State.reset.pending = [] ∧ State.reset.ready 0 0 = false := by decide +kernel

theorem test_meets_MemoryKeepsItsForm : State.reset.memOk ∧ mapped.memOk ∧
    (match step { mapped with pending := [.devtimeTick] } with | .next t => t.devtime == 5001 | _ => false) = true := by
  decide +kernel

end Sys2Proof.Tests
end

section
/-!
PROOFS. Reset values, and reads of registers (R4, R429, R469).
-/
namespace Sys2Proof.Machine

/-- A register that nothing has written holds its reset value. -/
theorem reg_reset (o : Nat) : State.reset.reg o = (regInfo o).reset := rfl

theorem rfld_reset (o lo w : Nat) : State.reset.rfld o lo w = fld (regInfo o).reset lo w := rfl

/-! ### The register tables -/

/-- An array that ends below an offset does not hold it. -/
theorem inArr_of_le {o base stride count : Nat} (h : base + stride * count ≤ o) : inArr o base stride count = false := by
  have hlo : ¬ o < base + stride * count := by omega
  rw [inArr, decide_eq_false hlo, Bool.and_false, Bool.false_and]

theorem inArr_rg {g r q : Nat} (hg : g < 512) (hr : r < 0x40) (hq : q < 0x40) :
    inArr (rg g r) (0x18000 + q) 0x40 512 = (r == q) := by
  by_cases h : r = q
  · subst h
    have h1 : 0x18000 + r ≤ rg g r := by unfold rg; omega
    have h2 : rg g r < 0x18000 + r + 0x40 * 512 := by unfold rg; omega
    have h3 : (rg g r - (0x18000 + r)) % 0x40 = 0 := by unfold rg; omega
    simp [inArr, h1, h2, h3]
  · have hout : ¬ (0x18000 + q ≤ rg g r ∧ rg g r < 0x18000 + q + 0x40 * 512 ∧ (rg g r - (0x18000 + q)) % 0x40 = 0) := by
      unfold rg; omega
    rw [beq_false_of_ne h, inArr]
    simp only [Bool.and_eq_false_iff, decide_eq_false_iff_not, beq_eq_false_iff_ne]
    grind

/-- The words of a ring's register set: its bases and its configuration. -/
theorem regInfo_ring {g r : Nat} (hg : g < 512) (hr : r = 0 ∨ r = 8 ∨ r = 0x20) : regInfo (rg g r) =
    if r = 0 then ⟨0, 0xFFFFFFFFFFFFF000, 0, 0, 0⟩
    else if r = 8 then ⟨6, 0x5F, 0, 0, 0⟩
    else ⟨0x100006, 0xFFFFF7FFDF, 0, 0, 0⟩ := by
  have hlt : r < 0x40 := by omega
  have hlo : 0x18000 ≤ rg g r := by unfold rg; omega
  have hmod : rg g r % 0x100000000 = rg g r := Nat.mod_eq_of_lt (by unfold rg; omega)
  have hne (c : Nat) (hc : c < 0x18000) : (rg g r = c) = False := eq_false (by omega)
  have hout (base stride count : Nat) (hb : base + stride * count ≤ 0x18000) : inArr (rg g r) base stride count = false :=
    inArr_of_le (hb.trans hlo)
  have hbase : inArr (rg g r) 0x18000 0x40 512 = (r == 0) := inArr_rg (q := 0) hg hlt (by decide)
  have hsq : inArr (rg g r) 0x18008 0x40 512 = (r == 8) := inArr_rg (q := 8) hg hlt (by decide)
  have hcqBase : inArr (rg g r) 0x18018 0x40 512 = (r == 0x18) := inArr_rg (q := 0x18) hg hlt (by decide)
  have hcq : inArr (rg g r) 0x18020 0x40 512 = (r == 0x20) := inArr_rg (q := 0x20) hg hlt (by decide)
  unfold regInfo
  rcases hr with rfl | rfl | rfl <;>
    simp (disch := decide) only [hmod, hne, hout, hbase, hsq, hcqBase, hcq, Nat.reduceBEq, Nat.reduceEqDiff, Bool.false_eq_true,
      ↓reduceIte]

theorem regInfo_sqBase {g : Nat} (hg : g < 512) : regInfo (rg g 0) = ⟨0, 0xFFFFFFFFFFFFF000, 0, 0, 0⟩ :=
  regInfo_ring hg (by decide)
theorem regInfo_sqCfg {g : Nat} (hg : g < 512) : regInfo (rg g 8) = ⟨6, 0x5F, 0, 0, 0⟩ := regInfo_ring hg (by decide)
theorem regInfo_cqCfg {g : Nat} (hg : g < 512) : regInfo (rg g 0x20) = ⟨0x100006, 0xFFFFF7FFDF, 0, 0, 0⟩ :=
  regInfo_ring hg (by decide)

theorem regInfo_prtDlCfg : ∀ n < 8, regInfo (prt n 0x108) = ⟨6, 0, 0, 0, 0x3F⟩ := by decide
theorem regInfo_trcCfg : ∀ n < 8, regInfo (trc n 8) = ⟨10, 0xFFFFFFFF0000003F, 0, 0, 0⟩ := by decide
theorem regInfo_fabPstat : ∀ p < 16, regInfo (fabp p 0) = ⟨0, 0, 0, 0xFFFF00000000, 0⟩ := by decide
theorem regInfo_fabPctl : ∀ p < 16, regInfo (fabp p 8) = ⟨7, 7, 0, 0, 0⟩ := by decide
theorem regInfo_fabCred0 : ∀ p < 16, regInfo (fabp p 0x40) = ⟨0x800000000, 0, 0, 0, 0⟩ := by decide
theorem regInfo_fabCred8 : ∀ p < 16, regInfo (fabp p 0x80) = ⟨0x10000000000, 0, 0, 0, 0⟩ := by decide

/-- Single words whose table gives a reset value. -/
def resetWords : List (Nat × W64) :=
  [(0x28, 0xFFFFFFFFFFFFFFFF), (0x20000, 10000), (0x40000, 0x00FFFFFF00000010), (0x40010, 0x1818), (0x50018, 1000),
    (0x50020, 0xF), (0x60028, 0x6400000000), (0x80010, 0x1000), (0x80030, 0x3E81003), (0x90000, 0xE9), (0x90008, 0xE9),
    (0x90010, 0x640000), (0x90018, 0), (0x10008, 0)]

/-- Settles O60: no register is listed at reset, so each holds the value of its table. -/
theorem resetValues : Obligations.ResetValues := by
  unfold Obligations.ResetValues
  refine ⟨rfl, Memory.wf_reset, rfl, rfl, by decide, rfl, fun n hn => ?_, fun g hg => ?_, fun p hp => ?_,
    fun o v h => ?_⟩
  · refine ⟨?_, by rw [reg_reset, regInfo_prtDlCfg n hn], by rw [reg_reset, regInfo_trcCfg n hn]⟩
    rw [State.pstate, rfld_reset]; simp [regInfo, fld]; revert n; decide
  · simp only [State.sqEn, State.cqEn, State.sqSize, State.cqSize, rfld_reset, regInfo_sqCfg hg, regInfo_cqCfg hg]
    decide
  · simp only [State.pstat, State.portEn, State.maxMode, State.avail, State.credSize, rfld_reset, regInfo_fabPstat p hp,
      regInfo_fabPctl p hp, regInfo_fabCred0 p hp, regInfo_fabCred8 p hp]
    decide
  · have table : ∀ x ∈ resetWords, State.reset.reg x.1 = x.2 := by decide
    exact table (o, v) h
/-! ### What the host reaches -/

/-- The host reaches every word of the PF's BAR0 (R429). -/
theorem State.hostOpen.barOpen {s : State} (h : s.hostOpen) (o : Nat) : s.barOpen o = true := by
  obtain ⟨porst, warm, perst, on, held, high, -⟩ := h
  simpa [State.barOpen, State.awake, porst, warm, perst, held, dsOff, on] using high

theorem State.hostOpen.perst {s : State} (h : s.hostOpen) : s.pins.perst = true := h.2.2.1
theorem State.hostOpen.held {s : State} (h : s.hostOpen) : s.boot.held = true := h.2.2.2.2.1
theorem State.hostOpen.awake {s : State} (h : s.hostOpen) : s.link.d3hot.getLsbD 0 = false := h.2.2.2.2.2.2

theorem State.barTarget_pf {s : State} (h : s.link.d3hot.getLsbD 0 = false) {o : Nat} (ho : o < 0x1000000) :
    s.barTarget 0 o = some o := by
  simp only [State.barTarget, h, ho, Bool.false_eq_true, if_false, if_true]

theorem State.barSource_pf {s : State} (h : s.link.d3hot.getLsbD 0 = false) {o : Nat} (ho : o < 0x1000000) :
    s.barSource 0 o = some o := by simp [State.barSource, State.barTarget_pf h ho]

/-! ### Reads (R4, R469) -/

/-- The access `acc` of word `o` has read `v` in `s`: in `t` the fields of `rc` that it covers are clear, and nothing else
has changed. -/
def State.readsAs (s t : State) (acc : RegHalf) (o : Nat) (v rc : W64) : Prop :=
  t.lastRead = readValue acc v ∧ t.reg o = s.reg o &&& ~~~(rc &&& coverMask acc) ∧ (∀ p, p ≠ o → t.reg p = s.reg p) ∧
    t.mem = s.mem ∧ t.cores = s.cores ∧ t.parts = s.parts ∧ t.ports = s.ports

/-- What a read that reaches word `a` does. -/
theorem State.hostRead_readsAs {s : State} {fn o a : Nat} {acc : RegHalf} {rc : W64} (hp : s.pins.perst = true)
    (hd : s.link.d3hot.getLsbD fn = false) (hsrc : s.barSource fn o = some a) (hopen : s.barOpen (a % 0x100000000) = true)
    (hrc : rcCleared a acc = rc &&& coverMask acc) :
    s.readsAs (s.hostRead fn o acc) acc a (s.view a) rc := by
  unfold State.hostRead
  simp only [hp, hd, hsrc, hopen, hrc, Bool.not_true, Bool.or_false, Bool.false_eq_true, if_false]
  split
  next h0 =>
    refine ⟨rfl, ?_, fun _ _ => rfl, rfl, rfl, rfl, rfl⟩
    rw [h0]
    exact (BitVec.and_allOnes).symm
  next => exact ⟨rfl, State.reg_setReg .., fun p hp => State.reg_setReg_ne _ _ hp, rfl, rfl, rfl, rfl⟩

/-- The RC fields that a read clears, but for the array whose counts are read as whole words. -/
theorem rcCleared_of_info {o : Nat} {v0 rw w1c rc st : W64} (h : regInfo o = ⟨v0, rw, w1c, rc, st⟩)
    (hc : inArr o 0x20100 8 64 = false) (acc : RegHalf) : rcCleared o acc = rc &&& coverMask acc := by
  simp [rcCleared, h, hc]

/-- A read of a register that the PF reaches and that no other state makes. -/
theorem State.hostOpen.reads {s : State} (h : s.hostOpen) (acc : RegHalf) {o : Nat} (ho : o < 0x1000000) {rc : W64}
    (hrc : rcCleared o acc = rc &&& coverMask acc) : s.readsAs (s.hostRead 0 o acc) acc o (s.view o) rc :=
  State.hostRead_readsAs h.perst h.awake (State.barSource_pf h.awake ho) (h.barOpen _) hrc

/-- The words of arrays that a read clears. -/
theorem regInfo_slcCnt : ∀ n < 8, ∀ k < 8, regInfo (0x20100 + 0x40 * n + 8 * k) = ⟨0, 0, 0, 0xFFFFFFFFFFFFFFFF, 0⟩ := by decide
theorem regInfo_prtWdog : ∀ n < 8, regInfo (prt n 0x70) = ⟨0, 0, 0x300000000000000, 0xFFFF0000000000, 0⟩ := by decide
theorem regInfo_snapstat : ∀ n < 8, regInfo (trc n 0x30) = ⟨0, 0, 0, 0xFFFF0000, 0⟩ := by decide
theorem regInfo_fabPfec : ∀ p < 16, regInfo (fabp p 0x10) = ⟨0, 0, 0, 0xFFFFFFFFFFFFFFFF, 0⟩ := by decide
theorem regInfo_fabPretry : ∀ p < 16, regInfo (fabp p 0x18) = ⟨0, 0, 0, 0xFFFFFFFFFFFFFFFF, 0⟩ := by decide
theorem regInfo_errCnt : ∀ k < 23, regInfo (0x80100 + 8 * k) = ⟨0, 0, 0, 0xFFFFFFFFFFFFFFFF, 0⟩ := by decide
theorem regInfo_halfop : ∀ h < 2, regInfo (halfop h) = ⟨0xE9, 0x30, 0, 0xFFFF0000, 0xC⟩ := by decide

/-- Above the MSI-X table and its pending bits no word is listed. -/
theorem regInfo_above {o : Nat} (h : 0x110000 ≤ o) (hlt : o < 0x100000000) : regInfo o = ⟨0, 0, 0, 0, 0⟩ := by
  have hne (c : Nat) (hc : c < 0x110000) : (o = c) = False := eq_false (by omega)
  have hout (base stride count : Nat) (hb : base + stride * count ≤ 0x110000) : inArr o base stride count = false :=
    inArr_of_le (hb.trans h)
  unfold regInfo
  simp (disch := decide) only [Nat.mod_eq_of_lt hlt, hne, hout, Bool.false_eq_true, if_false]

theorem regInfo_scoreboard {c : Nat} (hc : c < 1024) : regInfo (0x800000 + c * 0x2000 + 0x1500) = ⟨0, 0, 0, 0, 0⟩ :=
  regInfo_above (by omega) (by omega)

/-- No field of the word at an offset follows other state: it reads as the register. -/
def plainWord (o : Nat) : Bool :=
  o < 0x800000 && o != 0x10020 && !inArr o 0x10100 8 8 && o != 0x20008 && !inArr o 0x30120 0x1000 8 && o != 0x60000 &&
    o != 0x80000 && !inArr o 0x90000 8 2 && !(0xA0100 ≤ o && o < 0xB0000)

theorem State.view_of_plain (s : State) {o : Nat} (h : plainWord o = true) : s.view o = s.reg o := by
  simp only [plainWord, Bool.and_eq_true, decide_eq_true_eq, bne_iff_ne, Bool.not_eq_true', Bool.and_eq_false_iff,
    decide_eq_false_iff_not] at h
  obtain ⟨⟨⟨⟨⟨⟨⟨⟨hlt, h1⟩, h2⟩, h3⟩, h4⟩, h5⟩, h6⟩, h7⟩, h8⟩ := h
  have h8' : ¬(0xA0100 ≤ o ∧ o < 0xB0000) := by omega
  have hlt' : ¬(0x800000 ≤ o ∧ o < 0x1000000) := by omega
  simp [State.view, h1, h2, h3, h4, h5, h6, h7, h8', hlt']

/-- A read of a register that the PF reaches, whose value is its own. -/
theorem State.hostOpen.counts {s : State} (h : s.hostOpen) (acc : RegHalf) {o : Nat} {v0 rw w1c rc st : W64}
    (hi : regInfo o = ⟨v0, rw, w1c, rc, st⟩) (ho : plainWord o = true) (hc : inArr o 0x20100 8 64 = false) :
    s.readsAs (s.hostRead 0 o acc) acc o (s.reg o) rc := by
  have hlt : o < 0x1000000 := by
    simp only [plainWord, Bool.and_eq_true, decide_eq_true_eq] at ho; omega
  rw [← s.view_of_plain ho]
  exact h.reads acc hlt (rcCleared_of_info hi hc acc)

/-- A count of the Sluice is cleared by a read of its whole word only. -/
theorem rcCleared_slcCnt (acc : RegHalf) (n k : BitVec 3) :
    rcCleared (0x20100 + 0x40 * n.toNat + 8 * k.toNat) acc =
      (if acc = .all then 0xFFFFFFFFFFFFFFFF else 0) &&& coverMask acc := by
  have harr : ∀ n < 8, ∀ k < 8, inArr (0x20100 + 0x40 * n + 8 * k) 0x20100 8 64 = true := by decide
  rw [rcCleared, regInfo_slcCnt _ n.isLt _ k.isLt, harr _ n.isLt _ k.isLt]
  cases acc <;> rfl

/-- Words of arrays that read as the register: the offsets of R7. -/
theorem plainWord_slcCnt : ∀ n < 8, ∀ k < 8, plainWord (0x20100 + 0x40 * n + 8 * k) = true := by decide
theorem plainWord_prtWdog : ∀ n < 8, plainWord (prt n 0x70) = true ∧ inArr (prt n 0x70) 0x20100 8 64 = false := by decide
theorem plainWord_snapstat : ∀ n < 8, plainWord (trc n 0x30) = true ∧ inArr (trc n 0x30) 0x20100 8 64 = false := by decide
theorem plainWord_fabPort : ∀ p < 16, ∀ r ∈ [0, 0x10, 0x18],
    plainWord (fabp p r) = true ∧ inArr (fabp p r) 0x20100 8 64 = false := by decide
theorem plainWord_errCnt : ∀ k < 23,
    plainWord (0x80100 + 8 * k) = true ∧ inArr (0x80100 + 8 * k) 0x20100 8 64 = false := by decide

theorem State.hostOpen.readsSlcCnt {s : State} (h : s.hostOpen) (acc : RegHalf) (n k : BitVec 3) :
    s.readsAs (s.hostRead 0 (0x20100 + 0x40 * n.toNat + 8 * k.toNat) acc) acc (0x20100 + 0x40 * n.toNat + 8 * k.toNat)
      (s.reg (0x20100 + 0x40 * n.toNat + 8 * k.toNat)) (if acc = .all then 0xFFFFFFFFFFFFFFFF else 0) := by
  have := n.isLt
  have := k.isLt
  have hread := h.reads acc (by omega) (rcCleared_slcCnt acc n k)
  rwa [s.view_of_plain (plainWord_slcCnt _ n.isLt _ k.isLt)] at hread

/-- The view of a VF's `PRT_` page, while it is enabled and awake (R294). -/
theorem State.barSource_vfPage {s : State} {n o : Nat} (hon : s.vfOn (n + 1) = true) (ho : o < 0x1000) :
    s.barSource (vfOf n) o = some (prt n o) := by
  have hfn : vfOf n = n + 1 := by simp [vfOf, sriov, Nat.add_comm]
  rw [hfn, State.barSource, if_pos ⟨by omega, hon, ho⟩, Nat.add_sub_cancel]

theorem State.barSource_vfOff {s : State} {n o : Nat} (hd : s.link.d3hot.getLsbD (n + 1) = false)
    (hoff : s.vfOn (n + 1) = false) : s.barSource (vfOf n) o = none := by
  have hfn : vfOf n = n + 1 := by simp [vfOf, sriov, Nat.add_comm]
  simp only [hfn, State.barSource, State.barTarget, hd, hoff]
  simp

/-- A read that reaches no word. -/
theorem State.hostRead_nowhere {s : State} {fn o : Nat} {acc : RegHalf} (hp : s.pins.perst = true)
    (hd : s.link.d3hot.getLsbD fn = false) (hsrc : s.barSource fn o = none) :
    s.hostRead fn o acc = { s with lastRead := 0 } := by
  simp only [State.hostRead, hp, hd, hsrc, Bool.not_true, Bool.or_false, Bool.false_eq_true, if_false]

/-- A function in D3hot reads nothing (R292). -/
theorem State.hostRead_asleep {s : State} {fn : Nat} (o : Nat) (acc : RegHalf) (hd : s.link.d3hot.getLsbD fn = true) :
    s.hostRead fn o acc = s := by
  simp only [State.hostRead, hd, Bool.or_true, if_true]

/-- A read of `PRT_WDOG` through the PF, and through the VF of the partition. -/
theorem execPrtWdogRead_pf (n : BitVec 3) (acc : RegHalf) (s : State) :
    exec (.prtWdogRead ⟨false, n⟩ acc) s = .next (s.hostRead 0 (prt n.toNat 0x70) acc) := rfl
theorem execPrtWdogRead_vf (n : BitVec 3) (acc : RegHalf) (s : State) :
    exec (.prtWdogRead ⟨true, n⟩ acc) s = .next (s.hostRead (vfOf n.toNat) 0x70 acc) := rfl

theorem State.readsAs_prtWdog_vf {s : State} (h : s.hostOpen) (n : BitVec 3) (acc : RegHalf)
    (hd : s.link.d3hot.getLsbD (n.toNat + 1) = false) (hon : s.vfOn (n.toNat + 1) = true) :
    s.readsAs (s.hostRead (vfOf n.toNat) 0x70 acc) acc (prt n.toNat 0x70) (s.reg (prt n.toNat 0x70)) 0xFFFF0000000000 := by
  have hfn : vfOf n.toNat = n.toNat + 1 := by simp [vfOf, sriov, Nat.add_comm]
  obtain ⟨hplain, harr⟩ := plainWord_prtWdog _ n.isLt
  rw [← s.view_of_plain hplain]
  exact State.hostRead_readsAs h.perst (hfn ▸ hd) (State.barSource_vfPage hon (by omega)) (h.barOpen _)
    (rcCleared_of_info (regInfo_prtWdog _ n.isLt) harr acc)

/-! ### The scoreboard (R221) -/

theorem State.view_scoreboard (s : State) {c : Nat} (hc : c < 1024) :
    s.view (0x800000 + c * 0x2000 + 0x1500) = if s.present c then (s.core c).scoreWord else 0 := by
  have hdiv : (0x800000 + c * 0x2000 + 0x1500 - 0x800000) / 0x2000 = c := by omega
  have hmod : (0x800000 + c * 0x2000 + 0x1500 - 0x800000) % 0x2000 = 0x1500 := by omega
  rw [State.view, if_pos (by omega), hdiv, hmod, State.coreWindow]
  cases s.present c <;> simp

/-- A read of a core's scoreboard word, which holds nothing that a read clears. -/
theorem State.hostOpen.readsScoreboard {s : State} (h : s.hostOpen) (acc : RegHalf) {c : Nat} (hc : c < 1024) :
    s.hostRead 0 (0x800000 + c * 0x2000 + 0x1500) acc =
      { s with lastRead := readValue acc (if s.present c then (s.core c).scoreWord else 0) } := by
  have hrc : rcCleared (0x800000 + c * 0x2000 + 0x1500) acc = 0 := by
    rw [rcCleared, regInfo_scoreboard hc]; split <;> simp
  simp only [State.hostRead, h.perst, h.awake, State.barSource_pf h.awake (show 0x800000 + c * 0x2000 + 0x1500 < 0x1000000 by omega),
    h.barOpen, State.view_scoreboard s hc, hrc, Bool.not_true, Bool.or_false, Bool.false_eq_true, if_false, if_true]

theorem readValue_zero (acc : RegHalf) : readValue acc 0 = 0 := by cases acc <;> rfl

theorem execScoreboardRead_absent {s : State} (h : s.hostOpen) (core : BitVec 10) (acc : RegHalf)
    (hp : s.present core.toNat = false) : exec (.scoreboardRead core acc) s = .next { s with lastRead := 0 } := by
  rw [exec_scoreboardRead, execScoreboardRead]
  simp only [h.readsScoreboard acc core.isLt, hp, Bool.false_eq_true, false_and, and_false, if_false, readValue_zero]

/-- The largest count goes on from the entries held now, where the access covers it. -/
theorem execScoreboardRead_present {s : State} (h : s.hostOpen) (core : BitVec 10) (acc : RegHalf)
    (hp : s.present core.toNat = true) :
    ∃ t, exec (.scoreboardRead core acc) s = .next t ∧ t.lastRead = readValue acc (s.core core.toNat).scoreWord ∧
      t.core core.toNat = { s.core core.toNat with mem := { (s.core core.toNat).mem with
        peak := if acc = .high ∨ acc = .other then (s.core core.toNat).mem.peak
          else (s.core core.toNat).mem.accs.length } } ∧ t.regs = s.regs ∧ t.mem = s.mem := by
  rw [exec_scoreboardRead, execScoreboardRead]
  simp only [h.readsScoreboard acc core.isLt, hp, h.perst, h.awake, h.barOpen, if_true, Bool.not_false, true_and]
  by_cases hlow : acc = .all ∨ acc = .low
  · have hhigh : ¬(acc = .high ∨ acc = .other) := by rcases hlow with rfl | rfl <;> simp
    simp only [hlow, hhigh, if_true, if_false]
    exact ⟨_, rfl, rfl, State.core_modCore .., rfl, rfl⟩
  · have hhigh : acc = .high ∨ acc = .other := by cases acc <;> simp at hlow ⊢
    simp only [hlow, hhigh, if_true, if_false]
    exact ⟨_, rfl, rfl, rfl, rfl, rfl⟩

/-- Before the device has entered `HOLD` the host reads nothing outside the blocks that are open to it (R429). -/
theorem State.barOpen_of_not_held {s : State} (h : s.boot.held = false) {o : Nat} (hlo : 0x10000 ≤ o)
    (hout : o < 0x80000 ∨ 0x90000 ≤ o) : s.barOpen o = false := by
  have h1 : ¬ o < 0x10000 := by omega
  have h2 : ¬ (0x80000 ≤ o ∧ o < 0x90000) := by omega
  simp [State.barOpen, h, h1, h2]

/-- Settles O45: every read is one of a word that the function reaches, and `State.hostRead_readsAs` says what that does. -/
theorem registerReads : Obligations.RegisterReads := by
  unfold Obligations.RegisterReads
  intro s acc
  refine ⟨fun h => ⟨?_, fun hf => ?_, fun n k => ?_, fun n => ⟨?_, fun hd => ⟨fun hon => ?_, fun hoff => ?_⟩, fun hd => ?_, ?_⟩,
    fun p => ?_, fun k hk => ?_, ?_, ?_, ?_, ?_, ?_, fun core => ⟨fun hp => ?_, fun hp => ?_⟩⟩, fun hperst hd hheld => ?_⟩
  · exact ⟨_, rfl, h.reads acc (by omega) (rcCleared_of_info (show _ = RegInfo.mk 0 0 0 0xFFFF0000 0 from rfl) rfl acc)⟩
  · have hlt : hf.toNat < 2 := hf.toNat_lt
    have harr : ∀ h < 2, inArr (halfop h) 0x20100 8 64 = false := by decide
    exact ⟨_, rfl, h.reads acc (by unfold halfop; omega) (rcCleared_of_info (regInfo_halfop _ hlt) (harr _ hlt) acc)⟩
  · exact ⟨_, rfl, h.readsSlcCnt acc n k⟩
  · obtain ⟨hplain, harr⟩ := plainWord_prtWdog _ n.isLt
    exact ⟨_, execPrtWdogRead_pf n acc s, h.counts acc (regInfo_prtWdog _ n.isLt) hplain harr⟩
  · exact ⟨_, execPrtWdogRead_vf n acc s, State.readsAs_prtWdog_vf h n acc hd hon⟩
  · rw [execPrtWdogRead_vf, State.hostRead_nowhere h.perst _ (State.barSource_vfOff hd hoff)]
    simpa [vfOf, sriov, Nat.add_comm] using hd
  · rw [execPrtWdogRead_vf, State.hostRead_asleep]
    simpa [vfOf, sriov, Nat.add_comm] using hd
  · obtain ⟨hplain, harr⟩ := plainWord_snapstat _ n.isLt
    exact ⟨_, rfl, h.counts acc (regInfo_snapstat _ n.isLt) hplain harr⟩
  · have hword := plainWord_fabPort _ p.isLt
    exact ⟨⟨_, rfl, h.counts acc (regInfo_fabPstat _ p.isLt) (hword 0 (by simp)).1 (hword 0 (by simp)).2⟩,
      ⟨_, rfl, h.counts acc (regInfo_fabPfec _ p.isLt) (hword 0x10 (by simp)).1 (hword 0x10 (by simp)).2⟩,
      ⟨_, rfl, h.counts acc (regInfo_fabPretry _ p.isLt) (hword 0x18 (by simp)).1 (hword 0x18 (by simp)).2⟩⟩
  · obtain ⟨hplain, harr⟩ := plainWord_errCnt _ hk
    exact ⟨_, rfl, h.counts acc (regInfo_errCnt _ hk) hplain harr⟩
  · exact ⟨_, rfl, h.counts acc (show _ = RegInfo.mk 0 0 0 0xFFFFFFFF 0 from rfl) rfl rfl⟩
  · exact ⟨_, rfl, h.counts acc (show _ = RegInfo.mk 1000 0xFFFFFFFF 0 0xFFFF00000000 0 from rfl) rfl rfl⟩
  · exact ⟨_, rfl, h.counts acc (show _ = RegInfo.mk 0 0 0 0xFFFF00000000 0 from rfl) rfl rfl⟩
  · exact ⟨_, rfl, h.counts acc (show _ = RegInfo.mk 0 0 0 0xFFFFFFFF 0 from rfl) rfl rfl⟩
  · exact ⟨_, rfl, h.counts acc (show _ = RegInfo.mk 0 0 0 0xFFFF0000 0 from rfl) rfl rfl⟩
  · exact execScoreboardRead_present h core acc hp
  · exact execScoreboardRead_absent h core acc hp
  · rw [exec_slcStatRead, execSlcStatRead, State.hostRead]
    simp only [hperst, hd, State.barSource_pf hd (show 0x20008 < 0x1000000 by omega),
      State.barOpen_of_not_held hheld (show 0x10000 ≤ 0x20008 by omega) (Or.inl (by omega)), Bool.not_true, Bool.or_false,
      Bool.false_eq_true, if_false, Bool.not_false, if_true]

end Sys2Proof.Machine
end

section
/-!
PROOFS. What a write of a register word comes to (R4, R469): the word itself, and the rules of single registers.
-/
namespace Sys2Proof.Machine

/-! ### A word takes a value -/

/-- A word of the register file takes a value; the file stays as it is where the word holds it already. -/
def State.putReg (s : State) (o : Nat) (v : W64) : State := if v = s.reg o then s else s.setReg o v

@[simp] theorem State.reg_putReg (s : State) (o : Nat) (v : W64) : (s.putReg o v).reg o = v := by
  unfold State.putReg; split
  · simp [*]
  · exact State.reg_setReg ..

theorem State.reg_putReg_ne (s : State) {o p : Nat} (v : W64) (h : p ≠ o) : (s.putReg o v).reg p = s.reg p := by
  unfold State.putReg; split
  · rfl
  · exact State.reg_setReg_ne _ _ h

@[simp] theorem State.putReg_self (s : State) (o : Nat) : s.putReg o (s.reg o) = s := if_pos rfl
@[simp] theorem State.putReg_mem (s : State) (o : Nat) (v : W64) : (s.putReg o v).mem = s.mem := by
  unfold State.putReg; split <;> rfl
@[simp] theorem State.putReg_cores (s : State) (o : Nat) (v : W64) : (s.putReg o v).cores = s.cores := by
  unfold State.putReg; split <;> rfl
@[simp] theorem State.putReg_elapsed (s : State) (o : Nat) (v : W64) : (s.putReg o v).elapsed = s.elapsed := by
  unfold State.putReg; split <;> rfl

/-- Word `o` goes to `v`, and nothing else in registers, memory and cores changes. -/
def State.setsWord (s t : State) (o : Nat) (v : W64) : Prop :=
  t.reg o = v ∧ (∀ p, p ≠ o → t.reg p = s.reg p) ∧ t.mem = s.mem ∧ t.cores = s.cores

theorem State.setsWord_putReg (s : State) (o : Nat) (v : W64) : s.setsWord (s.putReg o v) o v :=
  ⟨State.reg_putReg .., fun _ h => State.reg_putReg_ne _ _ h, State.putReg_mem .., State.putReg_cores ..⟩

/-! ### What is asked for -/

/-- A word whose bits `k` take those of `v`. -/
def takeBits (old k v : W64) : W64 := (old &&& ~~~k) ||| (v &&& k)

theorem getLsbD_takeBits (old k v : W64) (i : Nat) :
    (takeBits old k v).getLsbD i = if k.getLsbD i then v.getLsbD i else old.getLsbD i := by
  unfold takeBits
  by_cases hi : i < 64
  · rw [BitVec.getLsbD_or, BitVec.getLsbD_and, BitVec.getLsbD_and, BitVec.getLsbD_not]
    cases hk : k.getLsbD i <;> simp only [hi] <;> simp
  · have hk := BitVec.getLsbD_of_ge k i (by omega)
    simp [hk, BitVec.getLsbD_of_ge old i (by omega)]

theorem takeBits_zero (old v : W64) : takeBits old 0 v = old :=
  BitVec.eq_of_getLsbD_eq fun i _ => by simp [getLsbD_takeBits]

/-- A field that is wholly taken; one that is wholly left. -/
theorem fld_takeBits {k : W64} {lo w : Nat} (old v : W64) (h : ∀ i < w, k.getLsbD (lo + i) = true) :
    fld (takeBits old k v) lo w = fld v lo w := by
  apply Nat.eq_of_testBit_eq
  intro i
  rw [testBit_fld, testBit_fld, getLsbD_takeBits]
  by_cases hi : i < w
  · simp [h i hi]
  · simp [hi]

theorem fld_takeBits_off {k : W64} {lo w : Nat} (old v : W64) (h : ∀ i < w, k.getLsbD (lo + i) = false) :
    fld (takeBits old k v) lo w = fld old lo w := by
  apply Nat.eq_of_testBit_eq
  intro i
  rw [testBit_fld, testBit_fld, getLsbD_takeBits]
  by_cases hi : i < w
  · simp [h i hi]
  · simp [hi]

/-! ### A field that a rule keeps -/

theorem fld_keepFld (old new : W64) (lo w : Nat) (bad : Bool) (h : lo + w ≤ 64) :
    fld (keepFld old new lo w bad) lo w = if bad then fld old lo w else fld new lo w := by
  cases bad
  · rfl
  · simp [keepFld, fld_setFld _ _ _ _ h, Nat.mod_eq_of_lt (fld_lt old lo w)]

theorem fld_keepFld_ne (old new : W64) (lo w : Nat) (bad : Bool) (lo' w' : Nat) (h : lo + w ≤ lo' ∨ lo' + w' ≤ lo) :
    fld (keepFld old new lo w bad) lo' w' = fld new lo' w' := by
  cases bad
  · rfl
  · exact fld_setFld_ne _ _ _ _ _ _ h

theorem keepFld_false (old new : W64) (lo w : Nat) : keepFld old new lo w false = new := rfl

/-- A field of one bit. -/
theorem fld_one (v : W64) (i : Nat) : fld v i 1 = (v.getLsbD i).toNat := by
  have h := testBit_fld v i 1 0
  have hlt := fld_lt v i 1
  cases hb : v.getLsbD i <;> simp [hb] at h ⊢ <;> omega

/-! ### A write -/

/-- A word with no rule of its own for what it takes. -/
def noRule (o : Nat) : Bool :=
  (ringOff o).isNone && !inArr o 0x200 0x8 32 && o != 0x10010 && o != 0x20000 && o != 0x40010 && o != 0x50008 &&
    !inArr o 0x50040 8 8 && o != 0x50010 && o != 0x50018 && !inArr o 0x51008 0x100 16 && !inArr o 0x58000 0x20 64 &&
    !inArr o 0x58008 0x20 64 && o != 0x60028 && !inArr o 0x70000 0x100 8 && !inArr o 0x70008 0x100 8 &&
    !inArr o 0x70018 0x100 8 && o != 0x80020 && o != 0x80030 && !inArr o 0x90000 8 2 && o != 0x90010

theorem State.regKeep_of_noRule (s : State) {o : Nat} (h : noRule o = true) (vf : Bool) (old new : W64) :
    s.regKeep o vf old new = new := by
  simp only [noRule, Bool.and_eq_true, bne_iff_ne, Bool.not_eq_true', Option.isNone_iff_eq_none] at h
  simp [State.regKeep, h]

/-- A word whose write does nothing more. -/
def noEffect (o : Nat) : Bool :=
  (ringOff o).isNone && !inArr o 0x200 0x8 32 && !inArr o 0x30090 0x1000 8 && o != 0x50008 && !inArr o 0x50040 8 8 &&
    o != 0x50028 && !inArr o 0x51008 0x100 16 && o != 0x60008 && !inArr o 0x70008 0x100 8 && o != 0x80038 && o < 0x100000

theorem State.regEffect_of_noEffect (s : State) {o : Nat} (h : noEffect o = true) (old new w : W64) :
    s.regEffect o old new w = s := by
  simp only [noEffect, Bool.and_eq_true, bne_iff_ne, Bool.not_eq_true', Option.isNone_iff_eq_none, decide_eq_true_eq] at h
  have hlt : ¬ 0x100000 ≤ o % 0x100000000 := by omega
  simp [State.regEffect, h, hlt]

/-- A word that is written by its access codes and its own rule. -/
def codedWord (o : Nat) : Bool := o % 8 == 0 && o != 0x60010 && !inArr o 0x90000 8 2

/-- What a write makes of such a word. -/
def State.written (s : State) (o : Nat) (vf : Bool) (m v : W64) : W64 :=
  s.regKeep o vf (s.reg o) (takeBits (s.reg o) (m &&& (regInfo o).rw) v)

/-- W1C bits are cleared; ST bits are staged. -/
def State.clears (s : State) (o : Nat) (k : W64) : State := if k = 0 then s else s.setReg o (s.reg o &&& ~~~k)
def State.stages (s : State) (o : Nat) (k v : W64) : State := if k = 0 then s else s.stageBits o k v

@[simp] theorem State.clears_zero (s : State) (o : Nat) : s.clears o 0#64 = s := if_pos rfl
@[simp] theorem State.stages_zero (s : State) (o : Nat) (v : W64) : s.stages o 0#64 v = s := if_pos rfl

theorem State.regWrite_eq (s : State) {o : Nat} (hc : codedWord o = true) (vf : Bool) (m v : W64) :
    s.regWrite o vf m v =
      (((s.putReg o (s.written o vf m v)).clears o (v &&& m &&& (regInfo o).w1c)).stages o (m &&& (regInfo o).st) v).regEffect
        o (s.reg o) (s.written o vf m v) (v &&& m &&& regWo o) := by
  simp only [codedWord, Bool.and_eq_true, beq_iff_eq, bne_iff_ne, Bool.not_eq_true'] at hc
  obtain ⟨⟨hal, hset⟩, hhalf⟩ := hc
  simp only [State.regWrite, hal, hset, hhalf, State.putReg, State.written, takeBits, State.clears, State.stages,
    BitVec.and_assoc, ne_eq, not_true_eq_false, Bool.false_eq_true, if_false]
  rfl

/-- A write of a word without W1C and ST fields. -/
theorem State.regWrite_rw (s : State) {o : Nat} (hc : codedWord o = true) {v0 rw rc : W64}
    (hi : regInfo o = ⟨v0, rw, 0, rc, 0⟩) (vf : Bool) (m v : W64) :
    s.regWrite o vf m v =
      (s.putReg o (s.written o vf m v)).regEffect o (s.reg o) (s.written o vf m v) (v &&& m &&& regWo o) := by
  simp [State.regWrite_eq s hc, hi]

theorem State.written_of_no_rw (s : State) {o : Nat} (hr : noRule o = true) (hrw : (regInfo o).rw = 0) (vf : Bool)
    (m v : W64) : s.written o vf m v = s.reg o := by
  rw [State.written, s.regKeep_of_noRule hr, hrw, show m &&& 0 = 0 from BitVec.and_zero, takeBits_zero]

/-- A write of a word of W1C fields only. -/
theorem State.regWrite_w1c (s : State) {o : Nat} (hc : codedWord o = true) (hr : noRule o = true) (he : noEffect o = true)
    {v0 w1c rc : W64} (hi : regInfo o = ⟨v0, 0, w1c, rc, 0⟩) (vf : Bool) (m v : W64) :
    s.regWrite o vf m v = s.clears o (v &&& m &&& w1c) := by
  simp [State.regWrite_eq s hc, State.written_of_no_rw s hr (by rw [hi]), hi, State.regEffect_of_noEffect _ he]

/-- A write of a word of ST fields only. -/
theorem State.regWrite_st (s : State) {o : Nat} (hc : codedWord o = true) (hr : noRule o = true) (he : noEffect o = true)
    {v0 rc st : W64} (hi : regInfo o = ⟨v0, 0, 0, rc, st⟩) (vf : Bool) (m v : W64) :
    s.regWrite o vf m v = s.stages o (m &&& st) v := by
  simp [State.regWrite_eq s hc, State.written_of_no_rw s hr (by rw [hi]), hi, State.regEffect_of_noEffect _ he]

/-- A write through the PF of a word that it reaches. -/
theorem State.hostWrite_pf {s : State} (hd : s.link.d3hot.getLsbD 0 = false) {o : Nat} (ho : o < 0x1000000)
    (hopen : s.barOpen o = true) (half : RegHalf) (v : W64) :
    s.hostWrite 0 o half v = if half = .other then s else s.regWrite o false (coverMask half) v := by
  have hmod : o % 0x100000000 = o := by omega
  rw [State.hostWrite, State.barTarget_pf hd ho]
  cases half <;> simp [hmod, hopen]

theorem State.hostOpen.writes {s : State} (h : s.hostOpen) {o : Nat} (ho : o < 0x1000000) (v : W64) :
    s.hostWrite 0 o .all v = s.regWrite o false 0xFFFFFFFFFFFFFFFF v := by
  rw [State.hostWrite_pf h.awake ho (h.barOpen o)]; rfl

/-- A write of a word without rule or effect, through the PF: an access of another size takes no bit. -/
theorem State.hostOpen.writesPlain {s : State} (h : s.hostOpen) {o : Nat} (ho : o < 0x1000000) (hc : codedWord o = true)
    (hr : noRule o = true) (he : noEffect o = true) {v0 rw rc : W64} (hi : regInfo o = ⟨v0, rw, 0, rc, 0⟩) (half : RegHalf)
    (v : W64) : s.hostWrite 0 o half v = s.putReg o (takeBits (s.reg o) (coverMask half &&& rw) v) := by
  rw [State.hostWrite_pf h.awake ho (h.barOpen o), State.regWrite_rw s hc hi, State.regEffect_of_noEffect _ he,
    State.written, s.regKeep_of_noRule hr, hi]
  split
  next e =>
    rw [e, show coverMask .other &&& rw = 0 from BitVec.zero_and, takeBits_zero, State.putReg_self]
  next => rfl

/-! ### Writes of whole words -/

theorem and_wholeMask (v : W64) : v &&& 0xFFFFFFFFFFFFFFFF = v := BitVec.and_allOnes
theorem wholeMask_and (v : W64) : 0xFFFFFFFFFFFFFFFF &&& v = v := BitVec.allOnes_and

theorem takeBits_all (old v : W64) : takeBits old 0xFFFFFFFFFFFFFFFF v = v := by
  rw [takeBits, and_wholeMask]; simp

/-- What a write of a whole word makes of it: its RW fields take the value, where its own rule lets them. -/
def State.takes (s : State) (o : Nat) (rw v : W64) : W64 := s.regKeep o false (s.reg o) (takeBits (s.reg o) rw v)

theorem State.hostOpen.writesRw {s : State} (h : s.hostOpen) {o : Nat} (ho : o < 0x1000000) (hc : codedWord o = true)
    {v0 rw rc : W64} (hi : regInfo o = ⟨v0, rw, 0, rc, 0⟩) (v : W64) :
    s.hostWrite 0 o .all v = (s.putReg o (s.takes o rw v)).regEffect o (s.reg o) (s.takes o rw v) (v &&& regWo o) := by
  rw [h.writes ho, State.regWrite_rw s hc hi, State.written, hi, wholeMask_and, and_wholeMask, State.takes]

theorem State.hostOpen.writesQuiet {s : State} (h : s.hostOpen) {o : Nat} (ho : o < 0x1000000) (hc : codedWord o = true)
    (he : noEffect o = true) {v0 rw rc : W64} (hi : regInfo o = ⟨v0, rw, 0, rc, 0⟩) (v : W64) :
    s.hostWrite 0 o .all v = s.putReg o (s.takes o rw v) := by
  rw [h.writesRw ho hc hi, State.regEffect_of_noEffect _ he]

/-- A write of a word whose bits are all W1C. -/
theorem State.hostOpen.writesW1c {s : State} (h : s.hostOpen) {o : Nat} (ho : o < 0x1000000) (hc : codedWord o = true)
    (hr : noRule o = true) (he : noEffect o = true) {v0 rc : W64} (hi : regInfo o = ⟨v0, 0, 0xFFFFFFFFFFFFFFFF, rc, 0⟩)
    (v : W64) : s.setsWord (s.hostWrite 0 o .all v) o (s.reg o &&& ~~~v) := by
  rw [h.writes ho, State.regWrite_w1c s hc hr he hi, and_wholeMask, and_wholeMask, State.clears]
  split
  next hz =>
    refine ⟨?_, fun _ _ => rfl, rfl, rfl⟩
    rw [hz]
    exact BitVec.and_allOnes.symm
  next => exact ⟨State.reg_setReg .., fun _ hp => State.reg_setReg_ne _ _ hp, rfl, rfl⟩

end Sys2Proof.Machine
end

section
/-!
PROOFS. Writes of single registers of the blocks `HST_`, `PRT_`, `TRC_`, `ERR_`, `TIM_` and `GLB_` (R15, R275, R300, R372, R384,
R397, R420, R422).
-/
namespace Sys2Proof.Machine

variable {s : State}

/-! ### `HST_WINBASE` -/

theorem regKeep_winbase (s : State) (vf : Bool) (old new : W64) :
    s.regKeep 0x10010 vf old new = if fld new 0 43 % 2 ^ s.link.barLog = 0 then new else old := rfl

theorem State.hostOpen.writesWinbase (h : s.hostOpen) (v : W64) :
    exec (.hstWinbaseWrite v) s = .next (s.putReg 0x10010 (if fld v 0 43 % 2 ^ s.link.barLog = 0 then
      takeBits (s.reg 0x10010) 0x7FFFFFFFFFF v else s.reg 0x10010)) := by
  rw [exec_hstWinbaseWrite, execHstWinbaseWrite, h.writesQuiet (by decide) (by decide) (by decide)
    (show _ = RegInfo.mk 0 0x7FFFFFFFFFF 0 0 0 from rfl), State.takes, regKeep_winbase,
    fld_takeBits _ _ (by decide)]

/-! ### The error log -/

theorem regKeep_logcons (s : State) (vf : Bool) (old new : W64) :
    s.regKeep 0x80020 vf old new = if new < old ∨ s.reg 0x80018 < new then old else new := rfl

theorem State.hostOpen.writesLogcons (h : s.hostOpen) (v : W64) :
    exec (.errLogconsWrite v) s = .next (s.putReg 0x80020 (if v < s.reg 0x80020 ∨ s.reg 0x80018 < v then
      s.reg 0x80020 else v)) := by
  rw [exec_errLogconsWrite, execErrLogconsWrite, h.writesQuiet (by decide) (by decide) (by decide)
    (show _ = RegInfo.mk 0 0xFFFFFFFFFFFFFFFF 0 0 0 from rfl), State.takes, regKeep_logcons, takeBits_all]

/-- A suspect bit that is written as 1 is cleared (R422). -/
theorem State.hostOpen.clearsSusp (h : s.hostOpen) (k : BitVec 4) (v : W64) :
    s.setsWord (s.hostWrite 0 (0x80800 + 8 * k.toNat) .all v) (0x80800 + 8 * k.toNat)
      (s.reg (0x80800 + 8 * k.toNat) &&& ~~~v) := by
  have hword : ∀ k < 16, regInfo (0x80800 + 8 * k) = ⟨0, 0, 0xFFFFFFFFFFFFFFFF, 0, 0⟩ ∧ codedWord (0x80800 + 8 * k) = true ∧
    noRule (0x80800 + 8 * k) = true ∧ noEffect (0x80800 + 8 * k) = true := by decide
  obtain ⟨hi, hc, hr, he⟩ := hword _ k.isLt
  exact h.writesW1c (by have := k.isLt; omega) hc hr he hi v

/-! ### `ERR_QFORCE` (R426) -/

theorem regEffect_qforce (s : State) (old new w : W64) : s.regEffect 0x80038 old new w =
    if w.getLsbD 10 ∧ s.present (fld w 0 10) then s.quarantine (fld w 0 10) 0xFD else s := rfl

theorem State.hostOpen.writesQforce (h : s.hostOpen) (v : W64) :
    exec (.errQforce v) s = .next (if v.getLsbD 10 ∧ s.present (fld v 0 10) then s.quarantine (fld v 0 10) 0xFD else s) := by
  have hbit : (v &&& regWo 0x80038).getLsbD 10 = v.getLsbD 10 := by
    rw [BitVec.getLsbD_and, show (regWo 0x80038).getLsbD 10 = true by decide, Bool.and_true]
  have hcore : fld (v &&& regWo 0x80038) 0 10 = fld v 0 10 := by
    apply Nat.eq_of_testBit_eq
    intro i
    have hmask : ∀ i < 10, (regWo 0x80038).getLsbD (0 + i) = true := by decide
    rw [testBit_fld, testBit_fld, BitVec.getLsbD_and]
    by_cases hi : i < 10
    · rw [hmask i hi, Bool.and_true]
    · simp [hi]
  rw [exec_errQforce, execErrQforce, h.writesRw (by decide) (by decide) (show _ = RegInfo.mk 0 0 0 0 0 from rfl), State.takes,
    State.regKeep_of_noRule _ (by decide), takeBits_zero, State.putReg_self, regEffect_qforce, hbit, hcore]

/-! ### Partition registers -/

/-- `PRT_TTFLUSH`: a 1 sets `BUSY` (R275). -/
theorem State.hostOpen.writesTtflush (h : s.hostOpen) (n : BitVec 3) (v : W64) :
    exec (.prtTtflush n v) s = .next (if v.getLsbD 0 then s.setRfld (prt n.toNat 0x90) 1 1 1 else s) := by
  have hword : ∀ n < 8, regInfo (prt n 0x90) = ⟨0, 0, 0, 0, 0⟩ ∧ codedWord (prt n 0x90) = true ∧
    noRule (prt n 0x90) = true ∧ regWo (prt n 0x90) = 1 ∧ ringOff (prt n 0x90) = none ∧
    inArr (prt n 0x90) 0x200 0x8 32 = false ∧ inArr (prt n 0x90) 0x30090 0x1000 8 = true := by decide
  obtain ⟨hi, hc, hr, hwo, hring, hrow, harr⟩ := hword _ n.isLt
  have hbit : (v &&& 1).getLsbD 0 = v.getLsbD 0 := by rw [BitVec.getLsbD_and]; simp
  rw [exec_prtTtflush, execPrtTtflush, h.writesRw (by have := n.isLt; unfold prt; omega) hc hi, State.takes,
    s.regKeep_of_noRule hr, takeBits_zero, State.putReg_self, hwo, State.regEffect, hring]
  simp only [hrow, harr, hbit, Bool.false_eq_true, if_false, if_true]

theorem State.hostOpen.writesDlcons (h : s.hostOpen) (n : BitVec 3) (v : W64) :
    exec (.prtDlconsWrite n v) s =
      .next (s.putReg (prt n.toNat 0x118) (takeBits (s.reg (prt n.toNat 0x118)) 0xFFFFFFFF v)) := by
  have hword : ∀ n < 8, regInfo (prt n 0x118) = ⟨0, 0xFFFFFFFF, 0, 0, 0⟩ ∧ codedWord (prt n 0x118) = true ∧
    noRule (prt n 0x118) = true ∧ noEffect (prt n 0x118) = true := by decide
  obtain ⟨hi, hc, hr, he⟩ := hword _ n.isLt
  rw [exec_prtDlconsWrite, execPrtDlconsWrite, h.writesQuiet (by have := n.isLt; unfold prt; omega) hc he hi, State.takes,
    s.regKeep_of_noRule hr]

/-! ### Trace rings (R397) -/

theorem regKeep_trcCons (s : State) {n : Nat} (hn : n < 8) (vf : Bool) (old new : W64) :
    s.regKeep (trc n 0x18) vf old new = if new < old ∨ s.reg (trc n 0x10) < new then old else new := by
  interval_cases n <;> rfl

theorem State.hostOpen.writesTrcCons (h : s.hostOpen) (n : BitVec 3) (v : W64) :
    exec (.trcConsWrite n v) s = .next (s.putReg (trc n.toNat 0x18)
      (if v < s.reg (trc n.toNat 0x18) ∨ s.reg (trc n.toNat 0x10) < v then s.reg (trc n.toNat 0x18) else v)) := by
  have hword : ∀ n < 8, regInfo (trc n 0x18) = ⟨0, 0xFFFFFFFFFFFFFFFF, 0, 0, 0⟩ ∧ codedWord (trc n 0x18) = true ∧
    noEffect (trc n 0x18) = true := by decide
  obtain ⟨hi, hc, he⟩ := hword _ n.isLt
  rw [exec_trcConsWrite, execTrcConsWrite, h.writesQuiet (by have := n.isLt; unfold trc; omega) hc he hi, State.takes,
    regKeep_trcCons s n.isLt, takeBits_all]

theorem regKeep_trcCfg (s : State) {n : Nat} (hn : n < 8) (vf : Bool) (old new : W64) :
    s.regKeep (trc n 8) vf old new = keepFld old new 0 5 (old.getLsbD 5 || fld new 0 5 < 10 || 24 < fld new 0 5) := by
  interval_cases n <;> rfl

theorem regEffect_trcCfg (s : State) {n : Nat} (hn : n < 8) (old new w : W64) :
    s.regEffect (trc n 8) old new w =
      if !old.getLsbD 5 && new.getLsbD 5 then (s.setReg (trc n 0x10) 0).setReg (trc n 0x18) 0 else s := by
  have hword : ∀ n < 8, ringOff (trc n 8) = none ∧ inArr (trc n 8) 0x200 0x8 32 = false ∧
    inArr (trc n 8) 0x30090 0x1000 8 = false ∧ trc n 8 ≠ 0x50008 ∧ inArr (trc n 8) 0x50040 8 8 = false ∧
    trc n 8 ≠ 0x50028 ∧ inArr (trc n 8) 0x51008 0x100 16 = false ∧ trc n 8 ≠ 0x60008 ∧
    inArr (trc n 8) 0x70008 0x100 8 = true ∧ trc n 8 ≠ 0x80038 ∧ ¬ 0x100000 ≤ trc n 8 % 0x100000000 := by decide
  obtain ⟨hring, h1, h2, h3, h4, h5, h6, h7, harr, h8, h9⟩ := hword n hn
  simp only [State.regEffect, hring, h1, h2, h3, h4, h5, h6, h7, harr, h8, h9, Bool.false_eq_true, true_and, false_and, if_false]
  rfl

/-- The value that `TRC_CFG` takes: its size is fixed while it is enabled, and one out of range is ignored. -/
def State.trcCfgNew (s : State) (n : Nat) (v : W64) : W64 :=
  let old := s.reg (trc n 8)
  keepFld old (takeBits old 0xFFFFFFFF0000003F v) 0 5 (old.getLsbD 5 || fld v 0 5 < 10 || 24 < fld v 0 5)

theorem State.fld_trcCfgNew_en (s : State) (n : Nat) (v : W64) : fld (s.trcCfgNew n v) 5 1 = fld v 5 1 := by
  rw [State.trcCfgNew, fld_keepFld_ne _ _ _ _ _ _ _ (by omega), fld_takeBits _ _ (by decide)]

theorem State.fld_trcCfgNew_types (s : State) (n : Nat) (v : W64) : fld (s.trcCfgNew n v) 32 32 = fld v 32 32 := by
  rw [State.trcCfgNew, fld_keepFld_ne _ _ _ _ _ _ _ (by omega), fld_takeBits _ _ (by decide)]

theorem State.fld_trcCfgNew_log (s : State) (n : Nat) (v : W64) : fld (s.trcCfgNew n v) 0 5 =
    if s.rfld (trc n 8) 5 1 = 0 ∧ 10 ≤ fld v 0 5 ∧ fld v 0 5 ≤ 24 then fld v 0 5 else s.rfld (trc n 8) 0 5 := by
  rw [State.trcCfgNew, fld_keepFld _ _ _ _ _ (by omega), fld_takeBits _ _ (by decide), State.rfld, State.rfld, fld_one]
  cases hen : (s.reg (trc n 8)).getLsbD 5
  · by_cases hlog : 10 ≤ fld v 0 5 ∧ fld v 0 5 ≤ 24
    · have h1 : ¬ fld v 0 5 < 10 := by omega
      have h2 : ¬ 24 < fld v 0 5 := by omega
      simp [hlog, h1, h2]
    · have h1 : fld v 0 5 < 10 ∨ 24 < fld v 0 5 := by omega
      simp only [Bool.false_or, Bool.or_eq_true, decide_eq_true_eq, h1, hlog, if_true, and_false, if_false]
  · simp

theorem State.hostOpen.writesTrcCfg (h : s.hostOpen) (n : BitVec 3) (v : W64) :
    exec (.trcCfgWrite n v) s = .next (if s.rfld (trc n.toNat 8) 5 1 = 0 ∧ fld v 5 1 = 1 then
      ((s.putReg (trc n.toNat 8) (s.trcCfgNew n.toNat v)).setReg (trc n.toNat 0x10) 0).setReg (trc n.toNat 0x18) 0
      else s.putReg (trc n.toNat 8) (s.trcCfgNew n.toNat v)) := by
  have hword : ∀ n < 8, codedWord (trc n 8) = true ∧ trc n 8 < 0x1000000 := by decide
  obtain ⟨hc, hlt⟩ := hword _ n.isLt
  have htake : s.takes (trc n.toNat 8) 0xFFFFFFFF0000003F v = s.trcCfgNew n.toNat v := by
    rw [State.takes, regKeep_trcCfg s n.isLt, fld_takeBits _ _ (by decide)]; rfl
  have hrose : (!(s.reg (trc n.toNat 8)).getLsbD 5 && (s.trcCfgNew n.toNat v).getLsbD 5) =
      decide (s.rfld (trc n.toNat 8) 5 1 = 0 ∧ fld v 5 1 = 1) := by
    rw [← State.fld_trcCfgNew_en s n.toNat v, State.rfld, fld_one, fld_one]
    cases (s.reg (trc n.toNat 8)).getLsbD 5 <;> cases (s.trcCfgNew n.toNat v).getLsbD 5 <;> rfl
  rw [exec_trcCfgWrite, execTrcCfgWrite, h.writesRw hlt hc (regInfo_trcCfg _ n.isLt), htake, regEffect_trcCfg _ n.isLt, hrose]
  simp only [decide_eq_true_eq]

/-! ### Post rings (R372) -/

theorem getLsbD_keepFld (old new : W64) (lo w : Nat) (bad : Bool) (i : Nat) :
    (keepFld old new lo w bad).getLsbD i = if bad = true ∧ lo ≤ i ∧ i < lo + w then old.getLsbD i else new.getLsbD i := by
  cases bad
  · simp [keepFld]
  · rw [keepFld, if_pos rfl, getLsbD_setFld, testBit_fld]
    by_cases hi : lo ≤ i ∧ i < lo + w
    · obtain ⟨h1, h2⟩ := hi
      have hlt : i - lo < w := by omega
      have heq : lo + (i - lo) = i := by omega
      by_cases hw : i < 64
      · simp [h1, h2, hw, hlt, heq]
      · simp [h1, h2, hw, BitVec.getLsbD_of_ge old i (by omega), BitVec.getLsbD_of_ge new i (by omega)]
    · have hout : ¬(lo ≤ i ∧ i < lo + w ∧ i < 64) := fun h => hi ⟨h.1, h.2.1⟩
      simp only [hi, hout, and_false, if_false]

theorem regKeep_postRing (s : State) {r : Nat} (hr : r < 64) (vf : Bool) (old new : W64) :
    s.regKeep (prng r 0) vf old new = keepFld old (keepFld old (keepFld old new 0 43 (old.getLsbD 56)) 48 5
      (old.getLsbD 56 || fld new 48 5 < 7 || 18 < fld new 48 5)) 53 3 (old.getLsbD 56) := by
  interval_cases r <;> rfl

/-- While a post ring is enabled its other fields stay. -/
theorem fld_takes_postRing {r : Nat} (hr : r < 64) (hen : (s.reg (prng r 0)).getLsbD 56 = true) (v : W64) :
    fld (s.takes (prng r 0) 0x1FF07FFFFFFFFFF v) 0 56 = s.rfld (prng r 0) 0 56 ∧
      fld (s.takes (prng r 0) 0x1FF07FFFFFFFFFF v) 56 1 = fld v 56 1 := by
  rw [State.takes, regKeep_postRing s hr, hen]
  constructor
  · apply Nat.eq_of_testBit_eq
    intro i
    rw [State.rfld, testBit_fld, testBit_fld]
    by_cases hi : i < 56
    · have hrw : ∀ i < 56, (0x1FF07FFFFFFFFFF : W64).getLsbD i = true → i < 43 ∨ 48 ≤ i := by decide
      have hbit := hrw i hi
      simp only [Nat.zero_add, getLsbD_keepFld, getLsbD_takeBits, Bool.true_or]
      grind
    · simp [hi]
  · rw [fld_keepFld_ne _ _ _ _ _ _ _ (by omega), fld_keepFld_ne _ _ _ _ _ _ _ (by omega),
      fld_keepFld_ne _ _ _ _ _ _ _ (by omega), fld_takeBits _ _ (by decide)]

/-! ### `GLB_HROW` (R15) -/

theorem regKeep_hrow (s : State) {k : Nat} (hk : k < 32) (vf : Bool) (old new : W64) :
    s.regKeep (0x200 + 8 * k) vf old new = keepFld old (keepFld old new 7 5 (17 ≤ fld new 7 5 && fld new 7 5 ≠ 31)) 39 5
      (17 ≤ fld new 39 5 && fld new 39 5 ≠ 31) := by
  interval_cases k <;> rfl

/-- The fuse requests that a change of the two positions of a word makes. -/
def State.asksFor (s : State) (k : Nat) (old new : W64) : State :=
  let s := if fld old 7 5 = fld new 7 5 then s else s.askPos (2 * k) (fld new 7 5)
  if fld old 39 5 = fld new 39 5 then s else s.askPos (2 * k + 1) (fld new 39 5)

theorem regEffect_hrow (s : State) {k : Nat} (hk : k < 32) (old new w : W64) :
    s.regEffect (0x200 + 8 * k) old new w = s.asksFor k old new := by
  interval_cases k <;> rfl

/-- The half of a word that holds a half-row, and the lowest bit of its `REFUSE_POS`. -/
def hrowHalf (n : BitVec 6) : RegHalf := if n.getLsbD 0 then .high else .low
def hrowLo (n : BitVec 6) : Nat := 32 * (n.toNat % 2) + 7

/-- The word with the half-row's `REFUSE_POS` at `f`. -/
def State.hrowAsked (s : State) (n : BitVec 6) (v : W32) : W64 :=
  takeBits (s.reg (0x200 + 8 * (n.toNat / 2))) (coverMask (hrowHalf n) &&& 0x00000F8000000F80)
    (v.setWidth 64 <<< (if n.getLsbD 0 then 32 else 0))

theorem hrow_low_or_high (n : BitVec 6) : (n.getLsbD 0 = false ∧ n.toNat % 2 = 0) ∨ (n.getLsbD 0 = true ∧ n.toNat % 2 = 1) := by
  have h : n.getLsbD 0 = decide (n.toNat % 2 = 1) := by simp [BitVec.getLsbD, Nat.testBit_zero]
  rw [h]
  rcases Nat.mod_two_eq_zero_or_one n.toNat with hm | hm <;> simp [hm]

theorem fld_shifted (v : W32) : fld (v.setWidth 64 <<< 32) 39 5 = fld v 7 5 := by
  apply Nat.eq_of_testBit_eq
  intro i
  rw [testBit_fld, testBit_fld]
  by_cases hi : i < 5
  · have h1 : ¬ 39 + i < 32 := by omega
    have h2 : 39 + i < 64 := by omega
    have h3 : 39 + i - 32 = 7 + i := by omega
    simp [hi, h1, h2, h3]
  · simp [hi]

theorem fld_setWidth (v : W32) : fld (v.setWidth 64) 7 5 = fld v 7 5 := by
  apply Nat.eq_of_testBit_eq
  intro i
  rw [testBit_fld, testBit_fld]
  by_cases hi : i < 5
  · simp [hi]; omega
  · simp [hi]

/-- The field that the write asks for, and the one of the word's other half-row. -/
theorem State.fld_hrowAsked (s : State) (n : BitVec 6) (v : W32) :
    fld (s.hrowAsked n v) (hrowLo n) 5 = fld v 7 5 ∧
      fld (s.hrowAsked n v) (46 - hrowLo n) 5 = s.rfld (0x200 + 8 * (n.toNat / 2)) (46 - hrowLo n) 5 := by
  rcases hrow_low_or_high n with ⟨hb, hm⟩ | ⟨hb, hm⟩
  · simp only [State.hrowAsked, hrowHalf, hrowLo, hb, hm, Bool.false_eq_true, if_false, BitVec.shiftLeft_zero]
    exact ⟨by rw [fld_takeBits _ _ (by decide)]; exact fld_setWidth v, fld_takeBits_off _ _ (by decide)⟩
  · simp only [State.hrowAsked, hrowHalf, hrowLo, hb, hm, if_true]
    exact ⟨by rw [fld_takeBits _ _ (by decide)]; exact fld_shifted v, fld_takeBits_off _ _ (by decide)⟩

/-- The word that a write of a half-row leaves: a position that is none is ignored. -/
def State.hrowNew (s : State) (n : BitVec 6) (v : W32) : W64 :=
  if 17 ≤ fld v 7 5 ∧ fld v 7 5 ≠ 31 then s.reg (0x200 + 8 * (n.toNat / 2)) else s.hrowAsked n v

theorem keepFld_of_same {old new : W64} {lo w : Nat} (h : fld new lo w = fld old lo w) (bad : Bool) :
    keepFld old new lo w bad = new := by
  apply BitVec.eq_of_getLsbD_eq
  intro i _
  rw [getLsbD_keepFld]
  split
  next hin =>
    obtain ⟨-, hlo, hhi⟩ := hin
    have hb := congrArg (fun x => x.testBit (i - lo)) h
    simpa [testBit_fld, show i - lo < w by omega, show lo + (i - lo) = i by omega] using hb.symm
  next => rfl

theorem keepFld_of_within {k : W64} {lo w : Nat} (old v : W64) (h : ∀ i < 64, k.getLsbD i = true → lo ≤ i ∧ i < lo + w) :
    keepFld old (takeBits old k v) lo w true = old := by
  apply BitVec.eq_of_getLsbD_eq
  intro i hi
  have hin := h i hi
  rw [getLsbD_keepFld, getLsbD_takeBits]
  grind

theorem State.keeps_hrow (s : State) (n : BitVec 6) (v : W32) :
    s.regKeep (0x200 + 8 * (n.toNat / 2)) false (s.reg (0x200 + 8 * (n.toNat / 2))) (s.hrowAsked n v) = s.hrowNew n v := by
  have hk : n.toNat / 2 < 32 := by have := n.isLt; omega
  obtain ⟨hmine, hother⟩ := s.fld_hrowAsked n v
  have hbad (b : Bool) (hb : n.getLsbD 0 = b) : ∀ i < 64, (coverMask (hrowHalf n) &&& 0x00000F8000000F80).getLsbD i = true →
      hrowLo n ≤ i ∧ i < hrowLo n + 5 := by
    rcases hrow_low_or_high n with ⟨hb, hm⟩ | ⟨hb, hm⟩ <;> simp only [hrowHalf, hrowLo, hb, hm] <;> decide
  rw [regKeep_hrow s hk, State.hrowNew]
  rcases hrow_low_or_high n with ⟨hb, hm⟩ | ⟨hb, hm⟩
  · have hlo : hrowLo n = 7 := by rw [hrowLo, hm]
    rw [hlo] at hmine hother
    rw [hmine]
    by_cases hf : 17 ≤ fld v 7 5 ∧ fld v 7 5 ≠ 31
    · rw [if_pos hf, ← Bool.decide_and, decide_eq_true hf, State.hrowAsked, keepFld_of_within _ _ (hlo ▸ hbad _ hb),
        keepFld_of_same rfl]
    · rw [if_neg hf, ← Bool.decide_and, decide_eq_false hf, keepFld_false, keepFld_of_same hother]
  · have hlo : hrowLo n = 39 := by rw [hrowLo, hm]
    rw [hlo] at hmine hother
    rw [keepFld_of_same hother, hmine]
    by_cases hf : 17 ≤ fld v 7 5 ∧ fld v 7 5 ≠ 31
    · rw [if_pos hf, ← Bool.decide_and, decide_eq_true hf, State.hrowAsked, keepFld_of_within _ _ (hlo ▸ hbad _ hb)]
    · rw [if_neg hf, ← Bool.decide_and, decide_eq_false hf, keepFld_false]

/-- A write of `REFUSE_POS` of a half-row (R15). -/
theorem State.hostOpen.writesHrow (h : s.hostOpen) (n : BitVec 6) (v : W32) :
    exec (.refusePosWrite n v) s = .next ((s.putReg (0x200 + 8 * (n.toNat / 2)) (s.hrowNew n v)).asksFor (n.toNat / 2)
      (s.reg (0x200 + 8 * (n.toNat / 2))) (s.hrowNew n v)) := by
  have hk : n.toNat / 2 < 32 := by have := n.isLt; omega
  have hword : ∀ k < 32, regInfo (0x200 + 8 * k) = ⟨0x00000F9F00000F9F, 0x00000F8000000F80, 0, 0, 0⟩ ∧
    codedWord (0x200 + 8 * k) = true := by decide
  obtain ⟨hi, hc⟩ := hword _ hk
  have hhalf : hrowHalf n ≠ .other := by unfold hrowHalf; split <;> simp
  have hnew : s.written (0x200 + 8 * (n.toNat / 2)) false (coverMask (hrowHalf n))
      (v.setWidth 64 <<< (if n.getLsbD 0 then 32 else 0)) = s.hrowNew n v := by
    rw [State.written, hi]; exact s.keeps_hrow n v
  rw [exec_refusePosWrite, execRefusePosWrite]
  rw [show (if n.getLsbD 0 = true then RegHalf.high else .low) = hrowHalf n from rfl,
    State.hostWrite_pf h.awake (by omega) (h.barOpen _), if_neg hhalf, State.regWrite_rw s hc hi, hnew, regEffect_hrow _ hk]

theorem State.asksFor_regs (s : State) (k : Nat) (old new : W64) : (s.asksFor k old new).regs = s.regs := by
  unfold State.asksFor; simp only []; split <;> split <;> rfl

theorem State.asksFor_self (s : State) (k : Nat) (w : W64) : s.asksFor k w w = s := by simp [State.asksFor]

/-- The request of the half-row whose position changed. -/
theorem State.posReq_asksFor (s : State) (n : BitVec 6) {old new : W64} (hne : fld old (hrowLo n) 5 ≠ fld new (hrowLo n) 5)
    (hsame : fld old (46 - hrowLo n) 5 = fld new (46 - hrowLo n) 5) (d : Nat) :
    AMap.get d (s.asksFor (n.toNat / 2) old new).boot.posReq n.toNat = fld new (hrowLo n) 5 := by
  rcases hrow_low_or_high n with ⟨hb, hm⟩ | ⟨hb, hm⟩ <;> simp only [hrowLo, hm] at hne hsame ⊢
  · have hn : n.toNat = 2 * (n.toNat / 2) := by omega
    simp only [State.asksFor, if_neg hne, if_pos hsame, State.askPos]
    rw [← hn]; exact AMap.get_put_same ..
  · have hn : n.toNat = 2 * (n.toNat / 2) + 1 := by omega
    simp only [State.asksFor, if_neg hne, if_pos hsame, State.askPos]
    rw [← hn]; exact AMap.get_put_same ..

/-! ### `TIM_SET` (R384) -/

/-- The state with the new time, before the boundaries are passed. -/
def State.timeMoved (s : State) (v : W64) : State :=
  { s with devtime := v, frac := 0, sync := { s.sync with
    ppsEdge := none, ppsGood := none, ppsRun := 0, set := some (s.elapsed, s.devtime) } }

/-- Of the partitions listed, each that is not `EMPTY` goes on at its first boundary that the time `v` has not passed. -/
def State.passTo (s : State) (v : W64) (ns : List Nat) : State :=
  ns.foldl (fun s n => if s.pstate n = psEmpty then s else s.modPart n (fun p => { p with nextK := s.firstK n v.toNat })) s

theorem State.setTime_eq (s : State) (v : W64) : s.setTime v = (s.timeMoved v).passTo v (List.range 8) := rfl

theorem State.passTo_outer (s : State) (v : W64) (ns : List Nat) :
    (s.passTo v ns).devtime = s.devtime ∧ (s.passTo v ns).frac = s.frac ∧ (s.passTo v ns).elapsed = s.elapsed ∧
      (s.passTo v ns).regs = s.regs := by
  induction ns generalizing s with
  | nil => exact ⟨rfl, rfl, rfl, rfl⟩
  | cons n ns ih =>
    rw [State.passTo, List.foldl_cons]
    split
    · exact ih s
    · exact ih _

theorem State.part_passTo_ne (s : State) (v : W64) (ns : List Nat) {n : Nat} (hn : n ∉ ns) :
    (s.passTo v ns).part n = s.part n := by
  induction ns generalizing s with
  | nil => rfl
  | cons m ns ih =>
    obtain ⟨hne, hns⟩ := List.ne_and_not_mem_of_not_mem_cons hn
    rw [State.passTo, List.foldl_cons]
    refine (ih _ hns).trans ?_
    split
    · rfl
    · exact State.part_setPart_ne _ _ hne

theorem State.nextK_passTo (s : State) (v : W64) (ns : List Nat) {n : Nat} (hn : n ∈ ns) (hs : s.pstate n ≠ psEmpty) :
    ((s.passTo v ns).part n).nextK = s.firstK n v.toNat := by
  induction ns generalizing s with
  | nil => exact absurd hn List.not_mem_nil
  | cons m ns ih =>
    rw [State.passTo, List.foldl_cons]
    by_cases hmem : n ∈ ns
    · split
      · exact ih s hmem hs
      · exact ih _ hmem hs
    · obtain rfl : n = m := (List.mem_cons.1 hn).resolve_right hmem
      rw [if_neg hs]
      exact (congrArg Part.nextK (State.part_passTo_ne _ v ns hmem)).trans (congrArg Part.nextK (State.part_setPart ..))

/-- The first boundary that a time has not passed: it lies at or after the time, and every earlier one before it. -/
theorem State.firstK_spec (s : State) (n x : Nat) (hp : 0 < s.period n) :
    x ≤ s.t0 n + s.firstK n x * s.period n ∧ ∀ k < s.firstK n x, s.t0 n + k * s.period n < x := by
  have hdiv := Nat.div_add_mod (x - s.t0 n + s.period n - 1) (s.period n)
  have hmod := Nat.mod_lt (x - s.t0 n + s.period n - 1) hp
  rw [Nat.mul_comm] at hdiv
  refine ⟨by unfold State.firstK; omega, fun k hk => ?_⟩
  have hle : (k + 1) * s.period n ≤ s.firstK n x * s.period n := Nat.mul_le_mul_right _ hk
  rw [Nat.succ_mul] at hle
  unfold State.firstK at hle
  omega

/-- A set of the time that is taken (R384). -/
theorem State.hostOpen.setsTime (h : s.hostOpen) (hparent : s.rfld 0x50020 0 4 = 15) (v : W64) :
    exec (.timSet v) s = .next (if s.dstate ≠ 6 then s.setTime v else s) := by
  rw [exec_timSet, execTimSet]
  simp only [h.barOpen, hparent, dsRun, and_self, and_true]
  split <;> rfl

theorem State.setTime_spec (s : State) (v : W64) :
    (s.setTime v).devtime = v ∧ (s.setTime v).frac = 0 ∧ (s.setTime v).elapsed = s.elapsed ∧ (s.setTime v).regs = s.regs ∧
      ∀ n, n < 8 → s.pstate n ≠ 0 → 0 < s.period n →
        v.toNat ≤ s.t0 n + ((s.setTime v).part n).nextK * s.period n ∧
        ∀ k, k < ((s.setTime v).part n).nextK → s.t0 n + k * s.period n < v.toNat := by
  obtain ⟨htime, hfrac, helapsed, hregs⟩ := (s.timeMoved v).passTo_outer v (List.range 8)
  refine ⟨htime, hfrac, helapsed, hregs, fun n hn hs hp => ?_⟩
  rw [State.setTime_eq, (s.timeMoved v).nextK_passTo v _ (List.mem_range.2 hn) hs]
  exact (s.timeMoved v).firstK_spec n v.toNat hp

/-! ### The end of a translation flush (R275) -/

/-- Cores with their translation caches empty. -/
def State.flushed (s : State) (cs : List Nat) : State :=
  cs.foldl (fun (s : State) c => s.modCore c (fun k => { k with mem := { k.mem with tlb := [] } })) s

theorem State.core_flushed (s : State) (cs : List Nat) (c : Nat) : (s.flushed cs).core c =
    if c ∈ cs then { s.core c with mem := { (s.core c).mem with tlb := [] } } else s.core c := by
  induction cs generalizing s with
  | nil => rfl
  | cons d cs ih =>
    rw [State.flushed, List.foldl_cons]
    refine (ih _).trans ?_
    by_cases hd : c = d
    · subst hd; simp [State.core_modCore]
    · simp [State.modCore, State.core_setCore_ne _ _ hd, hd]

theorem State.flushed_outer (s : State) (cs : List Nat) : (s.flushed cs).mem = s.mem ∧ (s.flushed cs).regs = s.regs := by
  induction cs generalizing s with
  | nil => exact ⟨rfl, rfl⟩
  | cons d cs ih => exact ih _

theorem execTtflushComplete_eq (part : BitVec 3) (s : State) : exec (.ttflushComplete part) s =
    .next (if s.rfld (prt part.toNat 0x90) 1 1 = 1 then
      (s.flushed (s.partCores part.toNat)).setRfld (prt part.toNat 0x90) 1 1 0 else s) := by
  rw [exec_ttflushComplete, execTtflushComplete]
  simp only []
  split <;> rfl

end Sys2Proof.Machine
end

section
/-!
PROOFS. Writes of the ring register sets (R295, R300), and writes by access code alone (R4, R294, R469).
-/
namespace Sys2Proof.Machine

variable {s : State}

/-! ### The ring register sets -/

theorem ringOff_rg {g r : Nat} (hg : g < 512) (hr : r < 0x40) : ringOff (rg g r) = some (g, r) := by
  have hin : 0x18000 ≤ rg g r ∧ rg g r < 0x20000 := by unfold rg; omega
  have hdiv : (rg g r - 0x18000) / 0x40 = g := by unfold rg; omega
  have hmod : (rg g r - 0x18000) % 0x40 = r := by unfold rg; omega
  rw [ringOff, if_pos hin, hdiv, hmod]

theorem rg_ne {g r q : Nat} (h : r ≠ q) : rg g r ≠ rg g q := by unfold rg; omega

theorem State.regKeep_rg (s : State) {g r : Nat} (hg : g < 512) (hr : r < 0x40) (vf : Bool) (old new : W64) :
    s.regKeep (rg g r) vf old new =
      if r = 0x00 then (if s.sqEn g then old else new)
      else if r = 0x18 then (if s.cqEn g then old else new)
      else if r = 0x08 then s.ringCfg g old new
      else if r = 0x20 then keepFld old (s.ringCfg g old new) 8 11 (vf && 127 < fld new 8 11)
      else new := by
  simp only [State.regKeep, ringOff_rg hg hr]

/-- The ring of a submission queue starts: nothing of an earlier use of it stays. -/
def State.sqStart (s : State) (g : Nat) : State :=
  let s := (s.setReg (rg g 0x10) 0).setRfld (rg g 8) 7 1 0
  { s with link := { s.link with
      bells := s.link.bells.filter (fun x => x.1 != g), framed := s.link.framed.filter (· != g) } }

theorem State.regEffect_rg (s : State) {g r : Nat} (hg : g < 512) (hr : r < 0x40) (old new w : W64) :
    s.regEffect (rg g r) old new w =
      if r = 0x08 ∧ (!old.getLsbD 6 && new.getLsbD 6) = true then s.sqStart g
      else if r = 0x20 ∧ (!old.getLsbD 6 && new.getLsbD 6) = true then s.setReg (rg g 0x28) 0
      else s := by
  simp only [State.regEffect, ringOff_rg hg hr]
  by_cases h8 : r = 8
  · subst h8; rfl
  · simp only [h8, false_and, if_false]

/-- The ring registers are open together. -/
theorem State.barOpen_rg (s : State) {g r : Nat} (hg : g < 512) (hr : r < 0x40) : s.barOpen (rg g r) = s.barOpen (rg g 0) := by
  have h1 : ¬ rg g r < 0x10000 := by unfold rg; omega
  have h2 : ¬ rg g 0 < 0x10000 := by unfold rg; omega
  have h3 : ¬ 0x80000 ≤ rg g r := by unfold rg; omega
  have h4 : ¬ 0x80000 ≤ rg g 0 := by unfold rg; omega
  simp only [State.barOpen, h1, h2, h3, h4, decide_false, Bool.false_and]

theorem codedWord_rg {g r : Nat} (hg : g < 512) (hr : r < 0x40) (hal : r % 8 = 0) : codedWord (rg g r) = true := by
  have h1 : rg g r % 8 = 0 := by unfold rg; omega
  have h2 : rg g r ≠ 0x60010 := by unfold rg; omega
  have h3 : ¬ 0x90000 ≤ rg g r := by unfold rg; omega
  simp [codedWord, inArr, h1, h2, h3]

/-- A write of the whole word of a ring register, through the PF. -/
theorem State.writesRg {g r : Nat} (hg : g < 512) (hr : r < 0x40) (hal : r % 8 = 0) (hopen : s.barOpen (rg g 0) = true)
    (hd : s.link.d3hot.getLsbD 0 = false) {v0 rw rc : W64} (hi : regInfo (rg g r) = ⟨v0, rw, 0, rc, 0⟩) (v : W64) :
    s.hostWrite 0 (rg g r) .all v =
      (s.putReg (rg g r) (s.takes (rg g r) rw v)).regEffect (rg g r) (s.reg (rg g r)) (s.takes (rg g r) rw v)
        (v &&& regWo (rg g r)) := by
  have hlt : rg g r < 0x1000000 := by unfold rg; omega
  rw [State.hostWrite_pf hd hlt (s.barOpen_rg hg hr ▸ hopen), if_neg (by simp),
    State.regWrite_rw s (codedWord_rg hg hr hal) hi, State.written, hi, show coverMask .all = 0xFFFFFFFFFFFFFFFF from rfl,
    wholeMask_and, and_wholeMask, State.takes]

/-! ### `LOG` and `EN` -/

/-- A value for `HST_SQCFG` or `HST_CQCFG` starts a ring: it sets `EN`, with a size in range, where that is not refused. -/
theorem State.ringCfg_start (s : State) {g : Nat} {old new : W64} (hold : old.getLsbD 6 = false) (hlo : 6 ≤ fld new 0 5)
    (hhi : fld new 0 5 ≤ 16) (hok : s.enRefused g = false) : s.ringCfg g old new = new := by
  have h1 : ¬ fld new 0 5 < 6 := by omega
  have h2 : ¬ 16 < fld new 0 5 := by omega
  simp only [State.ringCfg, hold, decide_eq_false h1, decide_eq_false h2, hok, Bool.or_false, Bool.and_false, keepFld_false]

/-- While a ring is enabled its size stays. -/
theorem State.ringCfg_running (s : State) {g : Nat} {old : W64} (new : W64) (hold : old.getLsbD 6 = true) :
    s.ringCfg g old new = keepFld old new 0 5 true := by
  simp only [State.ringCfg, hold, Bool.true_or, Bool.not_true, Bool.false_and, keepFld_false]

theorem State.sqEn_iff (s : State) (g : Nat) : s.sqEn g = (s.reg (rg g 8)).getLsbD 6 := by
  rw [State.sqEn, State.rfld, fld_one]; cases (s.reg (rg g 8)).getLsbD 6 <;> rfl

theorem State.cqEn_iff (s : State) (g : Nat) : s.cqEn g = (s.reg (rg g 0x20)).getLsbD 6 := by
  rw [State.cqEn, State.rfld, fld_one]; cases (s.reg (rg g 0x20)).getLsbD 6 <;> rfl

theorem enRefused_eq_false {g : Nat} (h : s.fnOf (g / 64) ≠ 0 ∨ g % 64 < 32) : s.enRefused g = false := by
  rcases h with h | h <;> simp [State.enRefused, h]

/-- A size and `EN` = 1 are written to a ring that is not enabled (R300): a submission ring starts. -/
theorem State.startsSq {g : Nat} (hg : g < 512) (hopen : s.barOpen (rg g 0) = true) (hd : s.link.d3hot.getLsbD 0 = false)
    (hok : s.enRefused g = false) {v : W64} (hlo : 6 ≤ fld v 0 5) (hhi : fld v 0 5 ≤ 16) (hen : v.getLsbD 6 = true)
    (hoff : s.sqEn g = false) :
    s.hostWrite 0 (rg g 8) .all v = (s.putReg (rg g 8) (takeBits (s.reg (rg g 8)) 0x5F v)).sqStart g := by
  have hlog : fld (takeBits (s.reg (rg g 8)) 0x5F v) 0 5 = fld v 0 5 := fld_takeBits _ _ (by decide)
  have hold : (s.reg (rg g 8)).getLsbD 6 = false := s.sqEn_iff g ▸ hoff
  have hnew : (takeBits (s.reg (rg g 8)) 0x5F v).getLsbD 6 = true := by rw [getLsbD_takeBits, if_pos (by decide), hen]
  rw [State.writesRg hg (by omega) (by omega) hopen hd (regInfo_sqCfg hg), State.takes, s.regKeep_rg hg (by omega)]
  simp only [show ¬ (8 : Nat) = 0 by omega, show ¬ (8 : Nat) = 0x18 by omega, if_true, if_false]
  rw [State.ringCfg_start s hold (hlog ▸ hlo) (hlog ▸ hhi) hok, State.regEffect_rg _ hg (by omega), hold, hnew]
  rfl

theorem State.sqStart_spec (s : State) (g : Nat) : (s.sqStart g).sqEn g = s.sqEn g ∧ (s.sqStart g).sqSize g = s.sqSize g ∧
    (s.sqStart g).sqTail g = 0 ∧ (s.sqStart g).sqHead g = 0 ∧ (s.sqStart g).rfld (rg g 8) 7 1 = 0 := by
  have hcfg (lo w : Nat) (h : 7 + 1 ≤ lo ∨ lo + w ≤ 7) : (s.sqStart g).rfld (rg g 8) lo w = s.rfld (rg g 8) lo w :=
    (State.rfld_setRfld_ne _ _ _ _ _ _ _ h).trans (congrArg (fun x => fld x lo w) (State.reg_setReg_ne _ _ (rg_ne (by omega))))
  have hcnt (lo w : Nat) : (s.sqStart g).rfld (rg g 0x10) lo w = fld (0 : W64) lo w :=
    congrArg (fun x => fld x lo w) ((State.reg_setRfld_ne _ _ _ _ (rg_ne (by omega))).trans (State.reg_setReg ..))
  have hzero (lo w : Nat) : fld (0 : W64) lo w = 0 := by simp [fld]
  refine ⟨?_, ?_, ?_, ?_, State.rfld_setRfld _ _ _ _ _ (by omega)⟩
  · rw [State.sqEn, hcfg _ _ (by omega)]; rfl
  · rw [State.sqSize, hcfg _ _ (by omega)]; rfl
  · rw [State.sqTail, hcnt, hzero]
  · rw [State.sqHead, hcnt, hzero]

theorem State.startsCq {g : Nat} (hg : g < 512) (hopen : s.barOpen (rg g 0) = true) (hd : s.link.d3hot.getLsbD 0 = false)
    (hok : s.enRefused g = false) {v : W64} (hlo : 6 ≤ fld v 0 5) (hhi : fld v 0 5 ≤ 16) (hen : v.getLsbD 6 = true)
    (hoff : s.cqEn g = false) :
    s.hostWrite 0 (rg g 0x20) .all v =
      (s.putReg (rg g 0x20) (takeBits (s.reg (rg g 0x20)) 0xFFFFF7FFDF v)).setReg (rg g 0x28) 0 := by
  have hlog : fld (takeBits (s.reg (rg g 0x20)) 0xFFFFF7FFDF v) 0 5 = fld v 0 5 := fld_takeBits _ _ (by decide)
  have hold : (s.reg (rg g 0x20)).getLsbD 6 = false := s.cqEn_iff g ▸ hoff
  have hnew : (takeBits (s.reg (rg g 0x20)) 0xFFFFF7FFDF v).getLsbD 6 = true := by
    rw [getLsbD_takeBits, if_pos (by decide), hen]
  rw [State.writesRg hg (by omega) (by omega) hopen hd (regInfo_cqCfg hg), State.takes, s.regKeep_rg hg (by omega)]
  simp only [show ¬ (0x20 : Nat) = 0 by omega, show ¬ (0x20 : Nat) = 0x18 by omega, show ¬ (0x20 : Nat) = 8 by omega, if_true,
    if_false, Bool.false_and, keepFld_false]
  rw [State.ringCfg_start s hold (hlog ▸ hlo) (hlog ▸ hhi) hok, State.regEffect_rg _ hg (by omega), hold, hnew]
  rfl

/-- A completion ring that starts has its counts at zero and the fields that were written. -/
theorem State.startsCq_spec (s : State) (g : Nat) (v : W64) (hen : v.getLsbD 6 = true) :
    let t := (s.putReg (rg g 0x20) (takeBits (s.reg (rg g 0x20)) 0xFFFFF7FFDF v)).setReg (rg g 0x28) 0
    t.cqEn g = true ∧ t.cqSize g = 2 ^ fld v 0 5 ∧ t.cqProd g = 0 ∧ t.cqCons g = 0 ∧
      t.rfld (rg g 0x20) 8 11 = fld v 8 11 ∧ t.rfld (rg g 0x20) 20 8 = fld v 20 8 ∧
      t.rfld (rg g 0x20) 28 12 = fld v 28 12 ∧ t.rfld (rg g 0x20) 7 1 = fld v 7 1 := by
  intro t
  have hcfg : t.reg (rg g 0x20) = takeBits (s.reg (rg g 0x20)) 0xFFFFF7FFDF v :=
    (State.reg_setReg_ne _ _ (rg_ne (by omega))).trans (State.reg_putReg ..)
  have hcnt : t.reg (rg g 0x28) = 0 := State.reg_setReg ..
  have hzero (lo w : Nat) : fld (0 : W64) lo w = 0 := by simp [fld]
  simp only [State.cqEn_iff, State.cqSize, State.cqProd, State.cqCons, State.rfld, hcfg, hcnt, hzero]
  refine ⟨?_, congrArg (2 ^ ·) (fld_takeBits _ _ (by decide)), trivial, trivial, fld_takeBits _ _ (by decide),
    fld_takeBits _ _ (by decide), fld_takeBits _ _ (by decide), fld_takeBits _ _ (by decide)⟩
  rw [getLsbD_takeBits, if_pos (by decide), hen]

/-- `EN` = 0 is written to an enabled ring (R300): the word keeps its size and loses `EN`, and no other word changes. -/
theorem State.stopsRing {g r : Nat} (hg : g < 512) (hr : r = 0x08 ∨ r = 0x20) (hopen : s.barOpen (rg g 0) = true)
    (hd : s.link.d3hot.getLsbD 0 = false) {v : W64} (hen : v.getLsbD 6 = false) (hon : (s.reg (rg g r)).getLsbD 6 = true) :
    ∃ new : W64, s.hostWrite 0 (rg g r) .all v = s.putReg (rg g r) new ∧ new.getLsbD 6 = false ∧
      fld new 0 5 = s.rfld (rg g r) 0 5 := by
  have hkeep (rw : W64) (hrw : rw.getLsbD 6 = true) :
      (keepFld (s.reg (rg g r)) (takeBits (s.reg (rg g r)) rw v) 0 5 true).getLsbD 6 = false := by
    rw [getLsbD_keepFld, if_neg (by omega), getLsbD_takeBits, if_pos hrw, hen]
  have hsize (rw : W64) : fld (keepFld (s.reg (rg g r)) (takeBits (s.reg (rg g r)) rw v) 0 5 true) 0 5 = s.rfld (rg g r) 0 5 := by
    rw [fld_keepFld _ _ _ _ _ (by omega), if_pos rfl, State.rfld]
  rcases hr with rfl | rfl
  · refine ⟨_, ?_, hkeep 0x5F (by decide), hsize _⟩
    rw [State.writesRg hg (by omega) (by omega) hopen hd (regInfo_sqCfg hg), State.takes, s.regKeep_rg hg (by omega)]
    simp only [show ¬ (8 : Nat) = 0 by omega, show ¬ (8 : Nat) = 0x18 by omega, if_true, if_false]
    rw [State.ringCfg_running s _ hon, State.regEffect_rg _ hg (by omega), hon]
    rfl
  · refine ⟨_, ?_, hkeep 0xFFFFF7FFDF (by decide), hsize _⟩
    rw [State.writesRg hg (by omega) (by omega) hopen hd (regInfo_cqCfg hg), State.takes, s.regKeep_rg hg (by omega)]
    simp only [show ¬ (0x20 : Nat) = 0 by omega, show ¬ (0x20 : Nat) = 0x18 by omega, show ¬ (0x20 : Nat) = 8 by omega, if_true,
      if_false, Bool.false_and, keepFld_false]
    rw [State.ringCfg_running s _ hon, State.regEffect_rg _ hg (by omega), hon]
    rfl

/-! ### Writes by access code -/

theorem takeBits_masked (old m k v : W64) : takeBits old (m &&& k) v = (old &&& ~~~(m &&& k)) ||| (v &&& m &&& k) := by
  rw [takeBits, BitVec.and_assoc]

/-- A write through a VF to the base of one of its submission rings (R294). -/
theorem State.writesVfBase (h : s.hostOpen) {fn j : Nat} (hon : s.vfOn fn = true) (hfn : fn ≤ 8)
    (hd : s.link.d3hot.getLsbD fn = false) (hj : j < 64) (half : RegHalf) (v : W64) :
    s.hostWrite fn (0x1000 + 0x40 * j) half v =
      if s.sqEn (64 * (fn - 1) + j) then s
      else s.putReg (rg (64 * (fn - 1) + j) 0)
        (takeBits (s.reg (rg (64 * (fn - 1) + j) 0)) (coverMask half &&& 0xFFFFFFFFFFFFF000) v) := by
  have hg : 64 * (fn - 1) + j < 512 := by omega
  have hpos : 1 ≤ fn := by
    simp only [State.vfOn, Bool.and_eq_true, decide_eq_true_eq] at hon; exact hon.1.2
  have htarget : s.barTarget fn (0x1000 + 0x40 * j) = some (rg (64 * (fn - 1) + j) 0) := by
    have hdiv : (fn - 1) * 64 + (0x1000 + 0x40 * j - 0x1000) / 0x40 = 64 * (fn - 1) + j := by omega
    have hmod : (0x1000 + 0x40 * j - 0x1000) % 0x40 = 0 := by omega
    rw [State.barTarget, if_neg (by simp only [hd, Bool.false_eq_true, not_false_iff]), if_neg (by omega),
      if_neg (by simp only [hon, Bool.not_true, Bool.false_eq_true, not_false_iff]), if_pos (by omega), hdiv, hmod]
  rw [State.hostWrite, htarget]
  simp only [h.barOpen, Bool.true_and, bne_iff_ne, ne_eq]
  by_cases hother : half = .other
  · subst hother
    rw [if_neg (by simp), show coverMask .other &&& 0xFFFFFFFFFFFFF000 = 0 from BitVec.zero_and, takeBits_zero, State.putReg_self]
    split <;> rfl
  · rw [if_pos hother, State.regWrite_rw s (codedWord_rg hg (by omega) (by omega)) (regInfo_sqBase hg), State.written,
      s.regKeep_rg hg (by omega), State.regEffect_rg _ hg (by omega), regInfo_sqBase hg]
    simp only [show ¬ (0 : Nat) = 8 by omega, show ¬ (0 : Nat) = 0x20 by omega, if_true, false_and, if_false]
    split
    · rw [State.putReg_self]
    · rfl

/-- Bits staged in a word: in force, they are those of the value written; other words' bits stay (R6). -/
theorem State.eff_stages (s : State) (o : Nat) (k v : W64) :
    (s.stages o k v).eff o = (s.eff o &&& ~~~k) ||| (v &&& k) ∧ (∀ p, p ≠ o → (s.stages o k v).eff p = s.eff p) ∧
      (s.stages o k v).regs = s.regs := by
  unfold State.stages
  split
  next hk =>
    refine ⟨?_, fun _ _ => rfl, rfl⟩
    exact hk ▸ (takeBits_zero (s.eff o) v).symm
  next =>
    refine ⟨?_, fun p hp => ?_, rfl⟩
    · have hm : (s.stageBits o k v).stM o = s.stM o ||| k := AMap.get_put_same ..
      have hv : (s.stageBits o k v).stV o = (s.stV o &&& ~~~k) ||| (v &&& k) := AMap.get_put_same ..
      have hr : (s.stageBits o k v).reg o = s.reg o := rfl
      rw [State.eff, hm, hv, hr, State.eff]
      apply BitVec.eq_of_getLsbD_eq
      intro i hi
      simp only [BitVec.getLsbD_or, BitVec.getLsbD_and, BitVec.getLsbD_not, hi, decide_true, Bool.true_and]
      cases k.getLsbD i <;> cases (s.stM o).getLsbD i <;> simp
    · have hm : (s.stageBits o k v).stM p = s.stM p := AMap.get_put_ne _ _ _ hp
      have hv : (s.stageBits o k v).stV p = s.stV p := AMap.get_put_ne _ _ _ hp
      rw [State.eff, hm, hv]; rfl

/-- A write of an entry of the exports is staged. -/
theorem State.hostOpen.stagesExport (h : s.hostOpen) {k : Nat} (hk : k < 128) (half : RegHalf) (v : W64) :
    s.hostWrite 0 (0x54000 + 16 * k) half v = s.stages (0x54000 + 16 * k) (coverMask half &&& 0x7FFFFFFF00F) v := by
  have hword : ∀ k < 128, regInfo (0x54000 + 16 * k) = ⟨0, 0, 0, 0, 0x7FFFFFFF00F⟩ ∧ codedWord (0x54000 + 16 * k) = true ∧
    noRule (0x54000 + 16 * k) = true ∧ noEffect (0x54000 + 16 * k) = true := by decide
  obtain ⟨hi, hc, hr, he⟩ := hword k hk
  rw [State.hostWrite_pf h.awake (by omega) (h.barOpen _), State.regWrite_st s hc hr he hi]
  split
  next e => rw [e, show coverMask .other &&& 0x7FFFFFFF00F = 0#64 from BitVec.zero_and, State.stages_zero]
  next => rfl

/-! ### `FAB_ENTRY` (R260) -/

/-- The word with the bits of the ports listed back at their old values where the port is trained. -/
def State.entryKeep (s : State) (old new : W64) (ps : List Nat) : W64 :=
  ps.foldl (fun w p => keepFld old w p 1 ([pUp, pRetrain, pMiswired].contains (s.pstat p))) new

theorem State.getLsbD_entryKeep (s : State) (old new : W64) (ps : List Nat) (i : Nat) :
    (s.entryKeep old new ps).getLsbD i =
      if i ∈ ps ∧ s.pstat i ∈ [2, 3, 5] then old.getLsbD i else new.getLsbD i := by
  induction ps generalizing new with
  | nil => simp [State.entryKeep]
  | cons p ps ih =>
    rw [State.entryKeep, List.foldl_cons]
    refine (ih _).trans ?_
    have hone : (p ≤ i ∧ i < p + 1) ↔ i = p := by omega
    simp only [getLsbD_keepFld, List.contains_iff_mem, hone, pUp, pRetrain, pMiswired]
    grind

theorem regKeep_fabEntry (s : State) (vf : Bool) (old new : W64) :
    s.regKeep 0x50010 vf old new = s.entryKeep old new (List.range 16) := rfl

theorem State.hostOpen.writesFabEntry (h : s.hostOpen) (half : RegHalf) (v : W64) :
    s.hostWrite 0 0x50010 half v = s.putReg 0x50010
      (s.entryKeep (s.reg 0x50010) (takeBits (s.reg 0x50010) (coverMask half &&& 0xFFFF) v) (List.range 16)) := by
  rw [State.hostWrite_pf h.awake (by omega) (h.barOpen _), State.regWrite_rw s (by decide)
    (show _ = RegInfo.mk 0 0xFFFF 0 0 0 from rfl), State.regEffect_of_noEffect _ (by decide), State.written, regKeep_fabEntry]
  split
  next e =>
    have hself : s.entryKeep (s.reg 0x50010) (s.reg 0x50010) (List.range 16) = s.reg 0x50010 :=
      BitVec.eq_of_getLsbD_eq fun i _ => by rw [State.getLsbD_entryKeep]; split <;> rfl
    rw [e, show coverMask .other &&& 0xFFFF = 0 from BitVec.zero_and, takeBits_zero, hself, State.putReg_self]
  next => rfl

/-! ### Writes that reach no word -/

theorem State.hostWrite_unaligned (s : State) {o : Nat} (ho : o % 8 ≠ 0) (half : RegHalf) (v : W64) :
    s.hostWrite 0 o half v = s := by
  have hkeep (t : Nat) (ht : s.barTarget 0 o = some t) : t = o := by
    simp only [State.barTarget, if_true] at ht
    split at ht
    · cases ht
    · split at ht
      · exact (Option.some.inj ht).symm
      · cases ht
  rw [State.hostWrite]
  split
  next t ht =>
    obtain rfl := hkeep t ht
    split
    · rw [State.regWrite, if_pos ho]
    · rfl
  next => rfl

/-- While `PERST_N` is low the host reaches nothing (R311). -/
theorem State.hostWrite_reset (s : State) (hp : s.pins.perst = false) (fn o : Nat) (half : RegHalf) (v : W64) :
    s.hostWrite fn o half v = s := by
  have hshut (o : Nat) : s.barOpen o = false := by simp [State.barOpen, hp]
  rw [State.hostWrite]
  split
  · simp [hshut]
  · rfl

end Sys2Proof.Machine
end

section
/-!
PROOFS. What the work of cores, engines, channels and the fabric can change. `Works s t` says that `t` comes of `s` by such
changes alone: every function that answers a request with an error, forces a core's accesses, runs its engines or sends
an item is one of them, so that what these changes keep, every one of those functions keeps.
-/
namespace Sys2Proof.Machine

/-- The state with an entry of the error log written, and its count. -/
def State.logged (s : State) (e : LogEntry) : State :=
  let prod := (s.reg 0x80018).toNat
  let b := 0x81000 + 32 * (prod % 64)
  ((((s.setReg b s.devtime).setReg (b + 8) (BitVec.ofNat 64 e.head)).setReg (b + 16) e.addr).setReg
    (b + 24) (BitVec.ofNat 64 e.detail)).setReg 0x80018 (BitVec.ofNat 64 (prod + 1))

theorem State.errLog_eq (s : State) (e : LogEntry) : s.errLog e =
    (if (s.reg 0x80018).toNat - (s.reg 0x80020).toNat < 64 then
      (if (s.logged e).rfld 0x80010 11 1 = 1 then (s.logged e).msix 0 ((s.logged e).rfld 0x80010 0 11) else s.logged e)
    else s.satInc 0x80028 0 32).traceUnit (match e.part with | some n => 8 + n | none => 1)
      (match e.part with | some n => [n] | none => List.range 8) 0x17 (e.head % 2 ^ 56 + e.addr.toNat <<< 56) := rfl

/-! ### The changes -/

/-- The port carries flits or will again: it sends, or keeps what is to be sent. -/
def State.lit (s : State) (p : Nat) : Prop := s.pstat p = pUp ∨ s.pstat p = pRetrain

/-- The register words that such work writes: those of the blocks from `TRC_` on (counts, logs, pending bits), the credits of
a port, and the barriers of a partition. -/
def workWord (o : Nat) : Prop :=
  0x70000 ≤ o ∨ (∃ p v, v < 9 ∧ o = fabp p (0x40 + 8 * v)) ∨ ∃ n b, n < 8 ∧ b < 80 ∧ o = barOff n b

/-- `t` comes of `s` by changes of cores and partitions, of what is sent, asked or answered, of memory by writes, of the words
of `workWord`, and of ports that are lit. -/
inductive Works (s : State) : State → Prop
  | refl : Works s s
  | side {t : State} (h : Works s t) {poison : List Nat} {cores : AMap Core} {parts : AMap Part} {remReqs : List RemReq}
      {nextReq : Nat} {fabOut : List FabItem} {unrouted : List (Nat × BitVec 4)} {kflOut : List (Nat × List Byte)}
      {hostOut : List HostOut} {unitSeq : AMap W32} {tally : Tally} {postWaits : List PostWait} :
      Works s { t with
        poison := poison, cores := cores, parts := parts, remReqs := remReqs, nextReq := nextReq, fabOut := fabOut
        unrouted := unrouted, kflOut := kflOut, hostOut := hostOut, unitSeq := unitSeq, tally := tally
        postWaits := postWaits }
  | mem {t : State} (h : Works s t) (a : Nat) (bs : List Byte) :
      Works s { t with mem := Memory.writeBytes t.mem a bs }
  | reg {t : State} (h : Works s t) {o : Nat} (ho : workWord o) (v : W64) : Works s (t.setReg o v)
  | port {t : State} (h : Works s t) {p : Nat} (hp : t.lit p) (x : Port) : Works s (t.setPort p x)

namespace Works

variable {s t u : State}

theorem ite {c : Prop} [Decidable c] {a b : State} (ha : Works s a) (hb : Works s b) : Works s (if c then a else b) := by
  split <;> assumption

theorem foldl {α : Type} (l : List α) (f : State → α → State) (hf : ∀ t x, x ∈ l → Works s t → Works s (f t x))
    (h : Works s t) : Works s (l.foldl f t) := by
  induction l generalizing t with
  | nil => exact h
  | cons x l ih => exact ih (fun t y hy => hf t y (List.mem_cons_of_mem _ hy)) (hf t x List.mem_cons_self h)

/-! ### Named updates -/

theorem setCore (h : Works s t) (c : Nat) (k : Core) : Works s (t.setCore c k) := h.side
theorem modCore (h : Works s t) (c : Nat) (f : Core → Core) : Works s (t.modCore c f) := h.setCore ..
theorem setThread (h : Works s t) (c : Nat) (r : BitVec 2) (x : Thread) : Works s (t.setThread c r x) := h.modCore ..
theorem modThread (h : Works s t) (c : Nat) (r : BitVec 2) (f : Thread → Thread) : Works s (t.modThread c r f) :=
  h.setThread ..
theorem setCtl (h : Works s t) (c : Nat) (r : BitVec 2) (x : ThrCtl) : Works s (t.setCtl c r x) := h.modCore ..
theorem setChan (h : Works s t) (c : Nat) (ch : BitVec 3) (x : Channel) : Works s (t.setChan c ch x) := h.modCore ..
theorem setV (h : Works s t) (c : Nat) (r : BitVec 5) (v : VReg) : Works s (t.setV c r v) := h.modCore ..
theorem setPart (h : Works s t) (n : Nat) (p : Part) : Works s (t.setPart n p) := h.side
theorem modPart (h : Works s t) (n : Nat) (f : Part → Part) : Works s (t.modPart n f) := h.setPart ..
theorem breakCond (h : Works s t) (n c : Nat) : Works s (t.breakCond n c) := h.modPart ..
theorem setRfld (h : Works s t) {o : Nat} (ho : workWord o) (lo w x : Nat) : Works s (t.setRfld o lo w x) := h.reg ho _
theorem setPenn (h : Works s t) (c i : Nat) : Works s (t.setPenn c i) := (h.modCore ..).ite h
theorem wake (h : Works s t) (c : Nat) (r : BitVec 2) (f : Thread → Thread) : Works s (t.wake c r f) := h.modThread ..
theorem chanPenn (h : Works s t) (c : Nat) (ch : BitVec 3) : Works s (t.chanPenn c ch) := h.setPenn ..

theorem modPort (h : Works s t) {p : Nat} (hp : t.lit p) (f : Port → Port) : Works s (t.modPort p f) := h.port hp _

/-! ### Counts, logs and records -/

theorem workWord_high {o : Nat} (h : 0x70000 ≤ o) : workWord o := .inl h

theorem satInc (h : Works s t) {o : Nat} (ho : workWord o) (lo w : Nat) : Works s (t.satInc o lo w) :=
  (h.setRfld ho ..).ite h

theorem countErr (h : Works s t) (src : Nat) (unc : Bool) : Works s (t.countErr src unc) :=
  h.satInc (workWord_high (by omega)) ..

theorem traceTo (h : Works s t) (n : Nat) (r : BitVec 256) : Works s (t.traceTo n r) := h.modPart ..

theorem traceLose (h : Works s t) (n : Nat) : Works s (t.traceLose n) :=
  (h.reg (workWord_high (by unfold trc; omega)) _).modPart ..

theorem traceUnit (h : Works s t) (u : Nat) (rings : List Nat) (ty p : Nat) : Works s (t.traceUnit u rings ty p) := by
  unfold State.traceUnit State.traceUnitAt
  exact h.ite (foldl _ _ (fun t n _ ht => ht.traceTo n _) (h.side))

theorem traceCore (h : Works s t) (c thr ty p : Nat) : Works s (t.traceCore c thr ty p) := by
  unfold State.traceCore
  split
  · exact h
  · exact ite (ite ((h.setCore ..).traceTo ..) ((h.setCore ..).traceLose _)) h

theorem traceBar (h : Works s t) (c : Nat) (r : BitVec 2) (n b st : Nat) : Works s (t.traceBar c r n b st) := h.traceCore ..
theorem traceChan (h : Works s t) (c : Nat) (ch : BitVec 3) (d : Option (BitVec 256)) : Works s (t.traceChan c ch d) :=
  h.traceCore ..

theorem msix (h : Works s t) (fn vec : Nat) : Works s (t.msix fn vec) := by
  unfold State.msix
  exact ite (h.reg (workWord_high (by unfold msixPba; omega)) _) (h.side)

theorem logged (h : Works s t) (e : LogEntry) : Works s (t.logged e) := by
  unfold State.logged
  exact ((((h.reg (workWord_high (by omega)) _).reg (workWord_high (by omega)) _).reg (workWord_high (by omega)) _).reg
    (workWord_high (by omega)) _).reg (workWord_high (by omega)) _

theorem errLog (h : Works s t) (e : LogEntry) : Works s (t.errLog e) := by
  rw [State.errLog_eq]
  exact traceUnit (ite (ite ((h.logged e).msix ..) (h.logged e)) (h.satInc (workWord_high (by omega)) ..)) ..

theorem suspect (h : Works s t) (c src : Nat) : Works s (t.suspect c src) := by
  unfold State.suspect
  exact h.ite ((h.reg (workWord_high (by omega)) _).modCore ..)

theorem coreCorrected (h : Works s t) (c src : Nat) : Works s (t.coreCorrected c src) := by
  unfold State.coreCorrected
  exact ite (((h.countErr ..).modCore ..).suspect ..) ((h.countErr ..).modCore ..)

theorem eccReached (h : Works s t) (c : Nat) : Works s (t.eccReached c) := by
  unfold State.eccReached
  split
  · exact h.breakCond ..
  · exact h

theorem coreUncorrected (h : Works s t) (c thr src code : Nat) (addr : W64) (loc : Bool) :
    Works s (t.coreUncorrected c thr src code addr loc) := by
  unfold State.coreUncorrected
  exact (((h.countErr src true).eccReached c).errLog _).suspect ..

theorem addPoison (h : Works s t) (a : Nat) : Works s (t.addPoison a) := h.side

theorem eccEvent (h : Works s t) (a : Nat) (e : Ecc) : Works s (t.eccEvent a e) := by
  unfold State.eccEvent
  cases e with
  | good => exact h
  | corrected => exact ite (h.coreCorrected ..) (ite (h.countErr ..) (h.countErr ..))
  | uncorrectable => exact ite ((h.addPoison a).coreUncorrected ..) (((h.addPoison a).countErr ..).errLog _)

/-! ### Exceptions -/

theorem haltThread (h : Works s t) (c : Nat) (r : BitVec 2) (e : Exc) : Works s (t.haltThread c r e) :=
  ((((h.modThread ..).setCtl ..).setPenn ..).countErr ..).errLog _

theorem enterExc (h : Works s t) (c : Nat) (r : BitVec 2) (e : Exc) : Works s (t.enterExc c r e) := by
  unfold State.enterExc
  exact ite (h.haltThread ..) ((h.setThread ..).traceCore ..)

theorem lateExc (h : Works s t) (c : Nat) (a : Acc) (code : Nat) (v : W64) : Works s (t.lateExc c a code v) :=
  (h.modCore ..).enterExc ..

/-! ### Ports and items -/

theorem workWord_credit (p : Nat) {v : Nat} (hv : v < 9) : workWord (fabp p (0x40 + 8 * v)) := .inr (.inl ⟨p, v, hv, rfl⟩)

/-- What a word of `workWord` is not: the status or control word of a port. -/
theorem fabp_not_workWord {p o : Nat} (hp : p < 16) (ho : workWord o) : fabp p 0 ≠ o ∧ fabp p 8 ≠ o := by
  rcases ho with h | ⟨q, v, hv, rfl⟩ | ⟨n, b, hn, hb, rfl⟩ <;> simp only [fabp, barOff, prt] <;> omega

end Works

section
variable {t : State} {p : Nat}

theorem State.lit_congr {u : State} (h : u.reg (fabp p 0) = t.reg (fabp p 0)) : u.lit p ↔ t.lit p := by
  simp only [State.lit, State.pstat, State.rfld, h]

/-- An item that may start is of one of the nine credit classes (R353). -/
theorem State.cls_of_readyOut {q : Queued} (h : q ∈ t.readyOut p) : q.cls < 9 := by
  obtain ⟨v, hv, hq⟩ := List.mem_filterMap.1 h
  split at hq
  next r hr =>
    have hcls := List.find?_some hr
    split at hq
    · obtain rfl := Option.some.inj hq
      rw [beq_iff_eq.1 hcls]; exact List.mem_range.1 hv
    · cases hq
  next => cases hq

theorem State.cls_of_nextOut {q : Queued} (h : t.nextOut p = some q) : q.cls < 9 := by
  obtain ⟨k, -, hk⟩ := List.exists_of_findSome?_eq_some h
  have hmem := List.mem_of_getElem? hk
  have hready : ∀ r ∈ (t.port p).queue.filter (fun q => (t.readyOut p).contains q && clsPrio q.cls == k), r ∈ t.readyOut p :=
    fun r hr => by
      have := (List.mem_filter.1 hr).2
      rw [Bool.and_eq_true] at this
      exact List.contains_iff_mem.1 this.1
  rcases List.mem_append.1 hmem with h1 | h1
  · exact State.cls_of_readyOut (hready q (List.mem_filter.1 h1).1)
  · exact State.cls_of_readyOut (hready q h1)

/-- An item leaves by a port that is lit (R363). -/
theorem State.lit_of_route {dst core off d : Nat} (h : t.route dst core off = some (p, d)) : t.lit p := by
  unfold State.route at h
  split at h
  · cases h
  · split at h
    · cases h
    · next d' _ =>
      obtain ⟨q, hq, hpd⟩ := Option.map_eq_some_iff.1 h
      obtain ⟨rfl, -⟩ := Prod.mk.inj hpd
      have hmem := List.mem_of_getElem? hq
      unfold State.dirPorts at hmem
      split at hmem
      · exact .inr (beq_iff_eq.1 (List.mem_filter.1 hmem).2)
      · exact .inl (beq_iff_eq.1 (List.mem_filter.1 hmem).2)

end

namespace Works

variable {s t u : State}

theorem setAvail (h : Works s t) (p : Nat) {v : Nat} (hv : v < 9) (x : Nat) : Works s (t.setAvail p v x) :=
  h.setRfld (workWord_credit p hv) ..

theorem startItem (h : Works s t) {p : Nat} (hp : t.lit p) {q : Queued} (hq : q.cls < 9) :
    Works s (t.startItem p q) ∧ (t.startItem p q).lit p := by
  have hne : fabp p 0 ≠ fabp p (0x40 + 8 * q.cls) := by unfold fabp; omega
  have hlit : (t.setAvail p q.cls (t.avail p q.cls - credits q.bytes.length)).lit p :=
    (State.lit_congr (State.reg_setRfld_ne _ _ _ _ hne)).2 hp
  exact ⟨(h.setAvail p hq _).modPort hlit _, hlit⟩

theorem fill (h : Works s t) {p : Nat} (hp : t.lit p) (fuel : Nat) : Works s (t.fill p fuel) ∧ (t.fill p fuel).lit p := by
  induction fuel generalizing t with
  | zero => exact ⟨h, hp⟩
  | succ fuel ih =>
    unfold State.fill
    split
    · exact ⟨h, hp⟩
    · split
      · exact ⟨h, hp⟩
      next q hq =>
        obtain ⟨hw, hl⟩ := h.startItem hp (State.cls_of_nextOut hq)
        exact ih hw hl

theorem emit (h : Works s t) {p : Nat} (hp : t.lit p) (bs : List Byte) : Works s (t.emit p bs) :=
  (h.modPort hp _).side

theorem sendNext (h : Works s t) {p : Nat} (hp : t.lit p) : Works s (t.sendNext p) := (h.port hp _).emit hp _

theorem pump (h : Works s t) (p fuel : Nat) : Works s (t.pump p fuel) := by
  induction fuel generalizing t with
  | zero => exact h
  | succ fuel ih =>
    unfold State.pump
    split
    · exact h
    next hup =>
      have hp : t.lit p := .inl (by by_contra hne; exact hup (.inl hne))
      obtain ⟨hw, hl⟩ := h.fill hp (t.port p).queue.length
      exact ite hw (ih (hw.sendNext hl))

theorem portTake (h : Works s t) {p : Nat} (hp : t.lit p) (i : PortItem) (ws : List Transit) : Works s (t.portTake p i ws) :=
  (h.modPort hp _).pump ..

theorem fabSend (h : Works s t) (i : FabItem) : Works s (t.fabSend i) := by
  unfold State.fabSend
  have hout : Works s { t with fabOut := t.fabOut ++ [i] } := h.side
  simp only []
  split
  next hroute => exact hout.portTake (State.lit_of_route hroute) ..
  next => exact hout.side

theorem sendReq (h : Works s t) (org : RemOrigin) (addr : W64) (item : Nat → FabItem) : Works s (t.sendReq org addr item) := by
  have hreq : Works s { t with remReqs := t.remReqs ++ [⟨t.nextReq, org, addr, t.elapsed⟩], nextReq := t.nextReq + 1 } :=
    h.side
  exact hreq.fabSend _

theorem postRemote (h : Works s t) (c : Nat) (r : BitVec 2) (ea gfa : W64) (bs : List Byte) :
    Works s (t.postRemote c r ea gfa bs) := by
  unfold State.postRemote
  exact (h.sendReq ..).modCore ..

/-! ### Barriers of a group -/

theorem sendBar (h : Works s t) (n b dev : Nat) (kind : BarKind) : Works s (t.sendBar n b dev kind) := h.fabSend _

theorem sendKids (h : Works s t) (n b : Nat) (kids : List Nat) (kind : BarKind) : Works s (t.sendKids n b kids kind) :=
  foldl _ _ (fun _ _ _ ht => ht.sendBar ..) h

theorem barServe (h : Works s t) (n b c : Nat) (r : BitVec 2) : Works s (t.barServe n b c r) := by
  unfold State.barServe
  simp only []
  split
  · exact ite ((h.wake ..).traceBar ..) h
  · exact h

theorem barClear (h : Works s t) (n b : Nat) : Works s (t.barClear n b) := (h.modPart ..).side

theorem barTell (h : Works s t) (n b : Nat) : Works s (t.barTell n b) := by
  unfold State.barTell
  refine foldl _ _ (fun t c _ ht => ite (foldl _ _ (fun t r _ ht => ht.barServe ..) ht) ht) (modPart (barClear ?_ ..) ..)
  exact foldl _ _ (fun t c _ ht => ite (ht.setPenn ..) ht) h

theorem barEnd (h : Works s t) {n b : Nat} (hn : n < 8) (hb : b < 80) (st : Nat) : Works s (t.barEnd n b st) :=
  ((h.setRfld (.inr (.inr ⟨n, b, hn, hb, rfl⟩)) ..).modPart ..).barTell ..

theorem barFail (h : Works s t) {n b : Nat} (hn : n < 8) (hb : b < 80) (st : Nat) : Works s (t.barFail n b st) := by
  unfold State.barFail
  exact ite (ite ((h.sendKids ..).barEnd hn hb _) ((h.sendBar ..).barEnd hn hb _)) (h.barEnd hn hb _)

theorem edgeBreak (h : Works s t) {x : Nat × Nat} (hn : x.1 < 8) (hb : x.2 < 80) : Works s (t.edgeBreak x) :=
  (h.barFail hn hb _).ite (h.sendBar ..)

/-! ### Accesses -/

theorem dropPolls (h : Works s t) (c : Nat) (r : BitVec 2) : Works s (t.dropPolls c r) := h.side

theorem waitmRead (h : Works s t) (c : Nat) (r : BitVec 2) (v : W64) : Works s (t.waitmRead c r v).1 := by
  unfold State.waitmRead
  simp only []
  split
  · split
    · exact h.setThread ..
    · exact h
  · exact h

theorem waitmEnd (h : Works s t) (c : Nat) (r : BitVec 2) (rd : BitVec 5) (v : W64) : Works s (t.waitmEnd c r rd v) := by
  unfold State.waitmEnd
  exact ((h.dropPolls ..).modCore ..).modThread ..

theorem complete (h : Works s t) (c : Nat) (a : Acc) : Works s (t.complete c a).1 := by
  have hdrop : Works s (t.modCore c (fun k => k.dropAcc a.id)) := h.modCore ..
  have hdone : Works s (t.modCore c (fun k => (k.dropAcc a.id).modThrAll a.thr (fun x => x.arrive a.id a.val))) := h.modCore ..
  unfold State.complete
  split
  · split
    · exact hdrop
    · split
      · exact h.lateExc ..
      · exact h
  · split
    · exact hdrop
    · exact hdrop
    · exact hdrop
    · exact h
    · have hread := hdrop.waitmRead c a.thr a.val
      simp only []
      generalize (t.modCore c (fun k => k.dropAcc a.id)).waitmRead c a.thr a.val = r at hread ⊢
      obtain ⟨u, b⟩ := r
      cases b
      · split
        next he => simp at he
        next he _ => exact (Prod.mk.inj he).1 ▸ hread
      · split
        next he => exact (Prod.mk.inj he).1 ▸ hread.waitmEnd ..
        next he _ => exact (Prod.mk.inj he).1 ▸ hread
    · simp only []
      split
      · split
        · simp only []
          exact hdone.modCore ..
        · exact hdone
      · exact hdone

theorem xlate (h : Works s t) (c n va : Nat) : Works s (t.xlate c n va).1 := by
  unfold State.xlate
  split
  · exact h
  · exact h.setCore ..

theorem resolve (h : Works s t) (c : Nat) (ea : W64) (need : Need) (user : Bool) : Works s (t.resolve c ea need user).1 := by
  have hx := h.xlate c ((t.partOf c).getD 0) ea.toNat
  unfold State.resolve
  simp only []
  split
  · exact h
  · split
    · split <;> exact h
    · split
      · split <;> exact h
      · split
        next hr => rw [hr] at hx; exact hx
        next hr =>
          rw [hr] at hx
          split
          · exact hx
          · split <;> exact hx

theorem inject (h : Works s t) (c : Nat) (a : Acc) : Works s (t.inject c a) := by
  have hslot := h.modCore c (fun k => (k.countSlot a.slotKind).setAcc { a with injected := true })
  unfold State.inject
  simp only []
  split
  · exact (hslot.modCore ..).postRemote ..
  · exact (hslot.sendReq ..).modCore ..
  · exact hslot.sendReq ..
  · exact hslot.sendReq ..
  · exact hslot

theorem accFails (h : Works s t) (c : Nat) (a : Acc) (code : Nat) : Works s (t.accFails c a code) :=
  ((h.modCore ..).eccReached c).ite (h.modCore ..)

theorem accErr (h : Works s t) (c : Nat) (a : Acc) (code : Nat) : Works s (t.accErr c a code) := by
  unfold State.accErr
  simp only []
  split
  · exact (h.modCore ..).complete ..
  · exact h.modCore ..

theorem homeWrite (h : Works s t) (pa : Nat) (bs : List Byte) : Works s (t.homeWrite pa bs) :=
  ((h.mem pa bs).side).ite h

theorem homeRead (h : Works s t) (pa len : Nat) (e : Ecc) : Works s (t.homeRead pa len e).1 := h.eccEvent ..

theorem writeLines (h : Works s t) (c : Nat) (r : BitVec 2) (ls : List (W64 × Resolved)) (bs : List (List Byte)) :
    Works s (t.writeLines c r ls bs) := by
  induction ls generalizing t bs with
  | nil => unfold State.writeLines; exact h
  | cons l ls ih =>
    obtain ⟨ea, r⟩ := l
    cases bs with
    | nil => exact h
    | cons b bs =>
      unfold State.writeLines
      refine ih ?_ bs
      split
      · exact (h.modCore ..).homeWrite ..
      · exact (h.modCore ..).postRemote ..

theorem countLines (h : Works s t) (c : Nat) (ls : List (W64 × Resolved)) (w : Bool) : Works s (t.countLines c ls w) :=
  h.modCore ..

theorem performRows (h : Works s t) (c : Nat) (a : Acc) (ls : List (W64 × Resolved)) (data : BitVec 2048) :
    Works s (t.performRows c a ls data) := by
  unfold State.performRows
  split
  · exact h.accFails ..
  · exact ((h.countLines ..).writeLines ..).modCore ..

theorem perform (h : Works s t) (c : Nat) (a : Acc) (e : Ecc) : Works s (t.perform c a e) := by
  unfold State.perform
  split
  · exact h.performRows ..
  · exact h
  · split
    · exact ite ((h.homeWrite ..).modCore ..) (h.accFails ..)
    · exact ite ((h.homeRead ..).accFails ..) (((h.homeRead ..).homeWrite ..).modCore ..)
    · exact ite ((h.homeRead ..).accFails ..) ((h.homeRead ..).modCore ..)
    · exact h
    · exact h
    · exact h
    · exact ite ((h.homeRead ..).accFails ..) ((h.homeRead ..).modCore ..)

theorem forceAcc (h : Works s t) (c id : Nat) : Works s (t.forceAcc c id).1 := by
  unfold State.forceAcc
  have hstep (f : State → Nat → Acc → Bool) (g : State → Nat → Acc → State) (hg : ∀ u a, Works s u → Works s (g u c a))
      {u : State} (hu : Works s u) : Works s (match (u.core c).acc? id with
        | some a => if f u c a then g u c a else u
        | none => u) := by
    split
    · exact ite (hg _ _ hu) hu
    · exact hu
  have hdone := hstep State.mayPerform (fun u c a => u.perform c a .good) (fun _ _ hu => hu.perform ..)
    (hstep State.mayInject State.inject (fun _ _ hu => hu.inject ..) h)
  simp only []
  split
  · split
    · exact hdone.complete ..
    · exact hdone
  · exact hdone

theorem forceList (h : Works s t) (c : Nat) (r : BitVec 2) (ids : List Nat) : Works s (t.forceList c r ids).1 := by
  induction ids generalizing t with
  | nil => exact h
  | cons id ids ih =>
    have hf := h.forceAcc c id
    unfold State.forceList
    split
    next he =>
      rw [he] at hf
      split
      · exact hf
      · exact ih hf
    next he => rw [he] at hf; exact ih hf

end Works

/-- The state that a drain comes to, where it comes to one, is so made. -/
def Drain.works (s : State) : Drain → Prop
  | .ok t => Works s t
  | .trapped t => Works s t
  | .stuck => True

namespace Works

variable {s t u : State}

theorem drainAccs (h : Works s t) (c : Nat) (r : BitVec 2) (upto : Nat) : (t.drainAccs c r upto).works s := by
  have hf := h.forceList c r (((t.core c).forcible).filter (· < upto))
  unfold State.drainAccs
  split
  next he => rw [he] at hf; exact hf
  next he =>
    rw [he] at hf
    split
    · trivial
    · exact hf

theorem orderLines (h : Works s t) (c : Nat) (r : BitVec 2) (id : Nat) (ls : List (W64 × Resolved)) (w : Bool) (len : Nat) :
    (t.orderLines c r id ls w len).works s := by
  have hf := h.forceList c r ((t.core c).forcible.filter (· < id))
  unfold State.orderLines
  split
  next he => rw [he] at hf; exact hf
  next he =>
    rw [he] at hf
    split
    · exact hf
    · trivial

theorem resolveLine (h : Works s t) (c : Nat) (need : Need) (user : Bool) (len : Nat) (l : RowLine) :
    Works s (t.resolveLine c need user len l).1 := by
  have hr := h.resolve c l.ea need user
  unfold State.resolveLine
  split
  · exact h
  · split
    next he => rw [he] at hr; exact hr
    next he => rw [he] at hr; exact hr

theorem resolveLines (h : Works s t) (c : Nat) (need : Need) (user : Bool) (len : Nat) (ls : List RowLine) :
    Works s (t.resolveLines c need user len ls).1 := by
  induction ls generalizing t with
  | nil => exact h
  | cons l ls ih =>
    have hl := h.resolveLine c need user len l
    unfold State.resolveLines
    split
    next he => rw [he] at hl; exact hl
    next he =>
      rw [he] at hl
      have hls := ih hl
      split
      next he2 => rw [he2] at hls; exact hls
      next he2 => rw [he2] at hls; exact hls

/-! ### The vector engine -/

theorem vecDone (h : Works s t) (c : Nat) : Works s (t.vecDone c) := (h.modCore ..).setPenn ..

theorem vecEnd (h : Works s t) (c : Nat) (r : BitVec 2) (n : Nat) (old : VecEng) (popped : Option FtEntry) :
    Works s (t.vecEnd c r n old popped) := by
  unfold State.vecEnd
  exact ite (ite (h.vecDone ..) (h.modCore ..)) (h.modCore ..)

theorem armTfin (h : Works s t) (c : Nat) : Works s (t.armTfin c) := by
  unfold State.armTfin
  simp only []
  split
  · exact ite ((h.modCore ..).setPenn ..) h
  · exact h

theorem ftqServe (h : Works s t) (c : Nat) (r : BitVec 2) : Works s (t.ftqServe c r) := by
  unfold State.ftqServe
  simp only []
  split
  · exact h
  · split
    · exact (h.coreUncorrected ..).modThread ..
    · exact ((h.setV ..).wake ..).vecEnd ..
    · exact ((((h.modCore ..).setPenn ..).wake ..).vecEnd ..).armTfin ..
    · exact h

theorem ftqServeAll (h : Works s t) (c : Nat) : Works s (t.ftqServeAll c) := foldl _ _ (fun _ _ _ ht => ht.ftqServe ..) h

theorem vecRetire (h : Works s t) (c : Nat) : Works s (t.vecRetire c) := by
  unfold State.vecRetire
  exact h.ite (ite ((h.modCore ..).setPenn ..) (h.modCore ..))

theorem putVRes (h : Works s t) (c : Nat) (r : BitVec 2) (vd : BitVec 5) (x : VRes) : Works s (t.putVRes c r vd x) :=
  (h.setV ..).modThread ..

theorem runNarrow (h : Works s t) (c : Nat) (r : BitVec 2) (o : FmtVcvt) : Works s (t.runNarrow c r o) := by
  unfold State.runNarrow
  exact putVRes (ite (h.setV ..) h) ..

theorem putGroup (h : Works s t) (c : Nat) (vd : BitVec 5) (vs : List VReg) : Works s (t.putGroup c vd vs) := by
  induction vs generalizing t vd with
  | nil => exact h
  | cons v vs ih => exact ih (h.setV ..) _

theorem runWiden (h : Works s t) (c : Nat) (r : BitVec 2) (o : FmtVcvt) : Works s (t.runWiden c r o) := by
  unfold State.runWiden
  exact (h.putGroup ..).modThread ..

theorem vecFn (h : Works s t) (c : Nat) (r : BitVec 2) (q : VKind) : Works s (t.vecFn c r q) := by
  unfold State.vecFn
  simp only []
  split
  · exact h.putVRes ..
  · exact h.setV ..
  · exact h.setV ..
  · exact h.setV ..
  · exact h.putVRes ..
  · exact h.putVRes ..
  · exact h.runNarrow ..
  · exact h.runWiden ..
  · exact h.setV ..
  · exact h.modCore ..
  · exact h.modCore ..
  · exact h
  · exact h

theorem vecRun (h : Works s t) (c : Nat) (q : VOp) : Works s (t.vecRun c q) := by
  unfold State.vecRun
  exact ((((((h.modCore ..).modThread ..).vecFn ..).modCore ..).modThread ..).modCore ..).vecEnd ..

theorem vecHead (h : Works s t) (c : Nat) (hu : t.vecHead c = some u) : Works s u := by
  unfold State.vecHead at hu
  simp only [] at hu
  split at hu
  · split at hu
    · cases hu
    · cases hu
    · split at hu
      · exact Option.some.inj hu ▸ (h.modCore ..).vecRun ..
      · cases hu
    · exact Option.some.inj hu ▸ h.vecRun ..
  · cases hu

theorem engineStep (h : Works s t) (c : Nat) (hu : t.engineStep c = some u) : Works s u := by
  unfold State.engineStep at hu
  simp only [] at hu
  split at hu
  · split at hu
    · exact h.vecHead c hu
    · exact Option.some.inj hu ▸ h.modCore ..
  · exact h.vecHead c hu

theorem engines (h : Works s t) (c fuel : Nat) : Works s (t.engines c fuel) := by
  induction fuel generalizing t with
  | zero => exact h
  | succ fuel ih =>
    unfold State.engines
    split
    next he => exact ih (h.engineStep c he)
    next => exact h

theorem afterMatrix (h : Works s t) (c : Nat) : Works s (t.afterMatrix c) := by
  have hrun := (h.engines c 24).vecRetire c
  exact (hrun.armTfin c).ite (hrun.setPenn ..)

/-! ### The matrix engine -/

/-- What a read of the LM rows of an operand of `TMMA` reports. -/
theorem readsOperand (h : Works s t) (p q : Prop) [Decidable p] [Decidable q] (a b : Nat) (e : Ecc) :
    Works s (if p then t.eccEvent a e else if q then t.eccEvent b e else t) := ite (h.eccEvent ..) (ite (h.eccEvent ..) h)

theorem collect (h : Works s t) (c : Nat) (e : Ecc) : Works s (t.collect c e).1 := by
  unfold State.collect
  simp only []
  split
  next i r n rm acc ta tb zf cfgA cfgB seed snap tiu _ =>
    split
    · exact h
    · have hecc := h.readsOperand (cfgSrc cfgA = true) (cfgSrc cfgB = true) (lmAddr c (cfgRowOff cfgA 0))
        (lmAddr c (cfgRowOff cfgB 0)) e
      generalize (if cfgSrc cfgA = true then t.eccEvent (lmAddr c (cfgRowOff cfgA 0)) e
        else if cfgSrc cfgB = true then t.eccEvent (lmAddr c (cfgRowOff cfgB 0)) e else t) = x at hecc ⊢
      split
      · split
        · exact hecc
        · exact ((hecc.eccReached c).modCore ..).enterExc ..
      · simp only []
        exact hecc.modCore ..
  next => exact h

theorem finish (h : Works s t) (c : Nat) (mismatch : Bool) : Works s (t.finish c mismatch) := by
  unfold State.finish
  simp only []
  split
  · split
    · exact h
    · refine ftqServeAll (afterMatrix (ite ?_ (h.modCore ..)) _) _
      refine ite (eccReached ?_ _) ?_ <;> exact ((((h.modCore ..).modCore ..).countErr ..).setPenn ..).traceCore ..
  · exact h

theorem tfinDone (h : Works s t) (c : Nat) : Works s (t.tfinDone c) := by
  unfold State.tfinDone
  simp only []
  split
  · split
    · exact h
    · exact ftqServeAll (afterMatrix (ite (((h.modCore ..).setPenn ..).traceCore ..) ((h.modCore ..).setPenn ..)) _) _
  · exact h

end Works

/-- The state that an engine's memory instruction comes to is so made. -/
def EngRes.works (s : State) : EngRes → Prop
  | .ok t _ _ => Works s t
  | .wait t => Works s t
  | .trap t _ => Works s t
  | .other t _ => Works s t

namespace Works

variable {s t u : State}

theorem engLines (h : Works s t) (c : Nat) (r : BitVec 2) (id : Nat) (need : Need) (user : Bool) (lines : List RowLine) :
    (t.engLines c r id need user lines).works s := by
  have hl := h.resolveLines c need user 64 lines
  unfold State.engLines
  split
  next he => rw [he] at hl; exact hl
  next ls he =>
    rw [he] at hl
    have ho := hl.orderLines c r id ls (need == .write) 64
    split
    next => exact h
    next ho2 => rw [ho2] at ho; exact ho
    next ho2 => rw [ho2] at ho; exact ho

theorem engWrite (h : Works s t) (c : Nat) (r : BitVec 2) (n id : Nat) (user : Bool) (lines : List RowLine)
    (bs : List (List Byte)) : (t.engWrite c r n id user lines bs).works s := by
  have hl := h.engLines c r id .write user lines
  unfold State.engWrite
  split
  · exact h
  · split
    next he =>
      rw [he] at hl
      split
      · exact hl
      · exact (countLines hl ..).writeLines ..
    next => exact hl

theorem engRead (h : Works s t) (c : Nat) (vec : Bool) (r : BitVec 2) (id : Nat) (user : Bool) (lines : List RowLine) :
    (t.engRead c vec r id user lines).works s := by
  have hl := h.engLines c r id .read user lines
  unfold State.engRead
  split
  · split
    · exact h.modCore ..
    · exact h
  · split
    next he =>
      rw [he] at hl
      split
      · exact eccReached hl c
      · simp only []
        split
        · exact countLines hl ..
        · exact (countLines hl ..).modCore ..
    next => exact hl

theorem engTrap (h : Works s t) (hu : Works s u) (c : Nat) (r : BitVec 2) (n : Nat) (snap : Thread) (e : Exc) :
    Works s (t.engTrap u c r n snap e).1 := by
  unfold State.engTrap
  split
  · exact h
  · exact (hu.modCore ..).enterExc ..

theorem memEnd (h : Works s t) (c id : Nat) : Works s (t.memEnd c id) := (h.modCore ..).afterMatrix c

/-- The check of a row's lines alone, of an instruction that its shape stops; or its reads or writes. -/
theorem rowChecked (h : Works s t) (b store : Bool) {c : Nat} {need : Need} {user : Bool} {row : List RowLine} {r : BitVec 2}
    {n id : Nat} {bs : List (List Byte)} {x : EngRes}
    (hx : (if b = true then
        match t.resolveLines c need user 64 row with
        | (u, .error e) => EngRes.trap u e
        | (u, .ok ls) => .ok u ls []
      else if store = true then t.engWrite c r n id user row bs else t.engRead c false r id user row) = x) : x.works s := by
  subst hx
  split
  · have hl := h.resolveLines c need user 64 row
    split
    next he => rw [he] at hl; exact hl
    next he => rw [he] at hl; exact hl
  · split
    · exact h.engWrite ..
    · exact h.engRead ..

theorem rowsRun (h : Works s t) (c : Nat) (q : MOp) (store : Bool) (id : Nat) (tile : BitVec 3) (base stride : W64)
    (fuel : Nat) : Works s (t.rowsRun c q store id tile base stride fuel).1 := by
  induction fuel generalizing t q with
  | zero => exact h
  | succ fuel ih =>
    unfold State.rowsRun
    simp only []
    split
    next he => exact (h.rowChecked _ _ he :)
    next he => exact (h.rowChecked _ _ he :)
    next he => exact h.engTrap (h.rowChecked _ _ he) ..
    next u _ _ he =>
      have hu : Works s u := h.rowChecked _ _ he
      split
      · exact h.engTrap (h.modCore ..) ..
      · split
        · exact ih (hu.modCore ..) _
        · exact (hu.modCore ..).memEnd ..

/-- The reads or writes of a scale or accumulator transfer. -/
theorem unitChecked (h : Works s t) {op : TileMem} {c : Nat} {user : Bool} {sl al : List RowLine} {r : BitVec 2} {n id : Nat}
    {sb ab : List (List Byte)} {x : EngRes}
    (hx : (match op with
      | .tsld => t.engRead c false r id user sl
      | .tald => t.engRead c false r id user al
      | .tsst => t.engWrite c r n id user sl sb
      | _ => t.engWrite c r n id user al ab) = x) : x.works s := by
  subst hx
  split
  · exact h.engRead ..
  · exact h.engRead ..
  · exact h.engWrite ..
  · exact h.engWrite ..

theorem unitRun (h : Works s t) (c : Nat) (q : MOp) (op : TileMem) (id : Nat) (reg : BitVec 5) (base stride : W64) :
    Works s (t.unitRun c q op id reg base stride).1 := by
  unfold State.unitRun
  simp only []
  split
  next he => exact (h.unitChecked he :)
  next he => exact (h.unitChecked he :)
  next he => exact h.engTrap (h.unitChecked he) ..
  next u _ _ he =>
    have hu : Works s u := h.unitChecked he
    exact (hu.modCore ..).memEnd ..

theorem memRun (h : Works s t) (c : Nat) : Works s (t.memRun c).1 := by
  unfold State.memRun
  split
  · split
    · exact h.rowsRun ..
    · exact h.rowsRun ..
    · exact h.unitRun ..
    · exact h
  · exact h

theorem matrixHead (h : Works s t) (c : Nat) : Works s (t.matrixHead c).1 := by
  have hc := h.collect c .good
  unfold State.matrixHead
  split
  · split
    next he => rw [he] at hc; exact hc
    next he => rw [he] at hc; exact hc.finish ..
  · exact h.finish ..
  · exact h.tfinDone c
  · exact h.memRun c
  · exact h.afterMatrix c

theorem vecMem (h : Works s t) (c : Nat) : Works s (t.vecMem c).1 := by
  unfold State.vecMem
  simp only []
  split
  next q _ _ =>
    split
    next id vr base stride _ =>
      have hr := h.engRead c true q.thr id (!q.snap.sup) (rowLines base stride 4 1)
      split
      next he => rw [he] at hr; exact hr
      next he => rw [he] at hr; exact hr
      next he => rw [he] at hr; exact h.engTrap hr ..
      next u _ _ he =>
        rw [he] at hr
        have hu : Works s u := hr
        exact (((hu.modCore ..).modCore ..).setV ..).vecEnd ..
    next id vr base stride _ =>
      have hl := h.resolveLines c .write (!q.snap.sup) 64 (rowLines base stride 4 1)
      split
      next he => rw [he] at hl; exact h.engTrap hl ..
      next he => rw [he] at hl; exact ((hl.modCore ..).modCore ..).vecEnd ..
    next => exact h
  next => exact h

theorem matrixStep (h : Works s t) (c : Nat) (r : BitVec 2) : Works s (t.matrixStep c r).1 := by
  unfold State.matrixStep
  simp only []
  split
  next q _ _ =>
    have hf := h.forceList c r (((t.core c).mem.accs.filter (fun a => !a.alone && (a.n < q.n || a.thr != q.thr))).map Acc.id)
    split
    next he => rw [he] at hf; exact hf
    next u he =>
      rw [he] at hf
      have hm := hf.matrixHead c
      split
      next he2 => rw [he2] at hm; exact hm
      next he2 => rw [he2] at hm; exact hm.vecMem c
  next q _ _ _ =>
    have hf := h.forceList c r (((t.core c).mem.accs.filter (fun a => !a.alone && (a.n < q.n || a.thr != q.thr))).map Acc.id)
    split
    next he => rw [he] at hf; exact hf
    next he => rw [he] at hf; exact (hf.afterMatrix c).vecMem c
  next => exact h

theorem matrixRun (h : Works s t) (c : Nat) (r : BitVec 2) (fuel : Nat) : Works s (t.matrixRun c r fuel).1 := by
  induction fuel generalizing t with
  | zero => exact h
  | succ fuel ih =>
    have hm := h.matrixStep c r
    unfold State.matrixRun
    split
    next he =>
      rw [he] at hm
      split
      · exact hm
      · exact ih hm
    next he =>
      rw [he] at hm
      split
      · exact hm
      · exact ih hm

/-! ### Exceptions that wait for earlier work -/

theorem engineDrain (h : Works s t) (c : Nat) (r : BitVec 2) (upto : Nat) : (t.engineDrain c r upto).works s := by
  have hm := h.matrixRun c r 24
  unfold State.engineDrain
  split
  next he => rw [he] at hm; exact hm
  next he => rw [he] at hm; exact drainAccs hm ..

/-- The accesses that an exception waits for, and the engines where those do not suffice. -/
theorem settleFirst (h : Works s t) {c : Nat} {r : BitVec 2} {upto : Nat} {drains : Bool} {x : Drain}
    (hx : (match t.drainAccs c r upto with
      | .stuck => if drains = true ∨ 0 < upto then t.engineDrain c r upto else .stuck
      | d => d) = x) : x.works s := by
  have hd := h.drainAccs c r upto
  subst hx
  split
  · split
    · exact h.engineDrain ..
    · trivial
  · exact hd

/-- The engines that an exception waits for. -/
theorem settleEngines (h : Works s t) {c : Nat} {r : BitVec 2} {upto : Nat} {p : State → Prop} [∀ u, Decidable (p u)]
    {x : Drain} (hx : (match t.engineDrain c r upto with
      | .ok u => if p u then Drain.stuck else .ok (u.vecRetire c)
      | d => d) = x) : x.works s := by
  have hd := h.engineDrain c r upto
  subst hx
  split
  next he =>
    rw [he] at hd
    split
    · trivial
    · exact vecRetire hd c
  next => exact hd

theorem settle (h : Works s t) (c : Nat) (r : BitVec 2) (uses : List (BitVec 5)) (drains : Bool) :
    (t.settle c r uses drains).works s := by
  have h0 := h.modThread c r Thread.commit
  unfold State.settle
  simp only []
  split
  next u he =>
    have hu : Works s u := h0.settleFirst he
    split
    · exact (hu.modThread c r Thread.commit).settleEngines rfl
    · exact hu.modThread ..
  next => exact h0.settleFirst rfl

theorem raise (h : Works s t) (c : Nat) (r : BitVec 2) (e : Exc) (hu : t.raise c r e = some u) : Works s u := by
  have hs := h.settle c r [] true
  unfold State.raise at hu
  split at hu
  next he =>
    rw [he] at hs
    split at hu
    · exact Option.some.inj hu ▸ enterExc hs ..
    · cases hu
  next he => rw [he] at hs; exact Option.some.inj hu ▸ hs
  next => cases hu

end Works

/-- The state that an instruction's effect comes to is so made. -/
def Res.works (s : State) : Res → Prop
  | .done t => Works s t
  | .jump t _ => Works s t
  | .trap t _ => Works s t
  | .wait t => Works s t
  | .stall => True
  | .gone t => Works s t

namespace Works

variable {s t u : State}

theorem settleTrap (h : Works s t) (t0 : State) (c : Nat) (th : BitVec 2) (e : Exc) :
    Works s (t0.settleRes c th (.trap t e)) := by
  have hbase := h.modThread c th (fun y => { y with wait := none })
  change Works s (((t.modThread c th (fun y => { y with wait := none })).raise c th e).getD _)
  cases hraise : (t.modThread c th (fun y => { y with wait := none })).raise c th e with
  | none => exact (h.modThread c th (fun y => { y with wait := some (.trapping e) }) :)
  | some u => exact hbase.raise c th e hraise

theorem settleRes (h : Works s t) {r : Res} (hr : r.works s) (c : Nat) (th : BitVec 2) : Works s (t.settleRes c th r) := by
  cases r with
  | done u => exact wake (t := u) hr c th (fun y => y)
  | jump u pc => exact modThread (t := u) hr c th (fun y => { y with wait := none, n := y.n + 1, pc := pc })
  | trap u e => exact settleTrap hr t c th e
  | wait u => exact hr
  | stall => exact h
  | gone u => exact hr

/-! ### Channels -/

theorem chanResume (h : Works s t) (c : Nat) (ch : BitVec 3) (id : Nat) : (t.chanResume c ch id).works s := by
  unfold State.chanResume
  simp only []
  split
  · split
    · exact h
    · exact h.setChan ..
  · exact h.setChan ..
  · exact h

theorem areaExc (h : Works s t) (c : Nat) (need : Need) (user : Bool) (len : Nat) (base : W64) (acc : Option Exc)
    (ls : List RowLine) : Works s (t.areaExc c need user len base acc ls).1 := by
  induction ls generalizing t acc with
  | nil => exact h
  | cons l ls ih =>
    have hl := h.resolveLine c need user len l
    unfold State.areaExc
    split
    · exact ih h _
    · split
      next he => rw [he] at hl; exact ih hl _
      next he => rw [he] at hl; exact ih hl _

theorem listExc (h : Works s t) (c : Nat) (r : BitVec 2) (list n : W64) : Works s (t.listExc c r list n).1 := h.areaExc ..

theorem leaveList (h : Works s t) (c : Nat) (ch : BitVec 3) (b : Bool) : Works s (t.leaveList c ch b) := h.side

theorem chanStart (h : Works s t) (c : Nat) (ch : BitVec 3) (list : W64) (ds : List (BitVec 256)) (user : Bool) (since : Nat) :
    Works s (t.chanStart c ch list ds user since) := by
  unfold State.chanStart
  have hdrop (p : Prop) [Decidable p] (f : Core → Core) : Works s (if p then t.modCore c f else t) := ite (h.modCore ..) h
  exact (leaveList (ite ((hdrop ..).chanPenn ..) (hdrop ..)) ..).setChan ..

theorem postCheck (h : Works s t) (c : Nat) (r : BitVec 2) (ch : BitVec 3) (list : W64) (since : Nat) (bs : List (List Byte)) :
    (t.postCheck c r ch list since bs).works s := by
  unfold State.postCheck
  split
  · exact h
  · split
    · exact h
    · exact h.chanStart ..

theorem listRead (h : Works s t) (c : Nat) (r : BitVec 2) (ch : BitVec 3) (list : W64) (n id : Nat)
    (ls : List (W64 × Resolved)) : (t.listRead c r ch list n id ls).works s := by
  have ho := h.orderLines c r id ls false 32
  unfold State.listRead
  split
  next => trivial
  next he => rw [he] at ho; exact ho
  next u he =>
    rw [he] at ho
    have hu : Works s u := ho
    have hread (p : Prop) [Decidable p] :
        Works s (if p then (u.countLines c ls false).eccReached c else u.countLines c ls false) :=
      ite ((hu.countLines ..).eccReached c) (hu.countLines ..)
    simp only []
    split
    · exact postCheck (hread _) ..
    · exact (hread _).modThread ..

theorem postList (h : Works s t) (c : Nat) (r : BitVec 2) (ch : BitVec 3) (list n : W64) (id : Nat) :
    (t.postList c r ch list n id).works s := by
  have he := h.listExc c r list n
  unfold State.postList
  split
  · exact h
  · split
    next hx => rw [hx] at he; exact he
    next u hx =>
      rw [hx] at he
      have hl := he.resolveLines c .read (!(u.thread c r).sup) 32 (listLines list n.toNat)
      split
      next hy => rw [hy] at hl; exact hl
      next hy => rw [hy] at hl; exact hl.listRead ..

theorem endAcc {r : Res} (h : r.works s) (c id : Nat) : (endAcc c id r).works s := by
  cases r with
  | done u => exact modCore h ..
  | trap u e => exact modCore h ..
  | jump u pc => exact h
  | wait u => exact h
  | stall => exact h
  | gone u => exact h

theorem sdescAct (h : Works s t) (c : Nat) (r : BitVec 2) (seq : Nat) (ch : BitVec 3) (list n : W64) (resume : Bool) :
    (t.sdescAct c r seq ch list n resume).works s := by
  have hp := h.postList c r ch list n seq
  unfold State.sdescAct
  simp only []
  split
  · exact h.modThread ..
  · split
    · exact h.chanResume ..
    · split
      next => exact h.modThread ..
      next => exact endAcc hp ..

theorem sdescServe (h : Works s t) (c : Nat) (ch : BitVec 3) (fuel : Nat) : Works s (t.sdescServe c ch fuel) := by
  induction fuel generalizing t with
  | zero => exact h
  | succ fuel ih =>
    unfold State.sdescServe
    split
    · exact h
    · split
      · split
        · exact h
        · exact ih (h.settleRes (h.sdescAct ..) ..)
      · exact h

theorem afterGather (h : Works s t) (c : Nat) (k : GatherKind) : Works s (t.afterGather c k) := by
  cases k with
  | sdesc ch list n => exact h.sdescServe ..
  | _ => exact h

theorem chanFault (h : Works s t) (c : Nat) (ch : BitVec 3) (f : ChFault) : Works s (t.chanFault c ch f) := by
  unfold State.chanFault
  exact (traceChan (ite ((h.setChan ..).chanPenn ..) (h.setChan ..)) ..).sdescServe ..

theorem chanError (h : Works s t) (c : Nat) (ch : BitVec 3) (code : Nat) (side : Bool) (addr : W64) :
    Works s (t.chanError c ch code side addr) := by
  unfold State.chanError
  exact ite (h.chanFault ..) (ite (h.setChan ..) h)

theorem chanAnswered (h : Works s t) (c : Nat) (ch : BitVec 3) : Works s (t.chanAnswered c ch) := by
  unfold State.chanAnswered
  exact ite ((h.setChan ..).chanPenn ..) (h.setChan ..)

theorem oldAnswered (h : Works s t) (c : Nat) (ch : BitVec 3) : Works s (t.oldAnswered c ch) := by
  unfold State.oldAnswered
  exact ite ((h.setChan ..).chanPenn ..) (h.setChan ..)

/-! ### Answers -/

theorem errAnswer (h : Works s t) (q : RemReq) (code : BitVec 4) : Works s (t.errAnswer q code) := (h.countErr ..).errLog _

/-- A gather that fails for another reason than an uncorrectable line. -/
theorem gatherFail (h : Works s t) (c : Nat) (r : BitVec 2) (i : Nat) {code : Nat} (hc : code ≠ excEcc) (addr : W64) :
    Works s (t.gatherFail c r i code addr) := by
  have hcode : (code == excEcc) = false := beq_eq_false_iff_ne.2 hc
  unfold State.gatherFail
  split
  · split
    next he _ => rw [hcode] at he; cases he
    next =>
      have hdrop : Works s (State.modCore { t with remReqs := t.remReqs.filter (fun q => match q.org with
        | .line d u _ => !(d == c && u == r) | _ => true) } c (fun k => k.dropLines r)) := h.side.modCore ..
      exact (hdrop.settleTrap ..).afterGather ..
  · exact h

theorem engineFail (h : Works s t) (c : Nat) (vec : Bool) (id code : Nat) (addr : W64) :
    Works s (t.engineFail c vec id code addr) := by
  unfold State.engineFail
  split
  · exact ite (h.modCore ..) h
  · exact h

theorem remoteFailed (h : Works s t) (c : Nat) (r : BitVec 2) (id : Nat) (gfa : W64) :
    Works s (t.remoteFailed c r id gfa) := by
  unfold State.remoteFailed
  simp only []
  split
  · exact ((((((h.setPenn ..).modCore ..).modThread ..).modCore ..).modThread ..).modThread ..).enterExc ..
  · exact ((h.setPenn ..).modCore ..).modThread ..

theorem answerErr (h : Works s t) (q : RemReq) {code : BitVec 4} (hc : errExc code ≠ excEcc) : Works s (t.answerErr q code) := by
  have he := h.errAnswer q code
  unfold State.answerErr
  simp only []
  split
  · split
    · exact (he.modCore ..).accErr ..
    · exact he.modCore ..
  · exact he.gatherFail _ _ _ hc _
  · exact he.engineFail ..
  · exact he.settleTrap ..
  · exact he.remoteFailed ..
  · split
    · exact he.settleTrap ..
    · exact h
  · exact he.chanError ..
  · exact he.chanError ..
  · exact (he.chanAnswered ..).chanError ..
  · exact ite (he.oldAnswered ..) he
  · exact (he.chanAnswered ..).chanError ..

/-! ### Items that a port loses (R379) -/

theorem lostOwn (h : Works s t) (i : FabItem) : Works s (t.lostOwn i) := by
  unfold State.lostOwn
  split
  · split
    · exact h.modThread ..
    · exact ite (setPenn (answerErr h.side _ (by decide)) ..) h.side
  · exact h

theorem lostItem (h : Works s t) (i : PortItem) : Works s (t.lostItem i) := by
  unfold State.lostItem
  cases i with
  | own i => exact h.lostOwn i
  | transit i => exact ite (h.fabSend _) h

end Works
end Sys2Proof.Machine
end

section
/-!
PROOFS. A port that is disabled, and one that is asked to retrain (R356, R379): `FAB_PCTL`.
-/
namespace Sys2Proof.Machine

variable {s t : State} {p : Nat}

/-! ### What the work of cores and fabric keeps of a port -/

theorem Works.keepsPortRegs (h : Works s t) (hp : p < 16) :
    t.reg (fabp p 0) = s.reg (fabp p 0) ∧ t.reg (fabp p 8) = s.reg (fabp p 8) := by
  induction h with
  | refl => exact ⟨rfl, rfl⟩
  | side _ ih => exact ih
  | mem _ _ _ ih => exact ih
  | port _ _ _ ih => exact ih
  | reg _ ho v ih =>
    obtain ⟨h0, h8⟩ := fabp_not_workWord hp ho
    rw [State.reg_setReg_ne _ _ h0, State.reg_setReg_ne _ _ h8]
    exact ih

/-- A port that is not lit stays as it is. -/
theorem Works.keepsDarkPort (h : Works s t) (hp : p < 16) (hdark : ¬ s.lit p) : t.port p = s.port p := by
  induction h with
  | refl => rfl
  | side _ ih => exact ih
  | mem _ _ _ ih => exact ih
  | reg _ _ _ ih => exact ih
  | port hw hq x ih =>
    refine Eq.trans (AMap.get_put_ne _ _ _ fun heq => hdark ?_) ih
    subst heq
    exact (State.lit_congr (hw.keepsPortRegs hp).1).1 hq

/-! ### A port's state is written -/

/-- The state without what the partitions and the trace units keep. -/
def State.untraced (s : State) : State := { s with parts := [], unitSeq := [] }

theorem State.reg_untraced (s : State) (o : Nat) : s.untraced.reg o = s.reg o := rfl
theorem State.port_untraced (s : State) (q : Nat) : s.untraced.port q = s.port q := rfl

/-- What each step of a fold keeps, the fold keeps. -/
theorem foldl_keeps {α β : Type} (obs : State → β) (l : List α) (f : State → α → State) (hf : ∀ s x, obs (f s x) = obs s)
    (s : State) : obs (l.foldl f s) = obs s := by
  induction l generalizing s with
  | nil => rfl
  | cons x l ih => exact (ih (f s x)).trans (hf s x)

theorem untraced_traceUnit (s : State) (u : Nat) (rings : List Nat) (ty payload : Nat) :
    (s.traceUnit u rings ty payload).untraced = s.untraced := by
  unfold State.traceUnit State.traceUnitAt
  simp only []
  split
  · rfl
  · exact foldl_keeps State.untraced _ (fun (s : State) n => s.traceTo n _) (fun _ _ => rfl) _

theorem untraced_breaks (l : List Nat) (b : Nat → Prop) [DecidablePred b] (c : Nat) (s : State) :
    (l.foldl (fun (s : State) n => if b n then s.breakCond n c else s) s).untraced = s.untraced :=
  foldl_keeps State.untraced _ _ (fun s n => by split <;> rfl) s

/-- The two fields that a change of a port's state writes. -/
def State.pstatSet (s : State) (p st : Nat) : State :=
  (s.setRfld (fabp p 0) 0 3 st).setRfld (fabp p 0) 3 2 (if st = pUp then laneMode (s.port p).lanes else 0)

theorem State.untraced_portState (s : State) (p st cause : Nat) :
    (s.portState p st cause).untraced = (s.pstatSet p st).reparent.untraced := by
  have hreparent {u v : State} (h : u.untraced = v.untraced) : u.reparent.untraced = v.reparent.untraced := by
    have hu : u.reparent.untraced = u.untraced.reparent := rfl
    have hv : v.reparent.untraced = v.untraced.reparent := rfl
    rw [hu, hv, h]
  unfold State.portState
  refine hreparent ?_
  split
  · exact untraced_breaks ..
  · rw [untraced_traceUnit]; exact untraced_breaks ..

theorem State.port_portState (s : State) (p st cause q : Nat) : (s.portState p st cause).port q = s.port q := by
  rw [← State.port_untraced, s.untraced_portState]; rfl

theorem State.reg_portState (s : State) (p st cause o : Nat) : (s.portState p st cause).reg o = (s.pstatSet p st).reparent.reg o := by
  rw [← State.reg_untraced, s.untraced_portState, State.reg_untraced]

theorem State.rfld_portState (s : State) (hp : p < 16) (st cause lo w : Nat) (hlo : 5 ≤ lo) :
    (s.portState p st cause).rfld (fabp p 0) lo w = s.rfld (fabp p 0) lo w := by
  have hne : fabp p 0 ≠ 0x50020 := by unfold fabp; omega
  rw [State.rfld, State.reg_portState, State.reparent, State.reg_setRfld_ne _ _ _ _ hne, State.pstatSet]
  exact (State.rfld_setRfld_ne _ _ _ _ _ _ _ (by omega)).trans (State.rfld_setRfld_ne _ _ _ _ _ _ _ (by omega))

theorem State.pstat_portState (s : State) (hp : p < 16) {st : Nat} (hst : st < 8) (cause : Nat) :
    (s.portState p st cause).pstat p = st := by
  have hne : fabp p 0 ≠ 0x50020 := by unfold fabp; omega
  rw [State.pstat, State.rfld, State.reg_portState, State.reparent, State.reg_setRfld_ne _ _ _ _ hne, State.pstatSet]
  refine (State.rfld_setRfld_ne _ _ _ _ _ _ _ (by omega)).trans ((State.rfld_setRfld _ _ _ _ _ (by omega)).trans ?_)
  omega

theorem State.pctl_portState (s : State) (hp : p < 16) (st cause : Nat) :
    (s.portState p st cause).reg (fabp p 8) = s.reg (fabp p 8) := by
  have hne : fabp p 8 ≠ 0x50020 := by unfold fabp; omega
  have hne0 : fabp p 8 ≠ fabp p 0 := by unfold fabp; omega
  rw [State.reg_portState, State.reparent, State.reg_setRfld_ne _ _ _ _ hne, State.pstatSet,
    State.reg_setRfld_ne _ _ _ _ hne0, State.reg_setRfld_ne _ _ _ _ hne0]

/-! ### A port that is lost (R379) -/

theorem State.edges_bounds {x : Nat × Nat} (h : x ∈ s.edges p) : x.1 < 8 ∧ x.2 < 80 := by
  simp only [State.edges, List.mem_flatMap, List.mem_map, List.mem_filter, List.mem_range] at h
  obtain ⟨n, hn, b, ⟨hb, -⟩, rfl⟩ := h
  exact ⟨hn, by omega⟩

/-- The port has nothing left, and its credits are gone. -/
def State.portEmptied (s : State) (p : Nat) : State :=
  (List.range 9).foldl (fun (s : State) v => s.setRfld (fabp p (0x40 + 8 * v)) 16 16 0) (s.modPort p Port.emptied)

theorem State.portEmptied_spec (s : State) (p : Nat) :
    ((s.portEmptied p).port p).held = [] ∧ (s.portEmptied p).reg (fabp p 8) = s.reg (fabp p 8) := by
  unfold State.portEmptied
  refine List.foldlRecOn (motive := fun t : State => (t.port p).held = [] ∧ t.reg (fabp p 8) = s.reg (fabp p 8)) _ _ ⟨?_, rfl⟩ ?_
  · exact congrArg Port.held (AMap.get_put_same ..)
  · intro t ht v _
    have hne : fabp p 8 ≠ fabp p (0x40 + 8 * v) := by unfold fabp; omega
    exact ⟨ht.1, (State.reg_setRfld_ne _ _ _ _ hne).trans ht.2⟩

theorem State.portLost_works (s : State) (p st cause : Nat) :
    Works ((s.portEmptied p).portState p st cause) (s.portLost p st cause) := by
  unfold State.portLost
  refine Works.foldl _ _ (fun t x hx ht => ?_) (Works.foldl _ _ (fun t i _ ht => ht.lostItem i) ((Works.refl.countErr ..).errLog _))
  obtain ⟨hn, hb⟩ := State.edges_bounds hx
  exact ht.edgeBreak hn hb

/-- A port that goes `DOWN` holds nothing afterwards. -/
theorem State.portLost_spec (s : State) (hp : p < 16) (cause : Nat) :
    (s.portLost p pDown cause).pstat p = 0 ∧ ((s.portLost p pDown cause).port p).held = [] ∧
      (s.portLost p pDown cause).reg (fabp p 8) = s.reg (fabp p 8) := by
  have hw := s.portLost_works p pDown cause
  obtain ⟨hheld, hctl⟩ := s.portEmptied_spec p
  have hdown : ((s.portEmptied p).portState p pDown cause).pstat p = 0 := State.pstat_portState _ hp (by decide) _
  obtain ⟨h0, h8⟩ := hw.keepsPortRegs hp
  refine ⟨?_, ?_, ?_⟩
  · rw [← hdown, State.pstat, State.pstat, State.rfld, State.rfld, h0]
  · rw [hw.keepsDarkPort hp (by rw [State.lit, hdown]; decide), State.port_portState, hheld]
  · rw [h8, State.pctl_portState _ hp, hctl]

theorem State.portDisable_spec (s : State) (hp : p < 16) :
    (s.portDisable p).pstat p = 0 ∧ ((s.portDisable p).port p).held = [] ∧
      (s.portDisable p).reg (fabp p 8) = s.reg (fabp p 8) := by
  unfold State.portDisable
  split
  next h => exact ⟨h.1, h.2, rfl⟩
  next => exact s.portLost_spec hp _

/-! ### A port that retrains (R356) -/

theorem State.rfld_satInc (s : State) {o lo w : Nat} (h : lo + w ≤ 64) : s.counts (s.satInc o lo w) o lo w := by
  have hlt := fld_lt (s.reg o) lo w
  unfold State.counts State.satInc
  split
  next hroom =>
    rw [State.rfld_setRfld _ _ _ _ _ h, Nat.mod_eq_of_lt hroom]
    omega
  next hfull =>
    have : s.rfld o lo w < 2 ^ w := hlt
    omega

theorem State.reg_satInc_ne (s : State) {o q : Nat} (lo w : Nat) (h : q ≠ o) : (s.satInc o lo w).reg q = s.reg q := by
  unfold State.satInc
  split
  · exact State.reg_setRfld_ne _ _ _ _ h
  · rfl

theorem State.port_satInc (s : State) (o lo w q : Nat) : (s.satInc o lo w).port q = s.port q := by
  unfold State.satInc
  split <;> rfl

/-- What a count of a retraining keeps: the registers after it, and what the port waits for. -/
theorem State.countRetrain_spec (s : State) (p : Nat) :
    (s.countRetrain p).regs = ((s.satInc (fabp p 0) 32 16).countErr 15 false).regs ∧
      ((s.countRetrain p).port p).retrainWide = (s.port p).retrainWide ∧
      ((s.countRetrain p).port p).retrainAt = (s.port p).retrainAt := by
  have hport : ((s.satInc (fabp p 0) 32 16).countErr 15 false).port p = s.port p :=
    (State.port_satInc ..).trans (State.port_satInc ..)
  unfold State.countRetrain
  refine List.foldlRecOn (motive := fun t : State => t.regs = ((s.satInc (fabp p 0) 32 16).countErr 15 false).regs ∧
    (t.port p).retrainWide = (s.port p).retrainWide ∧ (t.port p).retrainAt = (s.port p).retrainAt) _ _
    ⟨rfl, by rw [hport], by rw [hport]⟩ ?_
  intro t ht n _
  obtain ⟨hregs, hwide, hat⟩ := ht
  have hmod (f : Port → Port) : (t.modPort p f).port p = f (t.port p) := AMap.get_put_same ..
  have hbreak (u : State) : (u.breakCond n 1).port p = u.port p := rfl
  split
  · exact ⟨hregs, hwide, hat⟩
  · simp only []
    split
    · exact ⟨hregs, by rw [hbreak, hmod]; exact hwide, by rw [hbreak, hmod]; exact hat⟩
    · exact ⟨hregs, by rw [hmod]; exact hwide, by rw [hmod]; exact hat⟩

theorem State.startRetrain_spec (s : State) (hp : p < 16) (hup : s.pstat p = 2) :
    (s.startRetrain p true).pstat p = 3 ∧ ((s.startRetrain p true).port p).retrainWide = true ∧
      ((s.startRetrain p true).port p).retrainAt = some s.elapsed ∧ s.counts (s.startRetrain p true) (fabp p 0) 32 16 := by
  have hne : ¬ s.pstat p ≠ pUp := fun h => h hup
  rw [State.startRetrain, if_neg hne]
  generalize hu : s.modPort p (fun x => { x with retrainAt := some s.elapsed, retrainWide := true, nakAt := none, naks := [] }) = u
  have hport : u.port p = { s.port p with retrainAt := some s.elapsed, retrainWide := true, nakAt := none, naks := [] } := by
    rw [← hu]; exact AMap.get_put_same ..
  have hreg (o : Nat) : u.reg o = s.reg o := by rw [← hu]; rfl
  obtain ⟨hregs, hwide, hat⟩ := u.countRetrain_spec p
  simp only [State.port_portState, hwide, hat, hport]
  refine ⟨State.pstat_portState _ hp (by decide) _, trivial, trivial, ?_⟩
  rw [State.counts, State.rfld_portState _ hp _ _ _ _ (by omega)]
  have hcount : (u.countRetrain p).rfld (fabp p 0) 32 16 = (u.satInc (fabp p 0) 32 16).rfld (fabp p 0) 32 16 := by
    have hall : (u.countRetrain p).reg (fabp p 0) = ((u.satInc (fabp p 0) 32 16).countErr 15 false).reg (fabp p 0) := by
      rw [State.reg, hregs]; rfl
    rw [State.rfld, hall, State.countErr, State.reg_satInc_ne _ _ _ (by unfold fabp; omega), State.rfld]
  rw [hcount, u.rfld_satInc (by omega), State.rfld, State.rfld, hreg]

/-! ### `FAB_PCTL` -/

theorem regKeep_fabPctl (s : State) (hp : p < 16) (vf : Bool) (old new : W64) :
    s.regKeep (fabp p 8) vf old new = keepFld old new 0 2 (fld new 0 2 == 0) := by
  interval_cases p <;> rfl

theorem regEffect_fabPctl (s : State) (hp : p < 16) (old new w : W64) :
    s.regEffect (fabp p 8) old new w =
      let t := if old.getLsbD 2 && !new.getLsbD 2 then s.portDisable p
        else if !old.getLsbD 2 && new.getLsbD 2 then s.tryTrain p else s
      if w.getLsbD 3 then t.startRetrain p true else t := by
  interval_cases p <;> rfl

theorem regWo_fabPctl : ∀ p < 16, regWo (fabp p 8) = 0x8 := by decide

/-- A write of `FAB_PCTL`: the port is disabled or enabled, and asked to retrain. -/
theorem State.hostOpen.writesFabPctl (h : s.hostOpen) (hp : p < 16) (v : W64) :
    ∃ x : W64, x.getLsbD 2 = v.getLsbD 2 ∧ s.hostWrite 0 (fabp p 8) .all v =
      let u := s.putReg (fabp p 8) x
      let t := if (s.reg (fabp p 8)).getLsbD 2 && !v.getLsbD 2 then u.portDisable p
        else if !(s.reg (fabp p 8)).getLsbD 2 && v.getLsbD 2 then u.tryTrain p else u
      if v.getLsbD 3 then t.startRetrain p true else t := by
  have hword : ∀ p < 16, codedWord (fabp p 8) = true ∧ fabp p 8 < 0x1000000 := by decide
  obtain ⟨hc, hlt⟩ := hword p hp
  have hen : (s.takes (fabp p 8) 7 v).getLsbD 2 = v.getLsbD 2 := by
    rw [State.takes, regKeep_fabPctl s hp, getLsbD_keepFld, getLsbD_takeBits]
    exact if_neg (by omega)
  have hretrain : (v &&& regWo (fabp p 8)).getLsbD 3 = v.getLsbD 3 := by
    rw [regWo_fabPctl p hp, BitVec.getLsbD_and]
    exact Bool.and_true _
  refine ⟨s.takes (fabp p 8) 7 v, hen, ?_⟩
  rw [h.writesRw hlt hc (regInfo_fabPctl p hp), regEffect_fabPctl _ hp, hen, hretrain]

theorem State.hostOpen.writesRetrain (h : s.hostOpen) (port : BitVec 4) {v : W64} (hup : s.pstat port.toNat = 2)
    (hen : v.getLsbD 2 = true) (hre : v.getLsbD 3 = true) :
    ∃ t, exec (.fabPctlRetrain port v) s = .next t ∧ t.pstat port.toNat = 3 ∧ (t.port port.toNat).retrainWide = true ∧
      (t.port port.toNat).retrainAt = some s.elapsed ∧ s.counts t (fabp port.toNat 0) 32 16 := by
  obtain ⟨x, -, hx⟩ := h.writesFabPctl port.isLt v
  have hne : fabp port.toNat 0 ≠ fabp port.toNat 8 := by unfold fabp; omega
  generalize hu : s.putReg (fabp port.toNat 8) x = u at hx
  have hreg : u.reg (fabp port.toNat 0) = s.reg (fabp port.toNat 0) := by rw [← hu]; exact State.reg_putReg_ne _ _ hne
  have hup' : u.pstat port.toNat = 2 := by rw [State.pstat, State.rfld, hreg]; exact hup
  have htrain : u.tryTrain port.toNat = u := by
    rw [State.tryTrain, if_neg]
    rintro ⟨hdown, -⟩
    rw [hup'] at hdown; cases hdown
  obtain ⟨hst, hwide, hat, hcount⟩ := u.startRetrain_spec port.isLt hup'
  have helapsed : u.elapsed = s.elapsed := by rw [← hu]; exact State.putReg_elapsed ..
  refine ⟨u.startRetrain port.toNat true, ?_, hst, hwide, hat.trans (by rw [helapsed]), ?_⟩
  · rw [exec_fabPctlRetrain, execFabPctlRetrain, hx]
    simp only [hen, hre, htrain, Bool.not_true, Bool.and_false, Bool.false_eq_true, if_false, if_true, ite_self]
  · rw [State.counts, State.rfld, State.rfld, ← hreg]
    exact hcount

theorem State.hostOpen.writesDisable (h : s.hostOpen) (port : BitVec 4) {v : W64} (hen : s.rfld (fabp port.toNat 8) 2 1 = 1)
    (hoff : v.getLsbD 2 = false) :
    ∃ t, exec (.fabPctlDisable port v) s = .next t ∧ t.pstat port.toNat = 0 ∧ (t.port port.toNat).held = [] ∧
      t.rfld (fabp port.toNat 8) 2 1 = 0 := by
  obtain ⟨x, hbit, hx⟩ := h.writesFabPctl port.isLt v
  have hwas : (s.reg (fabp port.toNat 8)).getLsbD 2 = true := by
    rw [State.rfld, fld_one] at hen
    cases hb : (s.reg (fabp port.toNat 8)).getLsbD 2
    · rw [hb] at hen; cases hen
    · rfl
  obtain ⟨hst, hheld, hctl⟩ := (s.putReg (fabp port.toNat 8) x).portDisable_spec port.isLt
  refine ⟨(s.putReg (fabp port.toNat 8) x).portDisable port.toNat, ?_, hst, hheld, ?_⟩
  · have hidle : ((s.putReg (fabp port.toNat 8) x).portDisable port.toNat).startRetrain port.toNat true =
        (s.putReg (fabp port.toNat 8) x).portDisable port.toNat := by
      rw [State.startRetrain, if_pos (by rw [hst]; decide)]
    rw [exec_fabPctlDisable, execFabPctlDisable, hx]
    simp only [hwas, hoff, hidle, Bool.not_false, Bool.and_true, if_true, ite_self]
  · rw [State.rfld, hctl, State.reg_putReg, fld_one, hbit, hoff]; rfl

end Sys2Proof.Machine
end

section
/-!
PROOFS. The operating point of a half (R255): writes of `REQ` and `CAP` of `GLB_HALFOP`.
-/
namespace Sys2Proof.Machine

variable {s t : State} {h : Nat}

/-! ### The word in force -/

/-- Only `REQ` of the half's word may be staged. -/
def State.stagesReqOnly (s : State) (h : Nat) : Prop := s.stM (halfop h) &&& ~~~0xC = 0

theorem State.eff_eq (s : State) (o : Nat) : s.eff o = takeBits (s.reg o) (s.stM o) (s.stV o) := rfl

theorem State.stagesReqOnly.bit (hs : s.stagesReqOnly h) {i : Nat} (h2 : i ≠ 2) (h3 : i ≠ 3) :
    (s.stM (halfop h)).getLsbD i = false := by
  by_cases hi : i < 64
  · have hmask : ∀ i < 64, i ≠ 2 → i ≠ 3 → (~~~0xC : W64).getLsbD i = true := by decide
    have hbit := congrArg (fun v : W64 => v.getLsbD i) hs
    simp only [BitVec.getLsbD_and, hmask i hi h2 h3, Bool.and_true] at hbit
    exact hbit.trans BitVec.getLsbD_zero
  · exact BitVec.getLsbD_of_ge _ _ (by omega)

/-- The fields below and above `REQ` are in force as they are written. -/
theorem State.stagesReqOnly.efld (hs : s.stagesReqOnly h) {lo w : Nat} (hf : lo + w ≤ 2 ∨ 4 ≤ lo) :
    s.efld (halfop h) lo w = s.rfld (halfop h) lo w := by
  rw [State.efld, State.eff_eq, fld_takeBits_off _ _ (fun i hi => hs.bit (by omega) (by omega)), State.rfld]

/-! ### What a wake of a half's threads keeps -/

/-- What the choice of an operating point rests on, and the memory. -/
def State.halfView (s : State) : List Host.Cell × W64 × W64 × AMap W64 × AMap W64 × Half × Half :=
  (s.mem, s.reg (halfop 0), s.reg (halfop 1), s.stgV, s.stgM, s.west, s.east)

theorem halfView_setPenn (s : State) (c i : Nat) : (s.setPenn c i).halfView = s.halfView := by
  unfold State.setPenn; split <;> rfl

theorem halfView_traceLose (s : State) (n : Nat) : (s.traceLose n).halfView = s.halfView := by
  have hne (k : Nat) (hk : k < 2) : halfop k ≠ trc n 0x20 := by unfold halfop trc; omega
  have hreg (k : Nat) (hk : k < 2) : (s.traceLose n).reg (halfop k) = s.reg (halfop k) := State.reg_setReg_ne _ _ (hne k hk)
  rw [State.halfView, hreg 0 (by decide), hreg 1 (by decide)]; rfl

theorem halfView_traceCore (s : State) (c thr ty p : Nat) : (s.traceCore c thr ty p).halfView = s.halfView := by
  unfold State.traceCore
  split
  · rfl
  · simp only []
    split
    · split
      · rfl
      · exact halfView_traceLose ..
    · rfl

theorem halfView_barServe (s : State) (n b c : Nat) (r : BitVec 2) : (s.barServe n b c r).halfView = s.halfView := by
  unfold State.barServe
  simp only []
  split
  · split
    · exact halfView_traceCore ..
    · rfl
  · rfl

theorem halfView_barWake (s : State) (h : Nat) : (s.barWake h).halfView = s.halfView := by
  unfold State.barWake
  refine (foldl_keeps State.halfView _ _ (fun s c => ?_) _).trans (foldl_keeps State.halfView _ _ (fun s n => ?_) _)
  · split
    · refine foldl_keeps State.halfView _ _ (fun s r => ?_) _
      split
      · exact halfView_barServe ..
      · rfl
    · rfl
  · simp only []
    split
    · rfl
    · exact foldl_keeps State.halfView _ (fun s c => s.setPenn c 28) (fun s c => halfView_setPenn s c 28) s

theorem halfView_hsigServe (s : State) (n fuel : Nat) : (s.hsigServe n fuel).halfView = s.halfView := by
  induction fuel generalizing s with
  | zero => rfl
  | succ fuel ih =>
    unfold State.hsigServe
    split
    · rfl
    · split
      · refine (ih _).trans ?_
        unfold State.hsigAct
        simp only []
        split <;> rfl
      · rfl

theorem halfView_halfWakes (s : State) (h : Nat) : (s.halfWakes h).halfView = s.halfView :=
  (foldl_keeps State.halfView _ (fun s n => s.hsigServe n 64) (fun s n => halfView_hsigServe s n 64) _).trans (halfView_barWake s h)

theorem State.half_of_view (e : t.halfView = s.halfView) (h : Nat) : t.half h = s.half h := by
  simp only [State.halfView, Prod.mk.injEq] at e
  obtain ⟨-, -, -, -, -, hw, he⟩ := e
  simp only [State.half, hw, he]

theorem State.mem_of_view (e : t.halfView = s.halfView) : t.mem = s.mem := congrArg Prod.fst e

theorem State.reg_of_view (e : t.halfView = s.halfView) (hh : h < 2) : t.reg (halfop h) = s.reg (halfop h) := by
  simp only [State.halfView, Prod.mk.injEq] at e
  obtain ⟨-, h0, h1, -⟩ := e
  interval_cases h
  · exact h0
  · exact h1

theorem State.eff_of_view (e : t.halfView = s.halfView) (hh : h < 2) : t.eff (halfop h) = s.eff (halfop h) := by
  have hr := State.reg_of_view e hh
  simp only [State.halfView, Prod.mk.injEq] at e
  obtain ⟨-, -, -, hv, hm, -⟩ := e
  simp only [State.eff, hr, State.stV, State.stM, hv, hm]

/-! ### The request and the cap are taken -/

/-- The state once `REQ` and `CAP` are written. -/
def State.pointWritten (s : State) (h : Nat) (req cap : Bool) (v : W64) : State :=
  let u := if req then s.stages (halfop h) 0xC (v &&& 0xC) else s
  if cap then u.setRfld (halfop h) 4 2 (fld v 4 2) else u

theorem fld_reqBits (v : W64) : fld (v &&& 0xC) 2 2 = fld v 2 2 := by
  have h := fld_takeBits (k := 0xC) (lo := 2) (w := 2) 0 v (by decide)
  rwa [takeBits, show (0 : W64) &&& ~~~0xC = 0 from BitVec.zero_and,
    show (0 : W64) ||| (v &&& 0xC) = v &&& 0xC from BitVec.zero_or] at h

theorem State.reqOf_stages (s : State) (h : Nat) (v : W64) : (s.stages (halfop h) 0xC (v &&& 0xC)).reqOf h = fld v 2 2 := by
  rw [State.reqOf, State.efld, (State.eff_stages ..).1]
  exact (fld_takeBits _ _ (by decide)).trans (fld_reqBits v)

theorem State.stagesReqOnly.stages (hs : s.stagesReqOnly h) (v : W64) : (s.stages (halfop h) 0xC v).stagesReqOnly h := by
  have hm : (s.stages (halfop h) 0xC v).stM (halfop h) = s.stM (halfop h) ||| 0xC := AMap.get_put_same ..
  have hor : (s.stM (halfop h) ||| 0xC) &&& ~~~0xC = s.stM (halfop h) &&& ~~~0xC := by
    apply BitVec.eq_of_getLsbD_eq
    intro i hi
    simp only [BitVec.getLsbD_and, BitVec.getLsbD_or, BitVec.getLsbD_not, hi, decide_true, Bool.true_and]
    cases (0xC#64).getLsbD i <;> simp
  rw [State.stagesReqOnly, hm, hor]
  exact hs

theorem State.reqOf_setCap (s : State) (h x : Nat) : (s.setRfld (halfop h) 4 2 x).reqOf h = s.reqOf h := by
  have hm : (s.setRfld (halfop h) 4 2 x).eff (halfop h) =
    takeBits (setFld (s.reg (halfop h)) 4 2 x) (s.stM (halfop h)) (s.stV (halfop h)) := by
      rw [State.eff_eq, State.reg_setRfld]; rfl
  rw [State.reqOf, State.efld, hm, State.reqOf, State.efld, State.eff_eq]
  apply Nat.eq_of_testBit_eq
  intro i
  rw [testBit_fld, testBit_fld, getLsbD_takeBits, getLsbD_takeBits, getLsbD_setFld]
  by_cases hi : i < 2
  · have : ¬ (4 ≤ 2 + i ∧ 2 + i < 4 + 2 ∧ 2 + i < 64) := by omega
    simp only [this, if_false]
  · simp [hi]

theorem State.pointWritten_spec (hs : s.stagesReqOnly h) (req cap : Bool) (v : W64) :
    (s.pointWritten h req cap v).reqOf h = (if req then fld v 2 2 else s.reqOf h) ∧
      (s.pointWritten h req cap v).capOf h = (if cap then fld v 4 2 else s.capOf h) ∧
      (s.pointWritten h req cap v).stagesReqOnly h ∧ (s.pointWritten h req cap v).live h = s.live h := by
  have hreq : (if req then s.stages (halfop h) 0xC (v &&& 0xC) else s).reqOf h = (if req then fld v 2 2 else s.reqOf h) := by
    split
    · exact s.reqOf_stages h v
    · rfl
  have hregs (o : Nat) : (if req then s.stages (halfop h) 0xC (v &&& 0xC) else s).reg o = s.reg o := by split <;> rfl
  have honly : (if req then s.stages (halfop h) 0xC (v &&& 0xC) else s).stagesReqOnly h := by
    split
    · exact hs.stages _
    · exact hs
  unfold State.pointWritten
  generalize (if req then s.stages (halfop h) 0xC (v &&& 0xC) else s) = u at hreq hregs honly
  have hcap : u.capOf h = s.capOf h := by rw [State.capOf, State.rfld, hregs]; rfl
  have hlive : u.live h = s.live h := by rw [State.live, State.rfld, hregs]; rfl
  cases cap with
  | false => exact ⟨hreq, hcap, honly, hlive⟩
  | true =>
    refine ⟨(State.reqOf_setCap ..).trans hreq, ?_, honly, (State.rfld_setRfld_ne _ _ _ _ _ _ _ (by omega)).trans hlive⟩
    refine (State.rfld_setRfld _ _ _ _ _ (by omega)).trans ?_
    exact Nat.mod_eq_of_lt (fld_lt v 4 2)

theorem State.halfEmpty_congr (hmap : t.partmap = s.partmap) (hst : t.reg 0x10 = s.reg 0x10) (h : Nat) :
    t.halfEmpty h = s.halfEmpty h := by
  simp only [State.halfEmpty, State.holdsHalf, State.sects, State.pstate, State.rfld, hmap, hst]

theorem State.pointWritten_frame (s : State) (h : Nat) (req cap : Bool) (v : W64) :
    (s.pointWritten h req cap v).mem = s.mem ∧ (s.pointWritten h req cap v).cores = s.cores ∧
      (s.pointWritten h req cap v).boot = s.boot ∧ (s.pointWritten h req cap v).halfEmpty h = s.halfEmpty h := by
  have hne : (0x10 : Nat) ≠ halfop h := by unfold halfop; omega
  have hreg : (s.pointWritten h req cap v).reg 0x10 = s.reg 0x10 := by
    unfold State.pointWritten
    cases cap with
    | false => cases req <;> rfl
    | true =>
      refine (State.reg_setRfld_ne _ _ _ _ hne).trans ?_
      cases req <;> rfl
  refine ⟨?_, ?_, ?_, State.halfEmpty_congr ?_ hreg h⟩ <;> cases req <;> cases cap <;> rfl

/-! ### The point is applied -/

theorem State.setHalf_half (s : State) (h : Nat) : s.setHalf h (s.half h) = s := by
  unfold State.setHalf State.half; split <;> rfl

theorem State.half_setHalf (s : State) (h : Nat) (x : Half) : (s.setHalf h x).half h = x := by
  unfold State.setHalf State.half; split <;> rfl

theorem State.setHalf_frame (s : State) (h : Nat) (x : Half) : (s.setHalf h x).regs = s.regs ∧ (s.setHalf h x).stgV = s.stgV ∧
    (s.setHalf h x).stgM = s.stgM ∧ (s.setHalf h x).mem = s.mem ∧ (s.setHalf h x).cores = s.cores ∧
    (s.setHalf h x).boot = s.boot ∧ (s.setHalf h x).partmap = s.partmap := by
  unfold State.setHalf; split <;> exact ⟨rfl, rfl, rfl, rfl, rfl, rfl, rfl⟩

/-- A new target changes only what the rail of the half is asked for. -/
theorem State.retarget_eq (s : State) (h : Nat) : ∃ x, s.retarget h = s.setHalf h x ∧ (s.target h = 2 → x.vsel = true) := by
  unfold State.retarget State.setVsel
  simp only []
  split
  · split
    next hv => exact ⟨_, rfl, fun _ => hv⟩
    next => exact ⟨_, rfl, fun _ => rfl⟩
  next ht =>
    split
    · exact ⟨_, rfl, fun e => absurd e ht⟩
    · exact ⟨_, (s.setHalf_half h).symm, fun e => absurd e ht⟩

/-- What an application of the half's word comes to, in what the word says and in what it leaves. -/
structure State.AppliesPoint (s t : State) (h : Nat) : Prop where
  req : t.reqOf h = s.reqOf h
  cap : t.capOf h = s.capOf h
  mem : t.mem = s.mem
  cores : s.live h ≠ 0 → t.cores = s.cores
  live : s.target h ≠ 2 → t.live h = s.target h
  vsel : (t.half h).vsel = (s.half h).vsel

theorem State.AppliesPoint.congr {u : State} (ha : s.AppliesPoint t h) (hr : u.reg (halfop h) = t.reg (halfop h))
    (he : u.eff (halfop h) = t.eff (halfop h)) (hm : u.mem = t.mem) (hc : s.live h ≠ 0 → u.cores = t.cores)
    (hv : (u.half h).vsel = (t.half h).vsel) : s.AppliesPoint u h where
  req := by rw [← ha.req, State.reqOf, State.reqOf, State.efld, State.efld, he]
  cap := by rw [← ha.cap, State.capOf, State.capOf, State.rfld, State.rfld, hr]
  mem := hm.trans ha.mem
  cores hl := (hc hl).trans (ha.cores hl)
  live ht := by rw [← ha.live ht]; exact congrArg (fun v => fld v 0 2) hr
  vsel := hv.trans ha.vsel

theorem State.AppliesPoint.setHalf (ha : s.AppliesPoint t h) (x : Half) (hx : x.vsel = (t.half h).vsel) :
    s.AppliesPoint (t.setHalf h x) h := by
  obtain ⟨hregs, hv, hm, hmem, hcores, -, -⟩ := t.setHalf_frame h x
  refine ha.congr ?_ ?_ hmem (fun _ => hcores) ((congrArg Half.vsel (t.half_setHalf h x)).trans hx)
  · simp only [State.reg, hregs]
  · simp only [State.eff, State.reg, State.stV, State.stM, hregs, hv, hm]

theorem State.eff_of_unstaged {o : Nat} (hm : s.stM o = 0) : s.eff o = s.reg o := by rw [State.eff_eq, hm, takeBits_zero]

theorem State.reg_applyWord (s : State) (o : Nat) : (s.applyWord o).reg o = s.eff o := AMap.get_put_same ..

theorem State.stM_applyWord (s : State) (o : Nat) : (s.applyWord o).stM o = 0 := AMap.get_put_same ..

/-- The word in force is written, and the point where it is to be. -/
theorem State.stagesReqOnly.applies (hs : s.stagesReqOnly h)
    (hlive : s.target h ≠ 2 → s.live h = s.target h) : s.AppliesPoint (s.applyWord (halfop h)) h where
  req := by rw [State.reqOf, State.efld, State.eff_of_unstaged (s.stM_applyWord _), State.reg_applyWord]; rfl
  cap := by rw [State.capOf, State.rfld, State.reg_applyWord]; exact hs.efld (by omega)
  mem := rfl
  cores _ := rfl
  live ht := by
    rw [← hlive ht, State.live, State.rfld, show 0x90000 + 8 * h = halfop h from rfl, State.reg_applyWord]
    exact hs.efld (by omega)
  vsel := rfl

theorem State.target_lt (s : State) (h : Nat) : s.target h < 4 := by
  have := fld_lt (s.eff (halfop h)) 2 2
  unfold State.target State.reqOf State.efld
  split <;> omega

theorem State.stagesReqOnly.appliesTarget (hs : s.stagesReqOnly h) :
    s.AppliesPoint ((s.applyWord (halfop h)).setRfld (halfop h) 0 2 (s.target h)) h where
  req := by
    have hm : ((s.applyWord (halfop h)).setRfld (halfop h) 0 2 (s.target h)).stM (halfop h) = 0 := s.stM_applyWord _
    rw [State.reqOf, State.efld, State.eff_of_unstaged hm, State.reg_setRfld, State.reg_applyWord,
      fld_setFld_ne _ _ _ _ _ _ (by omega)]
    rfl
  cap := by
    rw [State.capOf, State.rfld_setRfld_ne _ _ _ _ _ _ _ (by omega), State.rfld, State.reg_applyWord]
    exact hs.efld (by omega)
  mem := rfl
  cores _ := rfl
  live _ := (State.rfld_setRfld _ _ _ _ _ (by omega)).trans (Nat.mod_eq_of_lt (s.target_lt h))
  vsel := rfl

theorem State.stagesReqOnly.applyPoint (hs : s.stagesReqOnly h) (hh : h < 2) : s.AppliesPoint (s.applyPoint h) h := by
  have hset := hs.appliesTarget
  unfold State.applyPoint
  simp only []
  split
  · split
    · split
      next hl =>
        have hview := halfView_halfWakes ((s.applyWord (halfop h)).setRfld (halfop h) 0 2 (s.target h)) h
        exact hset.congr (State.reg_of_view hview hh) (State.eff_of_view hview hh) (State.mem_of_view hview)
          (fun hne => absurd hl hne) (congrArg Half.vsel (State.half_of_view hview h))
      next => exact hset
    next hwait => exact hs.applies fun hne => absurd (Or.inl hne) hwait
  · split
    · split
      · exact hset.setHalf _ rfl
      · exact hset
    next hge hle => exact hs.applies fun _ => by omega

/-! ### `GLB_HALFOP` -/

theorem State.stagesReqOnly.settleHalf (hs : s.stagesReqOnly h) (hh : h < 2) :
    (s.settleHalf h).reqOf h = s.reqOf h ∧ (s.settleHalf h).capOf h = s.capOf h ∧ (s.settleHalf h).mem = s.mem ∧
      (s.halfEmpty h = false ∨ s.live h ≠ 0 → (s.settleHalf h).cores = s.cores) ∧
      (s.target h = 2 → ((s.settleHalf h).half h).vsel = true) ∧
      (s.target h ≠ 2 → s.halfEmpty h = true → (s.settleHalf h).live h = s.target h) := by
  obtain ⟨x, hx, hsel⟩ := s.retarget_eq h
  obtain ⟨hregs, hv, hm, hmem, hcores, hboot, hmap⟩ := s.setHalf_frame h x
  have hreg (o : Nat) : (s.setHalf h x).reg o = s.reg o := by simp only [State.reg, hregs]
  have heff : (s.setHalf h x).eff (halfop h) = s.eff (halfop h) := by
    simp only [State.eff, State.reg, State.stV, State.stM, hregs, hv, hm]
  have hreq : (s.setHalf h x).reqOf h = s.reqOf h := by rw [State.reqOf, State.efld, heff]; rfl
  have hcap : (s.setHalf h x).capOf h = s.capOf h := by rw [State.capOf, State.rfld, hreg]; rfl
  have hlive : (s.setHalf h x).live h = s.live h := by rw [State.live, State.rfld, hreg]; rfl
  have htarget : (s.setHalf h x).target h = s.target h := by rw [State.target, hboot, hreq, hcap]; rfl
  have hempty : (s.setHalf h x).halfEmpty h = s.halfEmpty h := State.halfEmpty_congr hmap (hreg _) h
  have hvsel : ((s.setHalf h x).half h).vsel = x.vsel := congrArg Half.vsel (s.half_setHalf h x)
  have honly : (s.setHalf h x).stagesReqOnly h := by rw [State.stagesReqOnly, State.stM, hm]; exact hs
  have ha := honly.applyPoint hh
  unfold State.settleHalf
  simp only [hx, hempty]
  cases hb : s.halfEmpty h with
  | false =>
    exact ⟨hreq, hcap, hmem, fun _ => hcores, fun ht => hvsel.trans (hsel ht), fun _ he => by cases he⟩
  | true =>
    refine ⟨ha.req.trans hreq, ha.cap.trans hcap, ha.mem.trans hmem, fun hl => ?_, fun ht => ?_, fun ht _ => ?_⟩
    · exact (ha.cores (by rw [hlive]; exact hl.resolve_left (by decide))).trans hcores
    · exact ha.vsel.trans (hvsel.trans (hsel ht))
    · exact (ha.live (by rwa [htarget])).trans htarget

/-- A write of `GLB_HALFOP`: what is refused stays; what is taken is settled. -/
theorem State.hostOpen.writesHalfop (h : s.hostOpen) {k : Nat} (hk : k < 2) (v : W64) :
    s.hostWrite 0 (halfop k) .all v =
      let req := !s.reqRefused k (fld v 2 2)
      let cap := fld v 4 2 != 3
      if req || cap then (s.pointWritten k req cap v).settleHalf k else s := by
  have hword : ∀ k < 2, halfop k % 8 = 0 ∧ halfop k ≠ 0x60010 ∧ inArr (halfop k) 0x90000 8 2 = true ∧
    (halfop k - 0x90000) / 8 = k := by decide
  obtain ⟨hal, hset, harr, hidx⟩ := hword k hk
  have h2 : (0xFFFFFFFFFFFFFFFF : W64).getLsbD 2 = true := by decide
  have h4 : (0xFFFFFFFFFFFFFFFF : W64).getLsbD 4 = true := by decide
  have hreq : (0xC : W64) ≠ 0 := by decide
  rw [h.writes (by unfold halfop; omega)]
  simp only [State.regWrite, State.pointWritten, State.stages, hal, hset, harr, hidx, h2, h4, hreq, ne_eq, not_true_eq_false,
    if_false, if_true, Bool.true_and]
  cases !s.reqRefused k (fld v 2 2) <;> cases fld v 4 2 != 3 <;> rfl

theorem State.hostOpen.setsPoint (h : s.hostOpen) {k : Nat} (hk : k < 2) (hs : s.stagesReqOnly k) (v : W64) :
    let r := fld v 2 2
    let c := fld v 4 2
    let t := s.hostWrite 0 (halfop k) .all v
    (s.reqRefused k r = true → t.reqOf k = s.reqOf k) ∧ (¬ s.reqRefused k r = true → t.reqOf k = r) ∧
      t.capOf k = (if c = 3 then s.capOf k else c) ∧ t.mem = s.mem ∧
      (s.halfEmpty k = false ∨ s.live k ≠ 0 → t.cores = s.cores) ∧
      (c ≠ 3 →
        let low := min (t.reqOf k) (t.capOf k)
        (low = 2 → (t.half k).vsel = true) ∧ (low ≠ 2 → s.halfEmpty k = true → t.live k = low)) := by
  simp only [h.writesHalfop hk]
  obtain ⟨hreq, hcap, honly, hlive⟩ := State.pointWritten_spec hs (!s.reqRefused k (fld v 2 2)) (fld v 4 2 != 3) v
  obtain ⟨hmem, hcores, hboot, hempty⟩ := s.pointWritten_frame k (!s.reqRefused k (fld v 2 2)) (fld v 4 2 != 3) v
  obtain ⟨hreq', hcap', hmem', hcores', hsel', hlive'⟩ := honly.settleHalf hk
  have htarget : (s.pointWritten k (!s.reqRefused k (fld v 2 2)) (fld v 4 2 != 3) v).target k =
      min ((s.pointWritten k (!s.reqRefused k (fld v 2 2)) (fld v 4 2 != 3) v).reqOf k)
        ((s.pointWritten k (!s.reqRefused k (fld v 2 2)) (fld v 4 2 != 3) v).capOf k) := by
    rw [State.target, hboot, if_pos h.held]
  rw [htarget, ← hreq', ← hcap'] at hsel' hlive'
  rw [hempty, hlive, hcores] at hcores'
  rw [hempty] at hlive'
  by_cases hany : (!s.reqRefused k (fld v 2 2) || fld v 4 2 != 3) = true
  · rw [if_pos hany]
    refine ⟨fun hr => ?_, fun hr => ?_, ?_, hmem'.trans hmem, hcores', fun _ => ⟨hsel', hlive'⟩⟩
    · rw [hreq', hreq, hr]; rfl
    · rw [hreq', hreq, if_pos (by simpa using hr)]
    · rw [hcap', hcap]
      by_cases hc : fld v 4 2 = 3 <;> simp [hc]
  · rw [if_neg hany]
    simp only [Bool.or_eq_true, Bool.not_eq_true', bne_iff_ne, ne_eq, not_or, Bool.not_eq_false, not_not] at hany
    obtain ⟨hr, hc⟩ := hany
    exact ⟨fun _ => rfl, fun hn => absurd hr hn, by rw [if_pos hc], rfl, fun _ => rfl, fun hn => absurd hc hn⟩

end Sys2Proof.Machine
end

section
/-!
PROOFS. O46: what a write of a register does, clause by clause.
-/
namespace Sys2Proof.Machine

variable {s : State}

/-- The instruction sets word `o` to `v`, and changes nothing else in registers, memory and cores. -/
def State.setsBy (s : State) (i : Instr) (o : Nat) (v : W64) : Prop := ∃ t, exec i s = .next t ∧ s.setsWord t o v

theorem State.setsBy_putReg {i : Instr} {o : Nat} {v : W64} (h : exec i s = .next (s.putReg o v)) : s.setsBy i o v :=
  ⟨_, h, State.setsWord_putReg ..⟩

/-! ### The instructions that only write a word -/

section
variable (s : State) (v : W64)

theorem exec_errSuspClear_next (k : BitVec 4) :
    exec (.errSuspClear k v) s = .next (s.hostWrite 0 (0x80800 + 8 * k.toNat) .all v) := exec_errSuspClear ..
theorem exec_postRingDisable_next (r : BitVec 6) :
    exec (.postRingDisable r v) s = .next (s.hostWrite 0 (prng r.toNat 0) .all v) := exec_postRingDisable ..
theorem exec_registerWrite_next (fn : BitVec 4) (o : W32) (half : RegHalf) :
    exec (.registerWrite fn o half v) s = .next (s.hostWrite fn.toNat o.toNat half v) := exec_registerWrite ..
theorem exec_halfopReqWrite_next (k : Bool) :
    exec (.halfopReqWrite k v) s = .next (s.hostWrite 0 (halfop k.toNat) .all v) := exec_halfopReqWrite ..
theorem exec_halfopCapWrite_next (k : Bool) :
    exec (.halfopCapWrite k v) s = .next (s.hostWrite 0 (halfop k.toNat) .all v) := exec_halfopCapWrite ..
theorem exec_ringEnable_next (ring : BitVec 9) (cq : Bool) :
    exec (.ringEnable ring cq v) s = .next (s.hostWrite 0 (ringCfgOff ring cq) .all v) := exec_ringEnable ..
theorem exec_ringDisable_next (ring : BitVec 9) (cq : Bool) :
    exec (.ringDisable ring cq v) s = .next (s.hostWrite 0 (ringCfgOff ring cq) .all v) := exec_ringDisable ..

end

/-! ### Single registers -/

theorem State.hostOpen.winbaseTaken (h : s.hostOpen) {v : W64} (hv : fld v 0 43 % 2 ^ s.link.barLog = 0) :
    ∃ t, exec (.hstWinbaseWrite v) s = .next t ∧ t.rfld 0x10010 0 43 = fld v 0 43 ∧ ∀ p, p ≠ 0x10010 → t.reg p = s.reg p := by
  refine ⟨_, h.writesWinbase v, ?_, fun p hp => State.reg_putReg_ne _ _ hp⟩
  rw [State.rfld, State.reg_putReg, if_pos hv, fld_takeBits _ _ (by decide)]

theorem State.hostOpen.winbaseIgnored (h : s.hostOpen) {v : W64} (hv : fld v 0 43 % 2 ^ s.link.barLog ≠ 0) :
    exec (.hstWinbaseWrite v) s = .next s := by
  rw [h.writesWinbase, if_neg hv, State.putReg_self]

theorem State.hostOpen.suspCleared (h : s.hostOpen) (k : BitVec 4) (v : W64) :
    s.setsBy (.errSuspClear k v) (0x80800 + 8 * k.toNat) (s.reg (0x80800 + 8 * k.toNat) &&& ~~~v) :=
  ⟨_, exec_errSuspClear_next .., h.clearsSusp k v⟩

theorem not_outside {lo hi v : W64} (h1 : lo ≤ v) (h2 : v ≤ hi) : ¬ (v < lo ∨ hi < v) := by
  rw [not_or, BitVec.not_lt, BitVec.not_lt]; exact ⟨h1, h2⟩

theorem State.hostOpen.logconsTaken (h : s.hostOpen) {v : W64} (h1 : s.reg 0x80020 ≤ v) (h2 : v ≤ s.reg 0x80018) :
    s.setsBy (.errLogconsWrite v) 0x80020 v := by
  have hx := h.writesLogcons v
  rw [if_neg (not_outside h1 h2)] at hx
  exact State.setsBy_putReg hx

theorem State.hostOpen.logconsIgnored (h : s.hostOpen) {v : W64} (hv : v < s.reg 0x80020 ∨ s.reg 0x80018 < v) :
    exec (.errLogconsWrite v) s = .next s := by
  rw [h.writesLogcons, if_pos hv, State.putReg_self]

theorem State.hostOpen.quarantines (h : s.hostOpen) {v : W64} (hv : v.getLsbD 10 = true)
    (hc : s.present (fld v 0 10) = true) : exec (.errQforce v) s = .next (s.quarantine (fld v 0 10) 0xFD) := by
  rw [h.writesQforce, if_pos ⟨hv, hc⟩]

theorem State.hostOpen.quarantinesNone (h : s.hostOpen) {v : W64}
    (hv : v.getLsbD 10 = false ∨ s.present (fld v 0 10) = false) : exec (.errQforce v) s = .next s := by
  rw [h.writesQforce, if_neg]
  rintro ⟨h1, h2⟩
  rcases hv with hv | hv
  · rw [h1] at hv; cases hv
  · rw [h2] at hv; cases hv

/-! ### Registers of a partition -/

theorem State.hostOpen.dlconsTaken (h : s.hostOpen) (part : BitVec 3) (v : W64) :
    ∃ t, exec (.prtDlconsWrite part v) s = .next t ∧ t.rfld (prt part.toNat 0x118) 0 32 = fld v 0 32 ∧
      ∀ p, p ≠ prt part.toNat 0x118 → t.reg p = s.reg p := by
  refine ⟨_, h.writesDlcons part v, ?_, fun p hp => State.reg_putReg_ne _ _ hp⟩
  rw [State.rfld, State.reg_putReg, fld_takeBits _ _ (by decide)]

/-- The end of a translation flush: `BUSY` falls, and the partition's cores have their translation caches empty. -/
theorem State.flushCompletes (part : BitVec 3) (hbusy : s.rfld (prt part.toNat 0x90) 1 1 = 1) :
    ∃ t, exec (.ttflushComplete part) s = .next t ∧ t.rfld (prt part.toNat 0x90) 1 1 = 0 ∧
      (∀ c, c ∈ s.partCores part.toNat → t.core c = { s.core c with mem := { (s.core c).mem with tlb := [] } }) ∧
      (∀ c, c ∉ s.partCores part.toNat → t.core c = s.core c) ∧ t.mem = s.mem := by
  have hx := execTtflushComplete_eq part s
  rw [if_pos hbusy] at hx
  generalize s.partCores part.toNat = cs at hx ⊢
  have hcore := s.core_flushed cs
  refine ⟨_, hx, State.rfld_setRfld _ _ _ _ _ (by omega), fun c hc => ?_, fun c hc => ?_, ?_⟩
  · exact (hcore c).trans (if_pos hc)
  · exact (hcore c).trans (if_neg hc)
  · exact (s.flushed_outer cs).1

theorem State.hostOpen.trcConsTaken (h : s.hostOpen) (part : BitVec 3) {v : W64} (h1 : s.reg (trc part.toNat 0x18) ≤ v)
    (h2 : v ≤ s.reg (trc part.toNat 0x10)) : s.setsBy (.trcConsWrite part v) (trc part.toNat 0x18) v := by
  have hx := h.writesTrcCons part v
  rw [if_neg (not_outside h1 h2)] at hx
  exact State.setsBy_putReg hx

theorem State.hostOpen.trcConsIgnored (h : s.hostOpen) (part : BitVec 3) {v : W64}
    (hv : v < s.reg (trc part.toNat 0x18) ∨ s.reg (trc part.toNat 0x10) < v) : exec (.trcConsWrite part v) s = .next s := by
  rw [h.writesTrcCons, if_pos hv, State.putReg_self]

theorem trc_ne {n r q : Nat} (h : r ≠ q) : trc n r ≠ trc n q := by unfold trc; omega

/-- A trace ring takes its fields, its size while it is off; its counts start at zero where it is enabled. -/
theorem State.hostOpen.trcCfgTaken (h : s.hostOpen) (part : BitVec 3) (v : W64) :
    let n := part.toNat
    ∃ t, exec (.trcCfgWrite part v) s = .next t ∧ t.rfld (trc n 8) 5 1 = fld v 5 1 ∧ t.rfld (trc n 8) 32 32 = fld v 32 32 ∧
      t.rfld (trc n 8) 0 5 = (if s.rfld (trc n 8) 5 1 = 0 ∧ 10 ≤ fld v 0 5 ∧ fld v 0 5 ≤ 24 then fld v 0 5
        else s.rfld (trc n 8) 0 5) ∧
      (s.rfld (trc n 8) 5 1 = 0 → fld v 5 1 = 1 → t.reg (trc n 0x10) = 0 ∧ t.reg (trc n 0x18) = 0) ∧
      (s.rfld (trc n 8) 5 1 = 1 → t.reg (trc n 0x10) = s.reg (trc n 0x10) ∧ t.reg (trc n 0x18) = s.reg (trc n 0x18)) := by
  intro n
  have hx := h.writesTrcCfg part v
  have hfields {t : State} (ht : t.reg (trc n 8) = s.trcCfgNew n v) (lo w : Nat) :
      t.rfld (trc n 8) lo w = fld (s.trcCfgNew n v) lo w := by rw [State.rfld, ht]
  by_cases hrose : s.rfld (trc n 8) 5 1 = 0 ∧ fld v 5 1 = 1
  · rw [if_pos hrose] at hx
    have ht := hfields ((State.reg_setReg_ne _ (0 : W64) (trc_ne (show 8 ≠ 0x18 by decide))).trans
      ((State.reg_setReg_ne _ (0 : W64) (trc_ne (show 8 ≠ 0x10 by decide))).trans (State.reg_putReg s ..)))
    refine ⟨_, hx, (ht ..).trans (s.fld_trcCfgNew_en n v), (ht ..).trans (s.fld_trcCfgNew_types n v),
      (ht ..).trans (s.fld_trcCfgNew_log n v), fun _ _ => ⟨?_, State.reg_setReg ..⟩, fun hon => ?_⟩
    · exact (State.reg_setReg_ne _ _ (trc_ne (by decide))).trans (State.reg_setReg ..)
    · omega
  · rw [if_neg hrose] at hx
    have ht := hfields (State.reg_putReg s ..)
    refine ⟨_, hx, (ht ..).trans (s.fld_trcCfgNew_en n v), (ht ..).trans (s.fld_trcCfgNew_types n v),
      (ht ..).trans (s.fld_trcCfgNew_log n v), fun hoff hon => absurd ⟨hoff, hon⟩ hrose, fun _ => ?_⟩
    exact ⟨State.reg_putReg_ne _ _ (trc_ne (by decide)), State.reg_putReg_ne _ _ (trc_ne (by decide))⟩

/-! ### Post rings and the time -/

theorem State.hostOpen.postRingStops (h : s.hostOpen) (r : BitVec 6) {v : W64} (hon : s.rfld (prng r.toNat 0) 56 1 = 1)
    (hoff : v.getLsbD 56 = false) :
    ∃ t, exec (.postRingDisable r v) s = .next t ∧ t.rfld (prng r.toNat 0) 56 1 = 0 ∧
      t.rfld (prng r.toNat 0) 0 56 = s.rfld (prng r.toNat 0) 0 56 ∧ ∀ p, p ≠ prng r.toNat 0 → t.reg p = s.reg p := by
  have hword : ∀ r < 64, regInfo (prng r 0) = ⟨0x7000000000000, 0x1FF07FFFFFFFFFF, 0, 0, 0⟩ ∧ codedWord (prng r 0) = true ∧
    noEffect (prng r 0) = true ∧ prng r 0 < 0x1000000 := by decide
  obtain ⟨hi, hc, he, hlt⟩ := hword _ r.isLt
  have hen : (s.reg (prng r.toNat 0)).getLsbD 56 = true := by
    rw [State.rfld, fld_one] at hon
    exact Bool.toNat_eq_one.1 hon
  obtain ⟨hrest, hbit⟩ := fld_takes_postRing r.isLt hen v
  refine ⟨s.putReg (prng r.toNat 0) (s.takes (prng r.toNat 0) 0x1FF07FFFFFFFFFF v), ?_, ?_, ?_,
    fun p hp => State.reg_putReg_ne _ _ hp⟩
  · rw [exec_postRingDisable_next, h.writesQuiet hlt hc he hi]
  · rw [State.rfld, State.reg_putReg, hbit, fld_one, hoff]; rfl
  · rw [State.rfld, State.reg_putReg, hrest]

theorem State.hostOpen.timeTaken (h : s.hostOpen) (hparent : s.rfld 0x50020 0 4 = 15) (v : W64) (hst : s.dstate ≠ 6) :
    exec (.timSet v) s = .next (s.setTime v) := by
  rw [h.setsTime hparent, if_pos hst]

theorem State.hostOpen.timeIgnored (h : s.hostOpen) (hparent : s.rfld 0x50020 0 4 = 15) (v : W64) (hst : s.dstate = 6) :
    exec (.timSet v) s = .next s := by
  rw [h.setsTime hparent, if_neg (fun hn => hn hst)]

/-! ### `GLB_HROW` -/

theorem State.hostOpen.hrowTaken (h : s.hostOpen) (n : BitVec 6) {v : W32} (hf : fld v 7 5 ≤ 16 ∨ fld v 7 5 = 31) :
    let o := 0x200 + 8 * (n.toNat / 2)
    let lo := 32 * (n.toNat % 2) + 7
    ∃ t, exec (.refusePosWrite n v) s = .next t ∧ t.rfld o lo 5 = fld v 7 5 ∧
      t.rfld o (39 - lo + 7) 5 = s.rfld o (39 - lo + 7) 5 ∧ (∀ p, p ≠ o → t.reg p = s.reg p) ∧
      (s.rfld o lo 5 ≠ fld v 7 5 → ∀ d, AMap.get d t.boot.posReq n.toNat = fld v 7 5) := by
  intro o lo
  have hother : 39 - lo + 7 = 46 - hrowLo n := by
    have : lo = hrowLo n := rfl
    have : n.toNat % 2 < 2 := Nat.mod_lt _ (by decide)
    omega
  have hnew : s.hrowNew n v = s.hrowAsked n v := if_neg (by omega)
  obtain ⟨hmine, hrest⟩ := s.fld_hrowAsked n v
  have hx := h.writesHrow n v
  rw [hnew] at hx
  have hreg (p : Nat) : ((s.putReg o (s.hrowAsked n v)).asksFor (n.toNat / 2) (s.reg o) (s.hrowAsked n v)).reg p =
      (s.putReg o (s.hrowAsked n v)).reg p := by rw [State.reg, State.asksFor_regs]; rfl
  refine ⟨_, hx, ?_, ?_, fun p hp => (hreg p).trans (State.reg_putReg_ne _ _ hp), fun hne d => ?_⟩
  · rw [State.rfld, hreg, State.reg_putReg]; exact hmine
  · rw [State.rfld, hreg, State.reg_putReg, hother]; exact hrest
  · exact (State.posReq_asksFor _ n (fun e => hne (e.trans hmine)) hrest.symm d).trans hmine

theorem State.hostOpen.hrowIgnored (h : s.hostOpen) (n : BitVec 6) {v : W32} (h1 : 16 < fld v 7 5) (h2 : fld v 7 5 ≠ 31) :
    exec (.refusePosWrite n v) s = .next s := by
  have hnew : s.hrowNew n v = s.reg (0x200 + 8 * (n.toNat / 2)) := if_pos ⟨by omega, h2⟩
  rw [h.writesHrow, hnew, State.asksFor_self, State.putReg_self]

/-! ### Words by their access codes -/

theorem State.hostOpen.plainTaken (h : s.hostOpen) (half : RegHalf) (v : W64) {o : W32} {w : W64}
    (ho : (o, w) ∈ [((0x10028 : W32), (0x3FF : W64)), (0x80010, 0x1FFF), (0x90018, 0xFFFF)]) :
    s.setsBy (.registerWrite 0 o half v) o.toNat
      ((s.reg o.toNat &&& ~~~(coverMask half &&& w)) ||| (v &&& coverMask half &&& w)) := by
  have hword : regInfo o.toNat = ⟨(regInfo o.toNat).reset, w, 0, 0, 0⟩ ∧ codedWord o.toNat = true ∧ noRule o.toNat = true ∧
      noEffect o.toNat = true ∧ o.toNat < 0x1000000 := by
    simp only [List.mem_cons, List.not_mem_nil, or_false, Prod.mk.injEq] at ho
    rcases ho with ⟨rfl, rfl⟩ | ⟨rfl, rfl⟩ | ⟨rfl, rfl⟩ <;> decide
  obtain ⟨hi, hc, hr, he, hlt⟩ := hword
  rw [← takeBits_masked]
  refine State.setsBy_putReg ?_
  rw [exec_registerWrite_next, show (0 : BitVec 4).toNat = 0 from rfl, h.writesPlain hlt hc hr he hi]

theorem State.hostOpen.entryTaken (h : s.hostOpen) (half : RegHalf) (v : W64) :
    ∃ t, exec (.registerWrite 0 0x50010 half v) s = .next t ∧ (∀ p, p ≠ 0x50010 → t.reg p = s.reg p) ∧ ∀ p, p < 16 →
      (t.reg 0x50010).getLsbD p = (if s.pstat p ∈ [2, 3, 5] then (s.reg 0x50010).getLsbD p
        else ((s.reg 0x50010 &&& ~~~coverMask half) ||| (v &&& coverMask half)).getLsbD p) := by
  have hx := exec_registerWrite_next s v 0 0x50010 half
  rw [show (0 : BitVec 4).toNat = 0 from rfl, show (0x50010 : W32).toNat = 0x50010 from rfl, h.writesFabEntry] at hx
  refine ⟨_, hx, fun p hp => State.reg_putReg_ne _ _ hp, fun p hp => ?_⟩
  have hmask : ∀ p < 16, (0xFFFF : W64).getLsbD p = true := by decide
  rw [State.reg_putReg, State.getLsbD_entryKeep]
  simp only [List.mem_range, hp, true_and]
  split
  · rfl
  · rw [← takeBits, getLsbD_takeBits, getLsbD_takeBits, BitVec.getLsbD_and, hmask p hp, Bool.and_true]

theorem execVfRingWrite (fn : BitVec 4) {j : Nat} (hj : j < 64) (half : RegHalf) (v : W64) (s : State) :
    exec (.registerWrite fn (BitVec.ofNat 32 (0x1000 + 0x40 * j)) half v) s =
      .next (s.hostWrite fn.toNat (0x1000 + 0x40 * j) half v) := by
  have ho : (BitVec.ofNat 32 (0x1000 + 0x40 * j)).toNat = 0x1000 + 0x40 * j := by
    rw [BitVec.toNat_ofNat]; exact Nat.mod_eq_of_lt (by omega)
  rw [exec_registerWrite_next, ho]

theorem State.hostOpen.exportStaged (h : s.hostOpen) (half : RegHalf) (v : W64) {k : Nat} (hk : k < 128) :
    let o := 0x54000 + 16 * k
    ∃ t, exec (.registerWrite 0 (BitVec.ofNat 32 o) half v) s = .next t ∧ t.regs = s.regs ∧
      t.eff o = (s.eff o &&& ~~~(coverMask half &&& 0x7FFFFFFF00F)) ||| (v &&& coverMask half &&& 0x7FFFFFFF00F) ∧
      ∀ p, p ≠ o → t.eff p = s.eff p := by
  intro o
  have ho : (BitVec.ofNat 32 o).toNat = o := by rw [BitVec.toNat_ofNat]; exact Nat.mod_eq_of_lt (by omega)
  obtain ⟨hmine, hrest, hregs⟩ := s.eff_stages o (coverMask half &&& 0x7FFFFFFF00F) v
  refine ⟨s.stages o (coverMask half &&& 0x7FFFFFFF00F) v, ?_, hregs, ?_, hrest⟩
  · rw [exec_registerWrite_next, show (0 : BitVec 4).toNat = 0 from rfl, ho, h.stagesExport hk]
  · rw [hmine, BitVec.and_assoc]

/-! ### Rings -/

theorem State.sqEnabled {g : Nat} (hg : g < 512) (hopen : s.barOpen (rg g 0) = true) (hd : s.link.d3hot.getLsbD 0 = false)
    (hok : s.fnOf (g / 64) ≠ 0 ∨ g % 64 < 32) {v : W64} (hlo : 6 ≤ fld v 0 5) (hhi : fld v 0 5 ≤ 16)
    (hen : v.getLsbD 6 = true) (hoff : s.sqEn g = false) :
    let t := s.hostWrite 0 (rg g 8) .all v
    t.sqEn g = true ∧ t.sqSize g = 2 ^ fld v 0 5 ∧ t.sqTail g = 0 ∧ t.sqHead g = 0 ∧ t.rfld (rg g 8) 7 1 = 0 := by
  have hreg := s.reg_putReg (rg g 8) (takeBits (s.reg (rg g 8)) 0x5F v)
  simp only [State.startsSq hg hopen hd (enRefused_eq_false hok) hlo hhi hen hoff]
  obtain ⟨h1, h2, h3⟩ := (s.putReg (rg g 8) (takeBits (s.reg (rg g 8)) 0x5F v)).sqStart_spec g
  refine ⟨?_, ?_, h3⟩
  · rw [h1, State.sqEn_iff, hreg, getLsbD_takeBits, if_pos (by decide), hen]
  · rw [h2, State.sqSize, State.rfld, hreg, fld_takeBits _ _ (by decide)]

/-- A ring that is stopped keeps its size and its counts. -/
theorem State.sqDisabled {g : Nat} (hg : g < 512) (hopen : s.barOpen (rg g 0) = true) (hd : s.link.d3hot.getLsbD 0 = false)
    {v : W64} (hen : v.getLsbD 6 = false) (hon : s.sqEn g = true) :
    let t := s.hostWrite 0 (rg g 8) .all v
    t.sqEn g = false ∧ t.sqSize g = s.sqSize g ∧ t.sqTail g = s.sqTail g ∧ t.sqHead g = s.sqHead g := by
  obtain ⟨new, hw, hbit, hsize⟩ := State.stopsRing hg (.inl rfl) hopen hd hen (s.sqEn_iff g ▸ hon)
  have hcnt : (s.putReg (rg g 8) new).reg (rg g 0x10) = s.reg (rg g 0x10) := State.reg_putReg_ne _ _ (rg_ne (by decide))
  simp only [hw, State.sqEn_iff, State.sqSize, State.sqTail, State.sqHead, State.rfld, State.reg_putReg, hcnt] at hsize ⊢
  exact ⟨hbit, congrArg (2 ^ ·) hsize, trivial, trivial⟩

theorem State.cqDisabled {g : Nat} (hg : g < 512) (hopen : s.barOpen (rg g 0) = true) (hd : s.link.d3hot.getLsbD 0 = false)
    {v : W64} (hen : v.getLsbD 6 = false) (hon : s.cqEn g = true) :
    let t := s.hostWrite 0 (rg g 0x20) .all v
    t.cqEn g = false ∧ t.cqSize g = s.cqSize g ∧ t.cqProd g = s.cqProd g ∧ t.cqCons g = s.cqCons g := by
  obtain ⟨new, hw, hbit, hsize⟩ := State.stopsRing hg (.inr rfl) hopen hd hen (s.cqEn_iff g ▸ hon)
  have hcnt : (s.putReg (rg g 0x20) new).reg (rg g 0x28) = s.reg (rg g 0x28) := State.reg_putReg_ne _ _ (rg_ne (by decide))
  simp only [hw, State.cqEn_iff, State.cqSize, State.cqProd, State.cqCons, State.rfld, State.reg_putReg, hcnt] at hsize ⊢
  exact ⟨hbit, congrArg (2 ^ ·) hsize, trivial, trivial⟩

/-! ### O46 -/

/-- Settles O46: each kind of write is one of the lemmas above. -/
theorem registerWrites : Obligations.RegisterWrites := by
  unfold Obligations.RegisterWrites
  refine ⟨fun s => ⟨fun h => ⟨fun v => ?_, fun n v => ?_, fun half v => ?_⟩, fun part => ?_, fun fn o half v hp => ?_⟩,
    fun s ring => ⟨fun v log hlog hopen hd hok hlo hhi hen => ?_, fun v hopen hd hen => ?_⟩⟩
  · refine ⟨h.winbaseTaken, h.winbaseIgnored, fun k => h.suspCleared k v, h.logconsTaken, h.logconsIgnored, h.quarantines,
      h.quarantinesNone, fun part => ?_, fun r hon hoff => h.postRingStops r hon hoff, fun port => ?_, fun k hs i hi => ?_,
      fun hparent => ?_⟩
    · exact ⟨h.writesTtflush part v, h.dlconsTaken part v, h.trcConsTaken part, h.trcConsIgnored part, h.trcCfgTaken part v⟩
    · exact ⟨h.writesRetrain port, h.writesDisable port⟩
    · have hk : k.toNat < 2 := k.toNat_lt
      have hx : exec i s = .next (s.hostWrite 0 (halfop k.toNat) .all v) := by
        rcases List.mem_pair.1 hi with rfl | rfl
        · exact exec_halfopReqWrite_next ..
        · exact exec_halfopCapWrite_next ..
      exact ⟨_, hx, h.setsPoint hk hs v⟩
    · exact ⟨fun hst => ⟨_, h.timeTaken hparent v hst, s.setTime_spec v⟩, h.timeIgnored hparent v⟩
  · exact ⟨h.hrowTaken n, h.hrowIgnored n⟩
  · refine ⟨fun o w ho => ?_, ?_, fun fn j hon hfn hd hj => ?_, fun k hk => ?_, fun o ho => ?_⟩
    · exact h.plainTaken half v ho
    · exact h.entryTaken half v
    · have hx := execVfRingWrite fn hj half v s
      rw [State.writesVfBase h hon hfn hd hj] at hx
      refine ⟨fun hen => hx.trans (by rw [hen]; rfl), fun hen => ?_⟩
      rw [hen] at hx
      have hset := State.setsBy_putReg hx
      rw [takeBits_masked] at hset
      exact hset
    · exact h.exportStaged half v hk
    · rw [exec_registerWrite_next, show (0 : BitVec 4).toNat = 0 from rfl, s.hostWrite_unaligned ho]
  · refine ⟨fun hbusy => ?_, fun hidle => ?_⟩
    · exact State.flushCompletes part hbusy
    · rw [execTtflushComplete_eq, if_neg (by omega)]
  · rw [exec_registerWrite_next, s.hostWrite_reset hp]
  · subst hlog
    refine ⟨fun hoff => ⟨_, exec_ringEnable_next s v ring false,
      State.sqEnabled ring.isLt hopen hd hok hlo hhi hen hoff⟩, fun hoff => ?_⟩
    have hx := exec_ringEnable_next s v ring true
    rw [show ringCfgOff ring true = rg ring.toNat 0x20 from rfl,
      State.startsCq ring.isLt hopen hd (enRefused_eq_false hok) hlo hhi hen hoff] at hx
    exact ⟨_, hx, s.startsCq_spec ring.toNat v hen⟩
  · exact ⟨fun hon => ⟨_, exec_ringDisable_next s v ring false, State.sqDisabled ring.isLt hopen hd hen hon⟩,
      fun hon => ⟨_, exec_ringDisable_next s v ring true, State.cqDisabled ring.isLt hopen hd hen hon⟩⟩

end Sys2Proof.Machine
end

section
/-!
PROOFS. What a write at a home, a trace record, a berth and an item of the Sluice leave alone, and what reading them gives
after they have been written (R38, R45, R280, R395).
-/
namespace Sys2Proof.Machine

variable {s t : State}

/-! ### Partitions -/

@[simp] theorem State.part_modPart (s : State) (n : Nat) (f : Part → Part) : (s.modPart n f).part n = f (s.part n) :=
  State.part_setPart ..

/-- What a change of a partition keeps of it, it keeps of every partition. -/
theorem State.part_modPart_keeps {β : Type} (obs : Part → β) (s : State) (n : Nat) {f : Part → Part}
    (hf : ∀ x, obs (f x) = obs x) (m : Nat) : obs ((s.modPart n f).part m) = obs (s.part m) := by
  by_cases h : m = n
  · subst h; rw [State.part_modPart, hf]
  · exact congrArg obs (State.part_setPart_ne _ _ h)

/-- A trace record changes nothing of a partition but the records that wait. -/
theorem State.part_traceUnit_keeps {β : Type} (obs : Part → β) (hobs : ∀ (x : Part) l, obs { x with trcPend := l } = obs x)
    (s : State) (u : Nat) (rings : List Nat) (ty payload m : Nat) :
    obs ((s.traceUnit u rings ty payload).part m) = obs (s.part m) := by
  unfold State.traceUnit State.traceUnitAt
  simp only []
  split
  · rfl
  · exact foldl_keeps (fun t => obs (t.part m)) _ (fun (t : State) n => t.traceTo n _)
      (fun t n => t.part_modPart_keeps obs n (fun x => hobs x _) m) _

/-! ### Writes of the device -/

/-- The state without what a write at a home changes. -/
def State.offHome (s : State) : State := { s with mem := [], poison := [], cores := [] }

theorem State.compl_offHome (s : State) : s.offHome.compl = s.compl := rfl
theorem State.sluice_offHome (s : State) : s.offHome.sluice = s.sluice := rfl
theorem State.part_offHome (s : State) (n : Nat) : s.offHome.part n = s.part n := rfl

theorem State.homeWrite_offHome (s : State) (pa : Nat) (bs : List Byte) : (s.homeWrite pa bs).offHome = s.offHome := by
  unfold State.homeWrite
  split <;> rfl

theorem State.devWrite_offHome (s : State) (n va : Nat) (bs : List Byte) : (s.devWrite n va bs).1.offHome = s.offHome := by
  unfold State.devWrite
  refine List.foldlRecOn (motive := fun x : State × Bool => x.1.offHome = s.offHome) _ _ rfl
    fun ⟨t, ok⟩ ht ⟨a, k⟩ _ => ?_
  cases ok
  · exact ht
  · simp only [Bool.not_true, Bool.false_eq_true, if_false]
    split
    · split
      · exact (t.homeWrite_offHome ..).trans ht
      · exact ht
    · exact ht

/-! ### Berths -/

theorem State.setBerth_offHome (s : State) (n b : Nat) (x : Berth) : (s.setBerth n b x).offHome = (s.putBerth n b x).offHome :=
  (State.devWrite_offHome ..).trans (State.devWrite_offHome ..)

@[simp] theorem State.setBerth_compl (s : State) (n b : Nat) (x : Berth) : (s.setBerth n b x).compl = s.compl := by
  rw [← State.compl_offHome, State.setBerth_offHome]; rfl
@[simp] theorem State.setBerth_sluice (s : State) (n b : Nat) (x : Berth) : (s.setBerth n b x).sluice = s.sluice := by
  rw [← State.sluice_offHome, State.setBerth_offHome]; rfl

theorem State.part_setBerth (s : State) (n b : Nat) (x : Berth) :
    (s.setBerth n b x).part n = { s.part n with berths := AMap.put (s.part n).berths b x } := by
  rw [← State.part_offHome, State.setBerth_offHome, State.part_offHome, State.putBerth, State.part_modPart]
  rfl

@[simp] theorem State.items_setBerth (s : State) (n b : Nat) (x : Berth) :
    ((s.setBerth n b x).part n).items = (s.part n).items := by
  rw [State.part_setBerth]

@[simp] theorem State.berth_setBerth (s : State) (n b : Nat) (x : Berth) : (s.setBerth n b x).berth n b = x := by
  rw [State.berth, State.part_setBerth]
  exact AMap.get_put_same ..

/-! ### Items -/

@[simp] theorem State.items_setItems (s : State) (n : Nat) (l : List Item) : ((s.setItems n l).part n).items = l :=
  congrArg Part.items (State.part_modPart ..)

theorem State.berth_setItems (s : State) (n : Nat) (l : List Item) (m b : Nat) : (s.setItems n l).berth m b = s.berth m b :=
  congrArg (AMap.get freeBerth · b)
    (State.part_modPart_keeps (f := fun x => { x with items := l }) Part.berths _ n (fun _ => rfl) m)

/-! ### Replies -/

theorem State.inBerths_iff (s : State) (n b : Nat) :
    s.inBerths n b = true ↔ s.berthBase n ≤ b ∧ b < s.berthBase n + s.berthCount n := by
  rw [State.inBerths, Bool.and_eq_true, decide_eq_true_iff, decide_eq_true_iff]

/-- A reply says of a berth what the registers and the partition say of it. -/
theorem State.replyTo_congr (hregs : t.regs = s.regs) (hberth : ∀ n b, t.berth n b = s.berth n b) (p : Packet) (status : Nat)
    (accepted detail : W64) (cause : Nat) :
    t.replyTo p status accepted detail cause = s.replyTo p status accepted detail cause := by
  have hreg (o : Nat) : t.reg o = s.reg o := congrArg (AMap.get (regReset o) · o) hregs
  have hin (n b : Nat) : t.inBerths n b = s.inBerths n b := by
    rw [Bool.eq_iff_iff]
    simp only [State.inBerths_iff, State.berthBase, State.berthCount, State.rfld, hreg]
  have habout (n b : Nat) (c : Compl) : t.about n b c = s.about n b c := by simp only [State.about, hberth]
  simp only [State.replyTo, hin, habout]

/-- A reply waits for no other completion. -/
theorem State.replyTo_after (s : State) (p : Packet) (status : Nat) (accepted detail : W64) (cause : Nat) :
    { s.replyTo p status accepted detail cause with after := [] } = s.replyTo p status accepted detail cause := by
  unfold State.replyTo
  split <;> rfl

/-! ### Counters of admission replies (R48) -/

theorem outcomeIx_lt {status k : Nat} (h : outcomeIx status = some k) : k < 7 := by
  obtain ⟨x, hx, hk⟩ := List.exists_of_findSome?_eq_some h
  have hall : ∀ x ∈ [(stAccepted, 0), (stDeferred, 1), (stNoBerth, 2), (stInfeasible, 3), (stQuota, 4), (stHeld, 5),
    (stClosed, 6)], x.2 < 7 := by decide
  split at hk
  · exact Option.some.inj hk ▸ hall x hx
  · cases hk

/-- The counter of partition `n` for outcome `k`. -/
def outcomeOff (n k : Nat) : Nat := 0x20100 + n * 0x40 + 8 * k

/-- The state with its admission reply counted. -/
def State.countOutcome (s : State) (n status : Nat) : State :=
  match outcomeIx status with
  | some k => s.setReg (outcomeOff n k) (s.reg (outcomeOff n k) + 1)
  | none => s

theorem State.admitReply_untraced (s : State) (p : Packet) (c : Compl) :
    (s.admitReply p c).untraced = ((s.countOutcome p.part c.status).post c).untraced := untraced_traceUnit ..

/-- What the count and the record of an admission reply leave alone. -/
def State.unreplied (s : State) : State := { s.untraced with regs := [] }

theorem State.countOutcome_unreplied (s : State) (n status : Nat) : (s.countOutcome n status).unreplied = s.unreplied := by
  unfold State.countOutcome
  split <;> rfl

theorem State.part_countOutcome (s : State) (n status m : Nat) : (s.countOutcome n status).part m = s.part m := by
  unfold State.countOutcome
  split <;> rfl

theorem State.admitReply_unreplied (s : State) (p : Packet) (c : Compl) :
    (s.admitReply p c).unreplied = (s.post c).unreplied := by
  have hpost (t : State) : (t.post c).unreplied = t.unreplied.post c := rfl
  rw [State.unreplied, State.admitReply_untraced, ← State.unreplied, hpost, State.countOutcome_unreplied, hpost]

@[simp] theorem State.admitReply_compl (s : State) (p : Packet) (c : Compl) : (s.admitReply p c).compl = s.compl ++ [c] :=
  show (s.admitReply p c).unreplied.compl = s.compl ++ [c] by rw [State.admitReply_unreplied]; rfl
@[simp] theorem State.admitReply_sluice (s : State) (p : Packet) (c : Compl) : (s.admitReply p c).sluice = s.sluice :=
  show (s.admitReply p c).unreplied.sluice = s.sluice by rw [State.admitReply_unreplied]; rfl
@[simp] theorem State.admitReply_mem (s : State) (p : Packet) (c : Compl) : (s.admitReply p c).mem = s.mem :=
  show (s.admitReply p c).unreplied.mem = s.mem by rw [State.admitReply_unreplied]; rfl

theorem State.part_admitReply_keeps {β : Type} (obs : Part → β) (hobs : ∀ (x : Part) l, obs { x with trcPend := l } = obs x)
    (s : State) (p : Packet) (c : Compl) (m : Nat) : obs ((s.admitReply p c).part m) = obs (s.part m) := by
  exact (State.part_traceUnit_keeps obs hobs ((s.countOutcome p.part c.status).post c) _ _ _ _ m).trans
    (congrArg obs (State.part_countOutcome ..))

theorem State.berth_admitReply (s : State) (p : Packet) (c : Compl) (m b : Nat) : (s.admitReply p c).berth m b = s.berth m b :=
  congrArg (AMap.get freeBerth · b) (State.part_admitReply_keeps Part.berths (fun _ _ => rfl) s p c m)

theorem State.reg_admitReply (s : State) (p : Packet) (c : Compl) (o : Nat) :
    (s.admitReply p c).reg o = (s.countOutcome p.part c.status).reg o := by
  rw [← State.reg_untraced, State.admitReply_untraced]; rfl

theorem State.reg_admitReply_outcome (s : State) (p : Packet) (c : Compl) {k : Nat} (hk : outcomeIx c.status = some k) :
    (s.admitReply p c).reg (outcomeOff p.part k) = s.reg (outcomeOff p.part k) + 1 := by
  rw [State.reg_admitReply, State.countOutcome, hk]
  exact State.reg_setReg ..

theorem State.reg_admitReply_ne (s : State) (p : Packet) (c : Compl) {o : Nat} (ho : ∀ k < 7, o ≠ outcomeOff p.part k) :
    (s.admitReply p c).reg o = s.reg o := by
  rw [State.reg_admitReply, State.countOutcome]
  split
  next k hk => exact State.reg_setReg_ne _ _ (ho k (outcomeIx_lt hk))
  next => rfl

end Sys2Proof.Machine
end

section
/-!
PROOFS. What the Sluice does to a refused and to an admitted item (R45, R47, R48, R289).
-/
namespace Sys2Proof.Machine

/-! ### Refusals (R47, R48) -/

/-- `t` comes of `s` by the refusal of `p`: its reply is formed and counted, and its partition keeps its items and berths. -/
def State.refusesTo (s t : State) (p : Packet) (status : Nat) (detail : W64) : Prop :=
  t.sluice = s.sluice ∧ t.compl = s.compl ++ [{ s.replyTo p status s.devtime detail with done := false }] ∧
    (t.part p.part).items = (s.part p.part).items ∧ (t.part p.part).berths = (s.part p.part).berths ∧ t.mem = s.mem ∧
    ∀ k, outcomeIx status = some k → t.reg (outcomeOff p.part k) = s.reg (outcomeOff p.part k) + 1

theorem State.replyTo_status (s : State) (p : Packet) (status : Nat) (accepted detail : W64) (cause : Nat) :
    (s.replyTo p status accepted detail cause).status = status := by
  unfold State.replyTo
  split <;> rfl

theorem State.refuse_spec (s : State) (p : Packet) (status : Nat) (detail : W64) :
    s.refusesTo (s.refuse p status detail) p status detail :=
  ⟨State.admitReply_sluice .., State.admitReply_compl .., State.part_admitReply_keeps Part.items (fun _ _ => rfl) ..,
    State.part_admitReply_keeps Part.berths (fun _ _ => rfl) .., State.admitReply_mem ..,
    fun _ hk => State.reg_admitReply_outcome _ _ _ ((congrArg outcomeIx (s.replyTo_status ..)).trans hk)⟩

/-! ### Admissions (R45) -/

/-- The item that a `SUBMIT` makes. -/
def State.itemOf (s : State) (p : Packet) (berth : Option Nat) (k0 : Nat) (promise : W64) (rest : Option Restore) : Item :=
  { pkt := p, cls := p.cls, berth := berth, named := p.sBerth != berthAny, steps := p.sSteps, weight := p.sWeight
    deadline := p.param, accepted := s.devtime, promise := promise, k0 := k0, done := 0, running := false
    started := false, cancelled := false, broken := false, rest := rest, causes := (s.part p.part).cause.toList }

/-- The reply that admits it. -/
def Packet.admitted (p : Packet) (accepted : W64) (status : Nat) (berth : Option Nat) (k0 : Nat) (promise : W64) : Compl :=
  { p.reply status accepted with
    final := false, promised := promise, done := false, berth := berth.getD 0xFFFF
    kind := if berth.isSome then p.cls else 0xFF
    start := if p.cls = 3 then ones64 else BitVec.ofNat 64 k0 }

/-- The item joins its partition. -/
def State.joined (s : State) (n : Nat) (i : Item) : State :=
  let t := s.setItems n ((s.part n).items ++ [i])
  { t with tally := { t.tally with out := addAt t.tally.out n 1 } }

/-- The berth of the item, where it has one, is `ADMITTED`. -/
def State.berthTaken (s : State) (n c : Nat) : Option Nat → State
  | some b => s.setBerth n b ⟨.admitted, c, none⟩
  | none => s

/-- The restore of the item, where it has one, is planned. -/
def State.restoreTaken (s : State) (n : Nat) : Option Restore → State
  | some r => (s.setIdx r.idx ixRestoring).setReg (prt n 0xD8) r.endAt
  | none => s

theorem State.takeItem_eq (s : State) (p : Packet) (status : Nat) (berth : Option Nat) (k0 : Nat) (promise : W64)
    (rest : Option Restore) : s.takeItem p status berth k0 promise rest =
      (((s.joined p.part (s.itemOf p berth k0 promise rest)).berthTaken p.part p.cls berth).restoreTaken
        p.part rest).admitReply p (p.admitted s.devtime status berth k0 promise) := by
  cases berth <;> cases rest <;> rfl

section
variable (s : State) (n c : Nat) (b : Option Nat)

theorem State.berthTaken_keeps : (s.berthTaken n c b).sluice = s.sluice ∧ (s.berthTaken n c b).compl = s.compl ∧
    ((s.berthTaken n c b).part n).items = (s.part n).items := by
  cases b with
  | none => exact ⟨rfl, rfl, rfl⟩
  | some d => exact ⟨s.setBerth_sluice .., s.setBerth_compl .., s.items_setBerth ..⟩

theorem State.berth_berthTaken {d : Nat} (h : b = some d) : (s.berthTaken n c b).berth n d = ⟨.admitted, c, none⟩ := by
  subst h
  exact s.berth_setBerth ..

variable (r : Option Restore)

theorem State.restoreTaken_keeps : (s.restoreTaken n r).sluice = s.sluice ∧ (s.restoreTaken n r).compl = s.compl ∧
    (s.restoreTaken n r).parts = s.parts := by
  cases r <;> exact ⟨rfl, rfl, rfl⟩

end

/-- The registers of a partition below 24 and its counters lie below those of the indices. -/
theorem prt_lt_idx {n : Nat} (hn : n < 24) (i : Nat) : prt n 0xD8 < 0x48000 + 8 * (i / 32) := by
  unfold prt; omega

theorem outcomeOff_lt_prt (n : Nat) {k : Nat} (hk : k < 7) : outcomeOff n k < prt n 0xD8 := by
  unfold outcomeOff prt; omega

/-- A planned restore shows in the index and in `PRT_RSTQ`. -/
theorem State.restoreTaken_spec (s : State) {n : Nat} (hn : n < 24) (q : Restore) :
    (s.restoreTaken n (some q)).idxState q.idx = 3 ∧ (s.restoreTaken n (some q)).reg (prt n 0xD8) = q.endAt := by
  refine ⟨?_, State.reg_setReg ..⟩
  have hidx : (s.setIdx q.idx ixRestoring).rfld (0x48000 + 8 * (q.idx / 32)) (2 * (q.idx % 32)) 2 = 3 :=
    State.rfld_setRfld _ _ _ _ _ (by omega)
  have hkeep : (s.restoreTaken n (some q)).reg (0x48000 + 8 * (q.idx / 32)) =
      (s.setIdx q.idx ixRestoring).reg (0x48000 + 8 * (q.idx / 32)) :=
    State.reg_setReg_ne _ _ (prt_lt_idx hn q.idx).ne'
  rw [State.idxState, State.rfld, hkeep]
  exact hidx

/-- `t` comes of `s` by the admission of `p` as item `i` with reply `r`. -/
def State.admitsTo (s t : State) (i : Item) (r : Compl) (p : Packet) (status : Nat) (b : Option Nat) (k0 : Nat)
    (promise start : W64) (rest : Option Restore) : Prop :=
  t.sluice = s.sluice ∧ (t.part p.part).items = (s.part p.part).items ++ [i] ∧
    i.pkt = p ∧ i.cls = p.cls ∧ i.berth = b ∧ i.named = decide (p.sBerth ≠ 0xFFFF) ∧ i.k0 = k0 ∧ i.steps = p.sSteps ∧
    i.weight = p.sWeight ∧ i.started = false ∧ i.promise = promise ∧ i.rest = rest ∧
    (∀ d, b = some d → (t.berth p.part d).st = .admitted ∧ (t.berth p.part d).cls = p.cls) ∧
    (∀ q, rest = some q → t.idxState p.sIdx = 3 ∧ t.reg (prt p.part 0xD8) = q.endAt) ∧
    t.compl = s.compl ++ [r] ∧ r.status = status ∧ r.promised = promise ∧ r.start = start ∧ r.final = false ∧
    r.berth = b.getD 0xFFFF

theorem State.takeItem_spec (s : State) {p : Packet} (hn : p.part < 24) (status : Nat) (b : Option Nat) (k0 : Nat)
    (promise : W64) {rest : Option Restore} (hrest : ∀ q, rest = some q → q.idx = p.sIdx) :
    s.admitsTo (s.takeItem p status b k0 promise rest) (s.itemOf p b k0 promise rest)
      (p.admitted s.devtime status b k0 promise) p status b k0 promise
      (if p.cls = 3 then ones64 else BitVec.ofNat 64 k0) rest := by
  rw [State.takeItem_eq]
  generalize hi : s.itemOf p b k0 promise rest = i
  obtain ⟨hsluiceB, hcomplB, hitemsB⟩ := (s.joined p.part i).berthTaken_keeps p.part p.cls b
  have hberthB (d : Nat) (hd : b = some d) := (s.joined p.part i).berth_berthTaken p.part p.cls b hd
  generalize (s.joined p.part i).berthTaken p.part p.cls b = u at hsluiceB hcomplB hitemsB hberthB ⊢
  obtain ⟨hsluiceR, hcomplR, hpartsR⟩ := u.restoreTaken_keeps p.part rest
  have hpartR (m : Nat) : (u.restoreTaken p.part rest).part m = u.part m := congrArg (AMap.get Part.reset · m) hpartsR
  have hrestR (q : Restore) (hq : rest = some q) := hq ▸ u.restoreTaken_spec hn q
  subst hi
  refine ⟨?_, ?_, rfl, rfl, rfl, ?_, rfl, rfl, rfl, rfl, rfl, rfl, fun d hd => ?_, fun q hq => ?_, ?_, rfl, rfl, rfl, rfl, rfl⟩
  · exact (State.admitReply_sluice ..).trans (hsluiceR.trans hsluiceB)
  · rw [State.part_admitReply_keeps Part.items (fun _ _ => rfl), hpartR, hitemsB]
    exact s.items_setItems ..
  · exact Bool.eq_iff_iff.2 (bne_iff_ne.trans decide_eq_true_iff.symm)
  · rw [State.berth_admitReply, show (u.restoreTaken p.part rest).berth p.part d = u.berth p.part d from
      congrArg (fun x : Part => AMap.get freeBerth x.berths d) (hpartR _), hberthB d hd]
    exact ⟨rfl, rfl⟩
  · obtain ⟨hidx, hend⟩ := hrestR q hq
    rw [← hrest q hq, State.reg_admitReply_ne _ _ _ fun k hk => (outcomeOff_lt_prt _ hk).ne', State.idxState, State.rfld,
      State.reg_admitReply_ne _ _ _ fun k hk => ((outcomeOff_lt_prt _ hk).trans (prt_lt_idx hn q.idx)).ne']
    exact ⟨hidx, hend⟩
  · rw [State.admitReply_compl, hcomplR, hcomplB]; rfl

end Sys2Proof.Machine
end

section
/-!
PROOFS. The decision of a `SUBMIT` (R45, R53).
-/
namespace Sys2Proof.Machine

/-! ### The candidates (R45) -/

/-- The promise of a start at step `k` (R47). -/
def State.promiseAt (s : State) (p : Packet) (k : Nat) : Nat :=
  s.t0 p.part + (k + p.sSteps - 1) * s.period p.part + s.declB p.part + 2000

/-- The work of `p` fits from step `k` on. -/
def State.fitsAt (s : State) (p : Packet) (cur k : Nat) : Bool :=
  s.fits p.part p.cls p.sWeight cur k (min (k + p.sSteps - 1) (cur + 256))

theorem State.search_succ (s : State) (p : Packet) (cur fuel k : Nat) : s.search p cur (fuel + 1) k =
    if p.param.toNat < s.promiseAt p k ∧ !p.late then none
    else if s.fitsAt p cur k then some (k, s.promiseAt p k)
    else s.search p cur fuel (k + 1) := rfl

/-- The search finds the first of its candidates at which the work fits, and its promise, which keeps the deadline of a
packet that is not `LATE_OK`. -/
theorem State.search_first {s : State} {p : Packet} {cur fuel k k0 promise : Nat}
    (h : s.search p cur fuel k = some (k0, promise)) :
    k ≤ k0 ∧ k0 < k + fuel ∧ s.fitsAt p cur k0 = true ∧ (∀ j, k ≤ j → j < k0 → s.fitsAt p cur j = false) ∧
      promise = s.promiseAt p k0 ∧ (p.late = false → promise ≤ p.param.toNat) := by
  induction fuel generalizing k with
  | zero => cases h
  | succ fuel ih =>
    rw [State.search_succ] at h
    split at h
    · cases h
    next hpromise =>
      split at h
      next hfits =>
        cases h
        refine ⟨Nat.le_refl _, by omega, hfits, fun j hle hlt => absurd hlt (by omega), rfl, fun hlate => ?_⟩
        simpa [hlate] using hpromise
      next hfits =>
        obtain ⟨hle, hlt, hfit, hfirst, hrest⟩ := ih h
        refine ⟨by omega, by omega, hfit, fun j hj hlt => ?_, hrest⟩
        rcases Nat.eq_or_lt_of_le hj with rfl | hj
        · exact Bool.eq_false_iff.2 hfits
        · exact hfirst j hj hlt

/-! ### The state of the decision -/

/-- The state in which the Sluice decides packet `p`: the packet has left the queue. -/
def State.deciding (s : State) (p : Packet) : State :=
  { s with sluice := s.sluice.filter (fun q => q.id != p.id), decided := some s.devtime }

/-- The search does not read the queue. -/
theorem State.search_deciding (s : State) (q p : Packet) (cur fuel k : Nat) :
    (s.deciding q).search p cur fuel k = s.search p cur fuel k := by
  induction fuel generalizing k with
  | zero => rfl
  | succ fuel ih =>
    rw [State.search_succ, State.search_succ, ih]
    rfl

theorem State.exec_submit_decides {s : State} {p : Packet} (hp : nextSubmit s.sluice = some p) (hd : s.mayDecide = true) :
    exec (.submit .good) s = .next ((s.deciding p).decideSubmit p) := by
  rw [exec_submit]
  simp only [execSubmit, State.sluiceRead, State.submitNext, hp, hd, if_true]
  rfl

/-! ### The order of the refusals -/

section
variable {s : State} {p : Packet}

theorem State.decideSubmit_held (h : s.pstate p.part ≠ 2 ∨ s.overrun p.part = true) :
    s.decideSubmit p = s.refuse p stHeld := if_pos h

theorem State.decideSubmit_closed (hrun : s.pstate p.part = 2) (hover : s.overrun p.part = false)
    (hopen : s.clsOpen p.part p.cls = false) : s.decideSubmit p = s.refuse p stClosed := by
  simp [State.decideSubmit, psRunning, hrun, hover, hopen]

/-- The partition and the class take work. -/
structure State.takesWork (s : State) (p : Packet) : Prop where
  running : s.pstate p.part = 2
  noOverrun : s.overrun p.part = false
  opened : s.clsOpen p.part p.cls = true

theorem State.decideSubmit_noSteps (h : s.takesWork p) (hsteps : p.sSteps = 0) :
    s.decideSubmit p = s.admitReply p { p.reply stOk s.devtime with promised := s.devtime } := by
  simp [State.decideSubmit, psRunning, h.running, h.noOverrun, h.opened, hsteps]

/-- The number of the step in progress, or of the last one. -/
def State.stepNow (s : State) (n : Nat) : Nat := (s.devtime.toNat - s.t0 n) / s.period n

/-- The first step that can start after the work's restore, and after the lead time of the Sluice. -/
def State.firstStep (s : State) (p : Packet) : Nat :=
  ((match s.planRestore p with | some r => r.endAt.toNat | none => s.devtime.toNat) + s.rfld 0x20000 0 16 - s.t0 p.part +
    s.period p.part - 1) / s.period p.part

/-- A hard packet that has a berth is given the earliest start at which its work fits, or refused. -/
def State.placeSubmit (s : State) (p : Packet) (b : Option Nat) : State :=
  let k := s.firstStep p
  let cur := s.stepNow p.part
  if s.below p.part then s.refuse p stInfeasible
  else if p.moored ∧ s.t2slots p.part = 0 then s.refuse p stInfeasible
  else if cur + 256 < k then s.refuse p stInfeasible
  else
    match s.search p cur (cur + 257 - k) k with
    | some (k0, promise) =>
      s.takeItem p (if promise ≤ p.param.toNat then stAccepted else stDeferred) b k0 (BitVec.ofNat 64 promise) (s.planRestore p)
    | none =>
      if (s.promiseAt p k ≤ p.param.toNat ∨ p.late) ∧
          s.overMax p.part p.cls p.sWeight cur k (min (k + p.sSteps - 1) (cur + 256)) then s.refuse p stQuota
      else s.refuse p stInfeasible

/-- A packet that takes any berth and finds none is refused; else it is placed. -/
theorem State.decideSubmit_hard (h : s.takesWork p) (hsteps : p.sSteps ≠ 0) (hname : s.namingBad p = none) (hcls : p.cls < 3) :
    s.decideSubmit p =
      if p.sBerth = berthAny ∧ s.maxBerths p.part p.cls < s.heldBy p.part p.cls + 1 then s.refuse p stQuota
      else if p.sBerth = berthAny ∧ s.rsvBerths p.part p.cls ≤ s.heldBy p.part p.cls ∧
        s.sharedBerths p.part < s.sharedUsed p.part + 1 then s.refuse p stNoBerth
      else if p.sBerth = berthAny ∧ s.freeBerth? p.part = none then s.refuse p stNoBerth
      else s.placeSubmit p (if p.sBerth = berthAny then s.freeBerth? p.part else some p.sBerth) := by
  obtain ⟨hrun, hover, hopen⟩ := h
  have hhard : p.cls ≠ 3 := by omega
  simp only [State.decideSubmit, psRunning, hrun, hover, hopen, hsteps, hname, hhard, ne_eq, not_true_eq_false, false_or,
    Bool.false_eq_true, Bool.not_true, if_false]
  rfl

theorem State.decideSubmit_bulk (h : s.takesWork p) (hsteps : p.sSteps ≠ 0) (hname : s.namingBad p = none) (hcls : p.cls = 3) :
    s.decideSubmit p = s.bulkSubmit p := by
  obtain ⟨hrun, hover, hopen⟩ := h
  rw [hcls] at hopen
  simp [State.decideSubmit, psRunning, hrun, hover, hopen, hsteps, hname, hcls]

theorem State.decideSubmit_misnamed (h : s.takesWork p) (hsteps : p.sSteps ≠ 0) {code : Nat}
    (hname : s.namingBad p = some code) : s.decideSubmit p = s.refuse p stState (BitVec.ofNat 64 code) := by
  obtain ⟨hrun, hover, hopen⟩ := h
  simp [State.decideSubmit, psRunning, hrun, hover, hopen, hsteps, hname]

/-! ### The berth that a packet names (R39) -/

theorem State.namingBad_named (hany : p.sBerth ≠ berthAny)
    (hbad : p.moored = true ∨ (s.berth p.part p.sBerth).st ≠ .opened ∨ (s.berth p.part p.sBerth).cls ≠ p.cls) :
    s.namingBad p = some (if (s.berth p.part p.sBerth).opening.isSome then 1 else (s.berth p.part p.sBerth).st.num) := by
  rw [State.namingBad, if_neg hany, if_pos hbad]

theorem State.namingBad_any (hany : p.sBerth = berthAny) (hmoored : p.moored = true) (hidx : s.idxState p.sIdx ≠ 2) :
    s.namingBad p = some (s.idxState p.sIdx) := by
  rw [State.namingBad, if_pos hany, if_pos ⟨hmoored, hidx⟩]

theorem State.decideSubmit_badBerth (h : s.takesWork p) (hsteps : p.sSteps ≠ 0) (hany : p.sBerth ≠ berthAny)
    (hbad : p.moored = true ∨ (s.berth p.part p.sBerth).st ≠ .opened ∨ (s.berth p.part p.sBerth).cls ≠ p.cls) :
    s.decideSubmit p = s.refuse p stState (if (s.berth p.part p.sBerth).opening.isSome then 1
      else BitVec.ofNat 64 (s.berth p.part p.sBerth).st.num) := by
  rw [State.decideSubmit_misnamed h hsteps (State.namingBad_named hany hbad), apply_ite (BitVec.ofNat 64)]
  rfl

/-- The packet names a berth that is its class's to use. -/
def State.namesOpen (s : State) (p : Packet) : Prop :=
  p.sBerth ≠ berthAny ∧ p.moored = false ∧ (s.berth p.part p.sBerth).st = .opened ∧ (s.berth p.part p.sBerth).cls = p.cls

/-- The packet takes any berth, and the mooring that it names, where it names one, is there. -/
def State.namesAny (s : State) (p : Packet) : Prop := p.sBerth = berthAny ∧ (p.moored = true → s.idxState p.sIdx = 2)

theorem State.namesOpen.namingBad (h : s.namesOpen p) : s.namingBad p = none := by
  obtain ⟨hany, hmoored, hst, hcls⟩ := h
  have hok : ¬ (p.moored = true ∨ (s.berth p.part p.sBerth).st ≠ .opened ∨ (s.berth p.part p.sBerth).cls ≠ p.cls) := by
    simp [hmoored, hst, hcls]
  rw [State.namingBad, if_neg hany, if_neg hok]

theorem State.namesAny.namingBad (h : s.namesAny p) : s.namingBad p = none := by
  obtain ⟨hany, hidx⟩ := h
  have hok : ¬ (p.moored = true ∧ s.idxState p.sIdx ≠ ixMoored) := fun ⟨hm, hne⟩ => hne (hidx hm)
  rw [State.namingBad, if_pos hany, if_neg hok]

theorem State.decideSubmit_namedBulk (h : s.takesWork p) (hsteps : p.sSteps ≠ 0) (hname : s.namesOpen p ∨ s.namesAny p)
    (hcls : p.cls = 3) : s.decideSubmit p = s.bulkSubmit p :=
  State.decideSubmit_bulk h hsteps (hname.elim State.namesOpen.namingBad State.namesAny.namingBad) hcls

/-! ### Hard classes -/

/-- The class of `p` may not have one berth more (R41). -/
abbrev State.classFull (s : State) (p : Packet) : Prop := s.maxBerths p.part p.cls < s.heldBy p.part p.cls + 1
/-- No shared berth is left (R42). -/
abbrev State.poolEmpty (s : State) (n : Nat) : Prop := s.sharedBerths n < s.sharedUsed n + 1

/-- A hard packet gets the berth that it names, or the free one that it is given. -/
def State.getsBerth (s : State) (p : Packet) (b : Nat) : Prop :=
  (s.namesOpen p ∧ b = p.sBerth) ∨ (s.namesAny p ∧ ¬ s.classFull p ∧
    ¬ (s.rsvBerths p.part p.cls ≤ s.heldBy p.part p.cls ∧ s.poolEmpty p.part) ∧ s.freeBerth? p.part = some b)

section
variable (h : s.takesWork p) (hsteps : p.sSteps ≠ 0) (hcls : p.cls < 3)
include h hsteps hcls

theorem State.hard_full (hname : s.namesAny p) (hfull : s.classFull p) : s.decideSubmit p = s.refuse p stQuota := by
  rw [State.decideSubmit_hard h hsteps hname.namingBad hcls, if_pos ⟨hname.1, hfull⟩]

theorem State.hard_noPool (hname : s.namesAny p) (hfull : ¬ s.classFull p)
    (hpool : s.rsvBerths p.part p.cls ≤ s.heldBy p.part p.cls ∧ s.poolEmpty p.part) :
    s.decideSubmit p = s.refuse p stNoBerth := by
  rw [State.decideSubmit_hard h hsteps hname.namingBad hcls, if_neg fun hx => hfull hx.2, if_pos ⟨hname.1, hpool⟩]

theorem State.hard_noneFree (hname : s.namesAny p) (hfull : ¬ s.classFull p)
    (hpool : ¬ (s.rsvBerths p.part p.cls ≤ s.heldBy p.part p.cls ∧ s.poolEmpty p.part)) (hfree : s.freeBerth? p.part = none) :
    s.decideSubmit p = s.refuse p stNoBerth := by
  rw [State.decideSubmit_hard h hsteps hname.namingBad hcls, if_neg fun hx => hfull hx.2, if_neg fun hx => hpool hx.2,
    if_pos ⟨hname.1, hfree⟩]

theorem State.hard_placed {b : Nat} (hb : s.getsBerth p b) : s.decideSubmit p = s.placeSubmit p (some b) := by
  rcases hb with ⟨hname, rfl⟩ | ⟨hname, hfull, hpool, hfree⟩
  · have hany : ¬ p.sBerth = berthAny := hname.1
    rw [State.decideSubmit_hard h hsteps hname.namingBad hcls, if_neg fun hx => hany hx.1, if_neg fun hx => hany hx.1,
      if_neg fun hx => hany hx.1, if_neg hany]
  · have hsome : ¬ s.freeBerth? p.part = none := by simp [hfree]
    rw [State.decideSubmit_hard h hsteps hname.namingBad hcls, if_neg fun hx => hfull hx.2, if_neg fun hx => hpool hx.2,
      if_neg fun hx => hsome hx.2, if_pos hname.1, hfree]

end

/-! ### The start of a hard class -/

section
variable {b : Option Nat}

theorem State.placeSubmit_below (hbelow : s.below p.part = true) : s.placeSubmit p b = s.refuse p stInfeasible := if_pos hbelow

variable (hbelow : s.below p.part = false)
include hbelow

theorem State.placeSubmit_noSlots (hslots : p.moored = true ∧ s.t2slots p.part = 0) :
    s.placeSubmit p b = s.refuse p stInfeasible := by
  simp only [State.placeSubmit, hbelow, hslots, Bool.false_eq_true, and_self, if_false, if_true]

variable (hslots : ¬ (p.moored = true ∧ s.t2slots p.part = 0)) {k : Nat} (hk : s.firstStep p = k)
include hslots hk

theorem State.placeSubmit_far (hfar : s.stepNow p.part + 256 < k) : s.placeSubmit p b = s.refuse p stInfeasible := by
  subst hk
  simp only [State.placeSubmit, hbelow, hslots, hfar, Bool.false_eq_true, if_false, if_true]

variable (hnear : k ≤ s.stepNow p.part + 256)
include hnear

theorem State.placeSubmit_found {k0 promise : Nat}
    (hfound : s.search p (s.stepNow p.part) (s.stepNow p.part + 257 - k) k = some (k0, promise)) :
    s.placeSubmit p b = s.takeItem p (if promise ≤ p.param.toNat then 0x01 else 0x02) b k0 (BitVec.ofNat 64 promise)
      (s.planRestore p) := by
  subst hk
  simp only [State.placeSubmit, hbelow, hslots, Nat.not_lt.2 hnear, hfound, Bool.false_eq_true, if_false]
  rfl

theorem State.placeSubmit_unfound (hnone : s.search p (s.stepNow p.part) (s.stepNow p.part + 257 - k) k = none) :
    s.placeSubmit p b = s.refuse p (if (s.promiseAt p k ≤ p.param.toNat ∨ p.late = true) ∧
        s.overMax p.part p.cls p.sWeight (s.stepNow p.part) k (min (k + p.sSteps - 1) (s.stepNow p.part + 256)) = true
      then 0x12 else 0x11) := by
  subst hk
  simp only [State.placeSubmit, hbelow, hslots, Nat.not_lt.2 hnear, hnone, Bool.false_eq_true, if_false]
  split <;> rfl

end

/-- The first step, with the time of the restore written out (R289). -/
theorem State.firstStep_eq (s : State) (p : Packet) : s.firstStep p =
    ((if p.moored then (BitVec.ofNat 64 (max s.devtime.toNat (s.reg (prt p.part 0xD8)).toNat +
        restNs (AMap.get 1 s.moorUnits p.sIdx) (s.t2slots p.part)) : W64).toNat else s.devtime.toNat) + s.rfld 0x20000 0 16 -
      s.t0 p.part + s.period p.part - 1) / s.period p.part := by
  rw [State.firstStep, State.planRestore]
  cases p.moored <;> rfl

theorem State.planRestore_idx {q : Restore} (h : s.planRestore p = some q) : q.idx = p.sIdx := by
  unfold State.planRestore at h
  split at h
  · cases h; rfl
  · cases h

/-! ### `BULK` (R53) -/

theorem State.bulk_quota (hfull : 1024 ≤ s.bulkCount p.part) : s.bulkSubmit p = s.refuse p stQuota := if_pos hfull

section
variable (hroom : s.bulkCount p.part < 1024)
include hroom

theorem State.bulk_named (hany : p.sBerth ≠ berthAny) :
    s.bulkSubmit p = s.takeItem p stDeferred (some p.sBerth) 0 ones64 none := by
  rw [State.bulkSubmit, if_neg (Nat.not_le.2 hroom), if_pos hany]

variable (hany : p.sBerth = berthAny)
include hany

theorem State.bulk_unmoored (hmoored : p.moored = false) : s.bulkSubmit p = s.takeItem p stDeferred none 0 ones64 none := by
  rw [State.bulkSubmit, if_neg (Nat.not_le.2 hroom), if_neg (not_not_intro hany), hmoored]
  rfl

variable (hcls : p.cls = 3) (hmoored : p.moored = true)
include hcls hmoored

/-- A packet of `BULK` that names a mooring needs a berth now. -/
theorem State.bulk_moored : s.bulkSubmit p =
    if s.classFull p then s.refuse p stQuota
    else if s.poolEmpty p.part then s.refuse p stNoBerth
    else
      match s.freeBerth? p.part with
      | none => s.refuse p stNoBerth
      | some b =>
        if s.t2slots p.part = 0 then s.refuse p stInfeasible
        else s.takeItem p stDeferred (some b) 0 ones64 (s.planRestore p) := by
  rw [State.bulkSubmit, if_neg (Nat.not_le.2 hroom), if_neg (not_not_intro hany), hmoored]
  simp only [State.classFull, hcls]
  rfl

theorem State.bulk_full (hfull : s.classFull p) : s.bulkSubmit p = s.refuse p stQuota := by
  rw [State.bulk_moored hroom hany hcls hmoored, if_pos hfull]

variable (hfull : ¬ s.classFull p)
include hfull

theorem State.bulk_noPool (hpool : s.poolEmpty p.part) : s.bulkSubmit p = s.refuse p stNoBerth := by
  rw [State.bulk_moored hroom hany hcls hmoored, if_neg hfull, if_pos hpool]

variable (hpool : ¬ s.poolEmpty p.part)
include hpool

theorem State.bulk_noneFree (hfree : s.freeBerth? p.part = none) : s.bulkSubmit p = s.refuse p stNoBerth := by
  rw [State.bulk_moored hroom hany hcls hmoored, if_neg hfull, if_neg hpool, hfree]

variable {b : Nat} (hfree : s.freeBerth? p.part = some b)
include hfree

theorem State.bulk_noSlots (hslots : s.t2slots p.part = 0) : s.bulkSubmit p = s.refuse p stInfeasible := by
  rw [State.bulk_moored hroom hany hcls hmoored, if_neg hfull, if_neg hpool, hfree]
  exact if_pos hslots

theorem State.bulk_restores (hslots : s.t2slots p.part ≠ 0) :
    s.bulkSubmit p = s.takeItem p stDeferred (some b) 0 ones64 (s.planRestore p) := by
  rw [State.bulk_moored hroom hany hcls hmoored, if_neg hfull, if_neg hpool, hfree]
  exact if_neg hslots

end

end

end Sys2Proof.Machine
end

section
/-!
PROOFS. What a `CANCEL` does to its target (R328).
-/
namespace Sys2Proof.Machine

variable {s : State} {p : Packet} {i : Item}

/-! ### The target -/

theorem State.cancelItem_running (hbroken : i.broken = false) (hrunning : i.running = true) :
    s.cancelItem i = s.setItem { i with cancelled := true } := by
  simp [State.cancelItem, hbroken, hrunning]

theorem State.cancelItem_unstarted (hbroken : i.broken = false) (hrunning : i.running = false) (hstarted : i.started = false) :
    s.cancelItem i = (((s.stopRestore i).giveBack i).finalItem i stAborted caCancel true).dropItem i := by
  simp [State.cancelItem, hbroken, hrunning, hstarted]

/-- An item that is marked leaves every reply as it was. -/
theorem State.replyTo_setItem (s : State) (i : Item) (p : Packet) (status : Nat) (accepted detail : W64) (cause : Nat) :
    (s.setItem i).replyTo p status accepted detail cause = s.replyTo p status accepted detail cause :=
  State.replyTo_congr (t := s.setItem i) (s := s) rfl (fun _ _ => State.berth_setItems ..) ..

theorem State.stopRestore_compl (s : State) (i : Item) : (s.stopRestore i).compl = s.compl := by
  unfold State.stopRestore
  split
  · split <;> rfl
  · rfl

theorem State.giveBack_compl (s : State) (i : Item) : (s.giveBack i).compl = s.compl := by
  unfold State.giveBack
  split
  · exact State.setBerth_compl ..
  · rfl

/-- An item that never started leaves its partition with its final completion. -/
theorem State.cancelItem_leaves (s : State) (hbroken : i.broken = false) (hrunning : i.running = false)
    (hstarted : i.started = false) : ∃ r : Compl, (s.cancelItem i).compl = s.compl ++ [r] ∧ r.pkt = i.pkt.id ∧ r.final = true ∧
      r.status = 0x31 ∧ r.cause = 0x11 ∧ ∀ j ∈ ((s.cancelItem i).part i.pkt.part).items, j.pkt.id ≠ i.pkt.id := by
  rw [State.cancelItem_unstarted hbroken hrunning hstarted]
  refine ⟨_, congrArg (· ++ [_]) ((State.giveBack_compl ..).trans (s.stopRestore_compl i)), rfl, rfl, rfl, rfl, fun j hj => ?_⟩
  rw [State.dropItem, State.items_setItems] at hj
  exact bne_iff_ne.1 (List.mem_filter.1 hj).2

/-! ### The command -/

/-- What a `CANCEL` of a device in `RUN` does to its target, with its answer. -/
def State.cancelAnswer (s : State) (p : Packet) : Option Item → State
  | some i =>
    if i.cancelled ∨ s.itemEnds i then s.post (s.replyTo p stState s.devtime 0xFF)
    else (s.cancelItem i).post
      { (s.cancelItem i).replyTo p stOk s.devtime with after := if i.running then [] else [i.pkt.id] }
  | none => s.post (s.replyTo p stState s.devtime 0xFF)

section
variable {ring : BitVec 9} (hp : nextCancel (s.sluice.filter (fun q => q.ring != ring.toNat))
  (s.sluice.filter (fun q => q.ring == ring.toNat)) = some p) (hd : s.mayDecide = true) (hrun : s.dstate = 6)
include hp hd hrun

theorem State.exec_cancel_decides : exec (.cancel ring .good) s =
    .next ((s.deciding p).cancelAnswer p (s.cancelTarget p.part (p.num 16 4) (p.num 20 2))) := by
  have hon : ¬ (s.deciding p).dstate ≠ dsRun := not_not_intro hrun
  rw [exec_cancel]
  simp only [execCancel, State.sluiceRead, State.cancelNext, hp, hd, if_true]
  rw [← State.deciding, if_neg hon]
  rfl

theorem State.cancel_untargeted (hnone : s.cancelTarget p.part (p.num 16 4) (p.num 20 2) = none) :
    s.answers (.cancel ring .good) (s.deciding p) (s.replyTo p 0x23 s.devtime 0xFF) := by
  rw [State.answers, State.exec_cancel_decides hp hd hrun, hnone]
  rfl

variable (htarget : s.cancelTarget p.part (p.num 16 4) (p.num 20 2) = some i)
include htarget

/-- A target that a `CANCEL` has reached before, or whose last step has ended, stays as it is. -/
theorem State.cancel_late (hlate : i.cancelled = true ∨ s.itemEnds i = true) :
    s.answers (.cancel ring .good) (s.deciding p) (s.replyTo p 0x23 s.devtime 0xFF) := by
  rw [State.answers, State.exec_cancel_decides hp hd hrun, htarget]
  exact congrArg Host.Outcome.next (if_pos hlate)

variable (hcancelled : i.cancelled = false) (hbroken : i.broken = false)
include hcancelled hbroken

/-- A target that runs is marked, and ends with its step. -/
theorem State.cancel_marks (hrunning : i.running = true) (hends : s.itemEnds i = false) :
    s.answers (.cancel ring .good) ((s.deciding p).setItem { i with cancelled := true }) (s.replyTo p 0x00 s.devtime) := by
  have hlate : ¬ (i.cancelled = true ∨ s.itemEnds i = true) := by simp [hcancelled, hends]
  rw [State.answers, State.exec_cancel_decides hp hd hrun, htarget]
  refine congrArg Host.Outcome.next ((if_neg hlate).trans ?_)
  rw [State.cancelItem_running hbroken hrunning, State.replyTo_setItem, if_pos hrunning, State.replyTo_after]
  rfl

/-- A target that has not started leaves, and its final completion comes before the answer. -/
theorem State.cancel_removes (hrunning : i.running = false) (hstarted : i.started = false) (hpart : i.pkt.part = p.part) :
    ∃ t r, exec (.cancel ring .good) s = .next t ∧
      t.compl = s.compl ++ [r, { t.replyTo p 0x00 s.devtime with after := [i.pkt.id] }] ∧ r.pkt = i.pkt.id ∧ r.final = true ∧
      r.status = 0x31 ∧ r.cause = 0x11 ∧ ∀ j ∈ (t.part p.part).items, j.pkt.id ≠ i.pkt.id := by
  have hlate : ¬ (i.cancelled = true ∨ s.itemEnds i = true) := by simp [hcancelled, State.itemEnds, hrunning]
  have hidle : ¬ i.running = true := by simp [hrunning]
  obtain ⟨r, hcompl, hpkt, hfinal, hstatus, hcause, hitems⟩ := (s.deciding p).cancelItem_leaves hbroken hrunning hstarted
  have hx : exec (.cancel ring .good) s = .next (((s.deciding p).cancelItem i).post
      { ((s.deciding p).cancelItem i).replyTo p 0x00 s.devtime with after := [i.pkt.id] }) := by
    rw [State.exec_cancel_decides hp hd hrun, htarget]
    refine congrArg Host.Outcome.next ((if_neg hlate).trans ?_)
    rw [if_neg hidle]
    rfl
  refine ⟨_, r, hx, ?_, hpkt, hfinal, hstatus, hcause, hpart ▸ hitems⟩
  rw [State.post, hcompl]
  exact List.append_assoc ..

end

end Sys2Proof.Machine
end

section
/-!
PROOFS. The decisions of the Sluice: O36.
-/
namespace Sys2Proof.Machine

variable {s : State} {p : Packet}

/-- A partition whose state is `RUNNING` is one of those that `PSTATE` has a field for. -/
theorem State.part_lt_of_running {n : Nat} (h : s.pstate n = 2) : n < 24 := by
  by_contra hn
  have hzero : (s.reg 0x10).toNat >>> (16 + 2 * n) = 0 := by
    rw [Nat.shiftRight_eq_div_pow]
    exact Nat.div_eq_of_lt ((s.reg 0x10).isLt.trans_le (Nat.pow_le_pow_right (by decide) (by omega)))
  rw [State.pstate, State.rfld, fld, hzero] at h
  exact absurd h (by decide)

/-- The Sluice refuses packet `p`. -/
def State.submitRefused (s : State) (p : Packet) (status : Nat) (detail : W64) : Prop :=
  ∃ t, exec (.submit .good) s = .next t ∧ (s.deciding p).refusesTo t p status detail

/-- The Sluice admits packet `p`. -/
def State.submitAdmitted (s : State) (p : Packet) (status : Nat) (b : Option Nat) (k0 : Nat) (promise start : W64)
    (rest : Option Restore) : Prop :=
  ∃ t i r, exec (.submit .good) s = .next t ∧ (s.deciding p).admitsTo t i r p status b k0 promise start rest

section
variable (hp : nextSubmit s.sluice = some p) (hd : s.mayDecide = true)
include hp hd

theorem State.submitRefused_of {status : Nat} {detail : W64}
    (h : (s.deciding p).decideSubmit p = (s.deciding p).refuse p status detail) : s.submitRefused p status detail :=
  ⟨_, (State.exec_submit_decides hp hd).trans (congrArg _ h), State.refuse_spec ..⟩

theorem State.submitAdmitted_of (hrun : s.pstate p.part = 2) {status : Nat} {b : Option Nat} {k0 : Nat} {promise start : W64}
    {rest : Option Restore} (h : (s.deciding p).decideSubmit p = (s.deciding p).takeItem p status b k0 promise rest)
    (hrest : ∀ q, rest = some q → q.idx = p.sIdx) (hstart : start = if p.cls = 3 then ones64 else BitVec.ofNat 64 k0) :
    s.submitAdmitted p status b k0 promise start rest :=
  hstart ▸ ⟨_, _, _, (State.exec_submit_decides hp hd).trans (congrArg _ h),
    State.takeItem_spec _ (State.part_lt_of_running hrun) _ _ _ _ hrest⟩

variable (hw : (s.deciding p).takesWork p)
include hw

/-- A `SUBMIT` of no steps is answered at once. -/
theorem State.submit_noSteps (hsteps : p.sSteps = 0) : ∃ t, exec (.submit .good) s = .next t ∧
    t.compl = s.compl ++ [{ p.reply 0x00 s.devtime with promised := s.devtime }] ∧
    (t.part p.part).items = (s.part p.part).items :=
  ⟨_, (State.exec_submit_decides hp hd).trans (congrArg _ (State.decideSubmit_noSteps hw hsteps)), State.admitReply_compl ..,
    State.part_admitReply_keeps Part.items (fun _ _ => rfl) ..⟩

variable (hsteps : p.sSteps ≠ 0)
include hsteps

section
variable (hcls : p.cls < 3)
include hcls

/-- How a hard packet that takes any berth gets none. -/
theorem State.submit_hard_berthless (hname : s.namesAny p) :
    (s.classFull p → s.submitRefused p 0x12 0) ∧
    (¬ s.classFull p → s.rsvBerths p.part p.cls ≤ s.heldBy p.part p.cls → s.poolEmpty p.part → s.submitRefused p 0x10 0) ∧
    (¬ s.classFull p → ¬ (s.rsvBerths p.part p.cls ≤ s.heldBy p.part p.cls ∧ s.poolEmpty p.part) →
      s.freeBerth? p.part = none → s.submitRefused p 0x10 0) := by
  refine ⟨fun hfull => ?_, fun hfull hrsv hpool => ?_, fun hfull hpool hfree => ?_⟩
  · exact State.submitRefused_of hp hd (State.hard_full hw hsteps hcls hname hfull)
  · exact State.submitRefused_of hp hd (State.hard_noPool hw hsteps hcls hname hfull ⟨hrsv, hpool⟩)
  · exact State.submitRefused_of hp hd (State.hard_noneFree hw hsteps hcls hname hfull hpool hfree)

section
variable {b : Nat} (hb : s.getsBerth p b)
include hb

theorem State.submit_hard_below (hbelow : s.below p.part = true) : s.submitRefused p 0x11 0 :=
  State.submitRefused_of hp hd ((State.hard_placed hw hsteps hcls hb).trans (State.placeSubmit_below hbelow))

variable (hbelow : s.below p.part = false)
include hbelow

theorem State.submit_hard_noSlots (hmoored : p.moored = true) (hslots : s.t2slots p.part = 0) : s.submitRefused p 0x11 0 :=
  State.submitRefused_of hp hd
    ((State.hard_placed hw hsteps hcls hb).trans (State.placeSubmit_noSlots hbelow ⟨hmoored, hslots⟩))

variable (hslots : p.moored = true → s.t2slots p.part ≠ 0) {k : Nat} (hk : (s.deciding p).firstStep p = k)
include hslots hk

theorem State.submit_hard_far (hfar : s.stepNow p.part + 256 < k) : s.submitRefused p 0x11 0 :=
  State.submitRefused_of hp hd ((State.hard_placed hw hsteps hcls hb).trans
    (State.placeSubmit_far hbelow (fun hx => hslots hx.1 hx.2) hk hfar))

variable (hnear : k ≤ s.stepNow p.part + 256)
include hnear

/-- A hard packet with a berth starts at the first step at which its work fits, of those that the Sluice looks at. -/
theorem State.submit_hard_found {k0 promise : Nat}
    (hfound : s.search p (s.stepNow p.part) (s.stepNow p.part + 257 - k) k = some (k0, promise)) :
    s.submitAdmitted p (if promise ≤ p.param.toNat then 0x01 else 0x02) (some b) k0 (BitVec.ofNat 64 promise)
      (BitVec.ofNat 64 k0) ((s.deciding p).planRestore p) := by
  have hplace : (s.deciding p).decideSubmit p = (s.deciding p).placeSubmit p (some b) := State.hard_placed hw hsteps hcls hb
  have hsearch := (s.search_deciding p p ..).trans hfound
  exact State.submitAdmitted_of hp hd hw.running
    (hplace.trans (State.placeSubmit_found (s := s.deciding p) hbelow (fun hx => hslots hx.1 hx.2) hk hnear hsearch))
    (fun q => State.planRestore_idx) (if_neg (by omega)).symm

/-- Where no step is found, the refusal says whether its class may hold so much work at all. -/
theorem State.submit_hard_unfound (hnone : s.search p (s.stepNow p.part) (s.stepNow p.part + 257 - k) k = none) {status : Nat}
    (hstatus : (if (s.promiseAt p k ≤ p.param.toNat ∨ p.late = true) ∧
        s.overMax p.part p.cls p.sWeight (s.stepNow p.part) k (min (k + p.sSteps - 1) (s.stepNow p.part + 256)) = true
      then 0x12 else 0x11) = status) : s.submitRefused p status 0 := by
  have hplace : (s.deciding p).decideSubmit p = (s.deciding p).placeSubmit p (some b) := State.hard_placed hw hsteps hcls hb
  have hsearch := (s.search_deciding p p ..).trans hnone
  exact hstatus ▸ State.submitRefused_of hp hd
    (hplace.trans (State.placeSubmit_unfound (s := s.deciding p) hbelow (fun hx => hslots hx.1 hx.2) hk hnear hsearch))

end

end

section
variable (hcls : p.cls = 3)
include hcls

theorem State.submit_bulk_quota (hname : s.namesOpen p ∨ s.namesAny p) (hfull : 1024 ≤ s.bulkCount p.part) :
    s.submitRefused p 0x12 0 :=
  State.submitRefused_of hp hd ((State.decideSubmit_namedBulk hw hsteps hname hcls).trans (State.bulk_quota hfull))

variable (hroom : s.bulkCount p.part < 1024)
include hroom

theorem State.submit_bulk_named (hname : s.namesOpen p) :
    s.submitAdmitted p 0x02 (some p.sBerth) 0 ones64 ones64 none :=
  State.submitAdmitted_of hp hd hw.running
    ((State.decideSubmit_namedBulk hw hsteps (.inl hname) hcls).trans (State.bulk_named hroom hname.1)) nofun (if_pos hcls).symm

theorem State.submit_bulk_unmoored (hany : p.sBerth = berthAny) (hmoored : p.moored = false) :
    s.submitAdmitted p 0x02 none 0 ones64 ones64 none := by
  have hname : s.namesAny p := ⟨hany, by simp [hmoored]⟩
  exact State.submitAdmitted_of hp hd hw.running
    ((State.decideSubmit_namedBulk hw hsteps (.inr hname) hcls).trans (State.bulk_unmoored hroom hany hmoored)) nofun
    (if_pos hcls).symm

/-- A packet of `BULK` that names a mooring, which is there, takes a berth for its restore. -/
theorem State.submit_bulk_moored (hname : s.namesAny p) (hmoored : p.moored = true) :
    (s.classFull p → s.submitRefused p 0x12 0) ∧
    (¬ s.classFull p → s.poolEmpty p.part → s.submitRefused p 0x10 0) ∧
    (¬ s.classFull p → ¬ s.poolEmpty p.part → s.freeBerth? p.part = none → s.submitRefused p 0x10 0) ∧
    (∀ b, ¬ s.classFull p → ¬ s.poolEmpty p.part → s.freeBerth? p.part = some b →
      (s.t2slots p.part = 0 → s.submitRefused p 0x11 0) ∧
      (s.t2slots p.part ≠ 0 →
        s.submitAdmitted p 0x02 (some b) 0 ones64 ones64 ((s.deciding p).planRestore p))) := by
  have hbulk : (s.deciding p).decideSubmit p = (s.deciding p).bulkSubmit p :=
    State.decideSubmit_namedBulk hw hsteps (.inr hname) hcls
  have hany := hname.1
  refine ⟨fun hfull => ?_, fun hfull hpool => ?_, fun hfull hpool hfree => ?_,
    fun b hfull hpool hfree => ⟨fun hslots => ?_, fun hslots => ?_⟩⟩
  · exact State.submitRefused_of hp hd (hbulk.trans (State.bulk_full hroom hany hcls hmoored hfull))
  · exact State.submitRefused_of hp hd (hbulk.trans (State.bulk_noPool hroom hany hcls hmoored hfull hpool))
  · exact State.submitRefused_of hp hd (hbulk.trans (State.bulk_noneFree hroom hany hcls hmoored hfull hpool hfree))
  · exact State.submitRefused_of hp hd (hbulk.trans (State.bulk_noSlots hroom hany hcls hmoored hfull hpool hfree hslots))
  · exact State.submitAdmitted_of hp hd hw.running
      (hbulk.trans (State.bulk_restores (s := s.deciding p) hroom hany hcls hmoored hfull hpool hfree hslots))
      (fun q => State.planRestore_idx) (if_pos hcls).symm

end

end

/-- Settles O36: each clause of the decision is one of the lemmas above, in the state that the packet has left; the search
finds the first candidate that fits; a `CANCEL` goes by its target. -/
theorem admission : Obligations.Admission := by
  unfold Obligations.Admission
  refine ⟨fun s p => ?_, fun s p cur k fuel k0 promise => State.search_first, fun s ring p => ?_⟩
  · intro n c now u fails refuses named x idx slots from_ until_ rest takes hp hd
    refine ⟨fun hheld => State.submitRefused_of hp hd (State.decideSubmit_held hheld),
      fun hrun hover hopen => State.submitRefused_of hp hd (State.decideSubmit_closed hrun hover hopen),
      fun hrun hover hopen => State.submit_noSteps hp hd ⟨hrun, hover, hopen⟩, fun hrun hover hopen hsteps => ?_⟩
    have hw : (s.deciding p).takesWork p := ⟨hrun, hover, hopen⟩
    refine ⟨fun hany hbad => State.submitRefused_of hp hd (State.decideSubmit_badBerth hw hsteps hany hbad),
      fun hany hm hidx => State.submitRefused_of hp hd
        (State.decideSubmit_misnamed hw hsteps (State.namingBad_any hany hm hidx)),
      fun hcls b => ⟨fun hany hidx => State.submit_hard_berthless hp hd hw hsteps hcls ⟨hany, hidx⟩, fun hb => ?_⟩,
      fun hcls => ?_⟩
    · have hberth : s.getsBerth p b := hb.imp (fun ⟨hany, hm, hst, hx, heq⟩ => ⟨⟨hany, hm, hst, hx⟩, heq⟩)
        (fun ⟨hany, hidx, hrest⟩ => ⟨⟨hany, hidx⟩, hrest⟩)
      refine ⟨State.submit_hard_below hp hd hw hsteps hcls hberth, State.submit_hard_noSlots hp hd hw hsteps hcls hberth,
        fun hbelow hslots => ?_⟩
      intro ready k cur
      have hk : (s.deciding p).firstStep p = k := State.firstStep_eq ..
      refine ⟨State.submit_hard_far hp hd hw hsteps hcls hberth hbelow hslots hk, fun hnear => ⟨fun k0 promise hfound => ?_,
        fun hnone => ?_⟩⟩
      · exact State.submit_hard_found hp hd hw hsteps hcls hberth hbelow hslots hk hnear hfound
      · refine State.submit_hard_unfound hp hd hw hsteps hcls hberth hbelow hslots hk hnear hnone ?_
        rfl
    · refine ⟨fun hany hm hst hx hroom => State.submit_bulk_named hp hd hw hsteps hcls hroom ⟨hany, hm, hst, hx⟩,
        fun hany hm hroom => State.submit_bulk_unmoored hp hd hw hsteps hcls hroom hany hm,
        fun hname => State.submit_bulk_quota hp hd hw hsteps hcls hname,
        fun hany hm hidx hroom => State.submit_bulk_moored hp hd hw hsteps hcls hroom ⟨hany, fun _ => hidx⟩ hm⟩
  · intro g n target u hp hd hrun
    exact ⟨State.cancel_untargeted hp hd hrun, fun i hi => State.cancel_late hp hd hrun hi,
      fun i hi hc hb => State.cancel_marks hp hd hrun hi hc hb, fun i hi hc hb => State.cancel_removes hp hd hrun hi hc hb⟩

end Sys2Proof.Machine
end

section
/-!
PROOFS. Every element of a `TMMA` result, and the words that it keeps (R115-R117).
-/
namespace Sys2Proof.Machine

/-- Word `j` of row `i` of an accumulator. -/
def accWord (v : BitVec 32768) (i j : Nat) : Nat := fld v (1024 * i + 32 * j) 32

theorem accWord_setFld (v : BitVec 32768) {r k i j : Nat} (x : Nat) (hr : r < 32) (hk : k < 32) (hj : j < 32) :
    accWord (setFld v (1024 * r + 32 * k) 32 x) i j = if i = r ∧ j = k then x % 2 ^ 32 else accWord v i j := by
  unfold accWord
  split
  next h => rw [h.1, h.2, fld_setFld _ _ _ _ (by omega)]
  next h => rw [fld_setFld_ne _ _ _ _ _ _ (by omega)]

/-! ### An element fits in its word -/

theorem intSat_lt (i : Int) : (intSat 32 i).1 < 2 ^ 32 := by
  unfold intSat
  split
  · decide
  · split
    · decide
    · exact (BitVec.ofInt 32 i).isLt

theorem tmmaElem_lt (a b : W64) (buf : Collected) (rm : Rm) (r : W32) (zf : Bool) (c i j : Nat) :
    (tmmaElem a b buf rm r zf c i j).1 < 2 ^ 32 := by
  unfold tmmaElem
  simp only []
  split
  · exact intSat_lt _
  · exact BitVec.isLt _

/-! ### The elements in row-major order -/

section
variable (a b : W64) (buf : Collected) (rm : Rm) (zf : Bool) (old : BitVec 32768)

/-- The draw of the generator with which an element is rounded, `k` draws after `seed`: only stochastic rounding of operands
that are not integers takes any (R117). -/
def tmmaDraw (k : Nat) (seed : W32) : W32 := if rm = .sr ∧ !pairInt (cfgFmt a) then srAfter k seed else seed

theorem tmmaDraw_tmmaDraw (k : Nat) (seed : W32) : tmmaDraw a rm k (tmmaDraw a rm 1 seed) = tmmaDraw a rm (k + 1) seed := by
  unfold tmmaDraw
  split <;> rfl

theorem tmmaLoop_cons (n idx : Nat) (rest : List Nat) (acc : BitVec 32768) (seed : W32) (fl : Flags) :
    tmmaLoop a b buf rm zf old n (idx :: rest) (acc, seed, fl) =
      let x := tmmaElem a b buf rm (tmmaDraw a rm 1 seed) zf (accWord old (idx / n) (idx % n)) (idx / n) (idx % n)
      tmmaLoop a b buf rm zf old n rest
        (setFld acc (1024 * (idx / n) + 32 * (idx % n)) 32 x.1, tmmaDraw a rm 1 seed, fl ||| x.2) := rfl

/-- Elements `lo` to `lo + m - 1` in row-major order are written; every other word is kept. -/
theorem tmmaLoop_word {n : Nat} (hn : n ≤ 32) {j : Nat} (hj : j < 32) (i m lo : Nat) (acc : BitVec 32768) (seed : W32)
    (fl : Flags) (hm : lo + m ≤ 32 * n) :
    accWord (tmmaLoop a b buf rm zf old n (List.range' lo m) (acc, seed, fl)).1 i j =
      if j < n ∧ lo ≤ n * i + j ∧ n * i + j < lo + m then
        (tmmaElem a b buf rm (tmmaDraw a rm (n * i + j - lo + 1) seed) zf (accWord old i j) i j).1
      else accWord acc i j := by
  induction m generalizing lo acc seed fl with
  | zero => rw [if_neg (by omega)]; rfl
  | succ m ih =>
    have hpos : 0 < n := by omega
    have hrow : lo / n < 32 := Nat.div_lt_of_lt_mul (by omega)
    have hcol : lo % n < n := Nat.mod_lt _ hpos
    have hlo : n * (lo / n) + lo % n = lo := Nat.div_add_mod lo n
    simp only [List.range'_succ, tmmaLoop_cons]
    rw [ih (lo + 1) _ _ _ (by omega), accWord_setFld _ _ hrow (by omega) hj]
    by_cases hat : j < n ∧ n * i + j = lo
    · have hi : i = lo / n := by
        rw [← hat.2, Nat.mul_add_div hpos, Nat.div_eq_of_lt hat.1, Nat.add_zero]
      have hk : j = lo % n := by rw [← hat.2, Nat.mul_add_mod, Nat.mod_eq_of_lt hat.1]
      rw [if_neg (by omega), if_pos ⟨hi, hk⟩, if_pos (by omega), Nat.mod_eq_of_lt (tmmaElem_lt ..), ← hi, ← hk, hat.2,
        Nat.sub_self]
    · have hne : ¬ (i = lo / n ∧ j = lo % n) := fun ⟨hi, hk⟩ => hat ⟨by omega, by rw [hi, hk, hlo]⟩
      rw [if_neg hne]
      by_cases hin : j < n ∧ lo + 1 ≤ n * i + j ∧ n * i + j < lo + 1 + m
      · rw [if_pos hin, if_pos (by omega), tmmaDraw_tmmaDraw]
        congr 3
        omega
      · rw [if_neg hin, if_neg (by omega)]

/-- Each word of the result: an element of `ROWS` of A by `ROWS` of B, or the old word. -/
theorem tmmaResult_word (seed : W32) (ha : cfgRows a ≤ 32) (hb : cfgRows b ≤ 32) {i j : Nat} (hj : j < 32) :
    accWord (tmmaResult a b buf rm zf seed old).1 i j =
      if i < cfgRows a ∧ j < cfgRows b then
        (tmmaElem a b buf rm (tmmaDraw a rm (cfgRows b * i + j + 1) seed) zf (accWord old i j) i j).1
      else accWord old i j := by
  have hword := tmmaLoop_word a b buf rm zf old hb hj i (cfgRows a * cfgRows b) 0 old seed 0
    (by rw [Nat.zero_add]; exact Nat.mul_le_mul_right _ ha)
  simp only [Nat.zero_le, true_and, Nat.sub_zero, Nat.zero_add] at hword
  have hin : (j < cfgRows b ∧ cfgRows b * i + j < cfgRows a * cfgRows b) ↔ (i < cfgRows a ∧ j < cfgRows b) := by
    constructor
    · rintro ⟨h1, h2⟩
      exact ⟨lt_of_mul_lt_mul_left (a := cfgRows b) (by rw [Nat.mul_comm _ (cfgRows a)]; omega) (Nat.zero_le _), h1⟩
    · rintro ⟨h1, h2⟩
      have : cfgRows b * (i + 1) ≤ cfgRows b * cfgRows a := Nat.mul_le_mul_left _ h1
      rw [Nat.mul_succ, Nat.mul_comm _ (cfgRows a)] at this
      exact ⟨h2, by omega⟩
  rw [← List.range_eq_range'] at hword
  simp only [hin] at hword
  exact hword

end

/-- A sum of integers from left to right. -/
theorem foldl_add_eq_sum (f : Nat → Int) (l : List Nat) (z : Int) : l.foldl (fun s k => s + f k) z = z + (l.map f).sum := by
  induction l generalizing z with
  | nil => simp
  | cons k l ih => rw [List.foldl_cons, ih, List.map_cons, List.sum_cons, Int.add_assoc]

/-- Settles O20: the words by `tmmaResult_word`; an integer element by the definition, its sum taken from left to right. -/
theorem tmmaElements : Obligations.TmmaElements := by
  unfold Obligations.TmmaElements
  intro a b buf rm zf seed old i j n res word ha hb _ hj
  refine ⟨?_, fun r w hint => ?_⟩
  · have hword := tmmaResult_word a b buf rm zf old seed ha hb (i := i) hj
    simp only [tmmaDraw, Bool.not_eq_true'] at hword
    exact hword
  · simp only [tmmaElem, hint, if_true, foldl_add_eq_sum]

end Sys2Proof.Machine
end

section
/-!
PROOFS. The matrix engine with nothing in its queue: what issue, room in the queue, and the end of an instruction come to there
(R118, R133).
-/
namespace Sys2Proof.Machine

variable {s s1 s2 : State} {x : Iss} {c : Nat} {t : BitVec 2}

/-! ### Whether the engine is busy -/

theorem Thread.inMatrix_congr {y z : Thread} (h : y.wait = z.wait) : y.inMatrix = z.inMatrix := by
  simp only [Thread.inMatrix, h]

theorem Core.matrixBusy_eq_false {k : Core} :
    k.matrixBusy = false ↔ k.mx.queue = [] ∧ ∀ t, (rget k.thr (tix t)).inMatrix = false := by
  have hthr : k.thr.toList.any Thread.inMatrix = false ↔ ∀ t, (rget k.thr (tix t)).inMatrix = false := by
    simp only [List.any_eq_false, Bool.not_eq_true]
    constructor
    · exact fun h t => h _ (by simp [rget])
    · intro h y hy
      obtain ⟨i, hi, rfl⟩ := List.getElem_of_mem hy
      exact h (BitVec.ofFin ⟨i, by simpa using hi⟩)
  simp only [Core.matrixBusy, Bool.or_eq_false_iff, hthr, Bool.not_eq_false', List.isEmpty_iff]

/-- Whether it is depends on its queue and on what the threads wait in. -/
theorem Core.matrixBusy_congr {j k : Core} (hq : j.mx.queue = k.mx.queue) (ht : j.thr = k.thr) :
    j.matrixBusy = k.matrixBusy := by simp only [Core.matrixBusy, hq, ht]

/-- Where an instruction starts, every thread waits in what it waited in before. -/
theorem State.starts_wait {b : Option (BitVec 5 × Bool)} (h : s.starts x b = some s1) (t : BitVec 2) :
    (s1.thread x.core.toNat t).wait = (s.thread x.core.toNat t).wait := by
  by_cases ht : t = x.thr
  · rw [ht, State.starts_thread h]
    split <;> rfl
  · obtain ⟨tlb, hcore⟩ := State.starts_core h
    unfold State.thread
    rw [hcore]
    exact congrArg Thread.wait (rget_rset_ne _ _ fun e => ht (tix_inj e))

theorem State.starts_matrixBusy {b : Option (BitVec 5 × Bool)} (h : s.starts x b = some s1)
    (hm : (s.core x.core.toNat).matrixBusy = false) : (s1.core x.core.toNat).matrixBusy = false := by
  obtain ⟨hq, ht⟩ := Core.matrixBusy_eq_false.1 hm
  refine Core.matrixBusy_eq_false.2 ⟨by rw [(State.starts_engines h).1, hq], fun t => ?_⟩
  exact (Thread.inMatrix_congr (State.starts_wait h t)).trans (ht t)

/-! ### An engine at rest stays so -/

theorem State.engines_idle (hq : (s.core c).mx.queue = []) (hv : (s.core c).vx.queue = []) (n : Nat) : s.engines c n = s := by
  cases n with
  | zero => rfl
  | succ n => simp only [State.engines, State.engineStep, State.vecHead, hq, hv]

theorem State.armTfin_idle (hq : (s.core c).mx.queue = []) : s.armTfin c = s := by
  simp [State.armTfin, Matrix.nextTfin, hq]

/-- After the last instruction of the engine, nothing follows in either; pennant 16 is set unless a thread waits in an
instruction of it (R133). -/
theorem State.afterMatrix_idle (hq : (s.core c).mx.queue = []) (hv : (s.core c).vx.queue = []) (hd : (s.core c).vx.done = []) :
    s.afterMatrix c = if (s.core c).matrixBusy then s else s.setPenn c 16 := by
  simp only [State.afterMatrix, State.engines_idle hq hv, s.vecRetire_idle c hd, State.armTfin_idle hq]

/-- So it is after a change of the core that leaves its queue, its threads and the vector engine alone. -/
theorem State.EnginesIdle.afterMatrix (h : s.EnginesIdle c) (hb : (s.core c).matrixBusy = false) {f : Core → Core}
    (hq : (f (s.core c)).mx.queue = (s.core c).mx.queue) (ht : (f (s.core c)).thr = (s.core c).thr)
    (hv : (f (s.core c)).vx = (s.core c).vx) : (s.modCore c f).afterMatrix c = (s.modCore c f).setPenn c 16 := by
  rw [State.afterMatrix_idle (by rw [State.core_modCore, hq, h.mq]) (by rw [State.core_modCore, hv, h.vq])
    (by rw [State.core_modCore, hv, h.vd]), State.core_modCore, Core.matrixBusy_congr hq ht, hb]
  rfl

/-! ### Issue -/

theorem State.EnginesIdle.queueRoom (h : s.EnginesIdle c) (t : BitVec 2) : s.queueRoom c t = .ok s := by
  simp [State.queueRoom, h.mq]

theorem State.EnginesIdle.engineFree (h : s.EnginesIdle c) (t : BitVec 2) : s.engineFree c t = true := by
  simp [State.engineFree, Core.unsettled, h.accs, h.mq, h.vq]

/-- There is room for the accesses of a `TMMA`'s operands where nothing is in flight (R124, R217). -/
theorem State.Quiet.collectRoom (q : s.Quiet x.core.toNat x.thr) (a b : W64) : s.collectRoom x.core.toNat x.thr a b = .ok s := by
  unfold State.collectRoom
  split
  · rfl
  · simp [q.makeRoom, q.accs]

/-- A change of the thread that precedes the end of its instruction. -/
theorem State.after_modThread (s : State) (x : Iss) (f : Thread → Thread) :
    (s.modThread x.core.toNat x.thr f).after x id = s.after x f := by simp only [State.after, State.modThread_modThread, id]

section
variable {i : Info} {body : State → Res} (h : s.starts x i.base = some s1) (hl : i.legal = true) (hp : i.priv = false)
include h hl hp

theorem State.matrixIssue_done (hm : (s.core x.core.toNat).matrixBound x.thr = true) (hb : body s1 = .done s2) :
    s.matrixIssue x i body = .next (s2.after x id) := by
  unfold State.matrixIssue
  exact State.issue_done h hl (fun e => by rw [hp] at e; cases e) (by rw [State.starts_matrixBound h, if_pos hm, hb])

theorem State.matrixIssue_trap (hm : (s.core x.core.toNat).matrixBound x.thr = true) {e : Exc} (hb : body s1 = .trap s2 e)
    (hq : s2.Quiet x.core.toNat x.thr) : s.matrixIssue x i body = .next (s2.enterExc x.core.toNat x.thr e) := by
  unfold State.matrixIssue
  exact State.issue_trap h hl (fun e => by rw [hp] at e; cases e) (by rw [State.starts_matrixBound h, if_pos hm, hb]) hq

/-- A thread that is not bound to the engine (R83). -/
theorem State.matrixIssue_unbound (hm : (s.core x.core.toNat).matrixBound x.thr = false) :
    s.matrixIssue x i body = .next (s1.enterExc x.core.toNat x.thr { code := 0x0E, stval := 56 }) := by
  unfold State.matrixIssue
  refine State.issue_trap h hl (fun e => by rw [hp] at e; cases e) ?_ (State.starts_quiet h)
  rw [State.starts_matrixBound h, hm, State.unbound_nil]
  rfl

end

end Sys2Proof.Machine
end

section
/-!
PROOFS. `TMMA`, `TFIN`, `TZERO` and `TFREE` where they start (R111, R112, R114, R118, R120, R128, R129).
-/
namespace Sys2Proof.Machine

variable {s s1 : State} {x : Iss} {c : Nat} {t : BitVec 2}

/-! ### `TZERO` and `TFREE` -/

theorem Matrix.foldl_queue {α : Type} (p : α → Bool) (g : Matrix → α → Matrix) (hg : ∀ m a, (g m a).queue = m.queue)
    (l : List α) (m : Matrix) : (l.foldl (fun m a => if p a then g m a else m) m).queue = m.queue := by
  induction l generalizing m with
  | nil => rfl
  | cons a l ih =>
    rw [List.foldl_cons, ih]
    split
    · exact hg m a
    · rfl

@[simp] theorem Matrix.zeroMasks_queue (m : Matrix) (tiles : BitVec 8) (accs : BitVec 4) :
    (m.zeroMasks tiles accs).queue = m.queue := by
  unfold Matrix.zeroMasks
  simp only []
  rw [Matrix.foldl_queue, Matrix.foldl_queue] <;> exact fun _ _ => rfl

@[simp] theorem Matrix.markAccs_queue (m : Matrix) (accs types : BitVec 4) : (m.markAccs accs types).queue = m.queue := by
  unfold Matrix.markAccs
  rw [Matrix.foldl_queue]
  exact fun _ _ => rfl

@[simp] theorem Matrix.unmarkMasks_queue (m : Matrix) (tiles : BitVec 8) (accs : BitVec 4) :
    (m.unmarkMasks tiles accs).queue = m.queue := by
  unfold Matrix.unmarkMasks
  simp only []
  rw [Matrix.foldl_queue]
  exact fun _ _ => rfl

/-- On an idle engine the registers are zeroed at once, and the engine has then retired everything (R111, R133). -/
theorem State.EnginesIdle.zeroIssue (h : s.EnginesIdle c) (hb : (s.core c).matrixBusy = false) (tiles : BitVec 8)
    (accs : BitVec 4) {f : Matrix → Matrix} (hf : ∀ m, (f m).queue = m.queue) :
    s.zeroIssue c t tiles accs f =
      .done ((s.modCore c (fun k => { k with mx := f (k.mx.zeroMasks tiles accs) })).setPenn c 16) := by
  have hq : (f ((s.core c).mx.zeroMasks tiles accs)).queue = (s.core c).mx.queue := by rw [hf, Matrix.zeroMasks_queue]
  simp only [State.zeroIssue, h.soft, h.engineFree, if_true]
  exact congrArg Res.done (h.afterMatrix hb hq rfl rfl)

theorem exec_tzero_starts (h : s.starts x none = some s1) (hm : (s.core x.core.toNat).matrixBound x.thr = true)
    (hb : (s.core x.core.toNat).matrixBusy = false) (o : FmtTzero) (hrm : o.rm = 0) (hz : o.z = 0) :
    exec (.tzero x o) s = .next (((s1.modCore x.core.toNat (fun k => { k with
      mx := (k.mx.zeroMasks 0 o.accs).markAccs o.accs o.types })).setPenn x.core.toNat 16).after x id) :=
  State.matrixIssue_done h (by simp [hrm, hz]) rfl hm
    ((State.starts_quiet h).idle.zeroIssue (State.starts_matrixBusy h hb) _ _ (fun m => m.markAccs_queue ..))

theorem exec_tfree_starts (h : s.starts x none = some s1) (hm : (s.core x.core.toNat).matrixBound x.thr = true)
    (hb : (s.core x.core.toNat).matrixBusy = false) (o : FmtTfree) (hrm : o.rm = 0) (hz : o.z = 0) :
    exec (.tfree x o) s = .next (((s1.modCore x.core.toNat (fun k => { k with
      mx := (k.mx.zeroMasks o.tiles o.accs).unmarkMasks o.tiles o.accs })).setPenn x.core.toNat 16).after x id) :=
  State.matrixIssue_done h (by simp [hrm, hz]) rfl hm
    ((State.starts_quiet h).idle.zeroIssue (State.starts_matrixBusy h hb) _ _ (fun m => m.unmarkMasks_queue ..))

/-! ### `TFIN` -/

theorem exec_tfin_starts (h : s.starts x none = some s1) (hm : (s.core x.core.toNat).matrixBound x.thr = true)
    (o : FmtTfin) (hrm : o.rm = 0) (hz : o.z = 0) :
    exec (.tfin x o) s = .next (((s1.enqueue x.core.toNat x.thr (.tfin o.acc o.tag false)
      (fun m => m.unmarkAcc o.acc.toNat)).armTfin x.core.toNat).after x id) := by
  refine State.matrixIssue_done h (by simp [hrm, hz]) rfl hm ?_
  simp only [(State.starts_quiet h).idle.queueRoom]

theorem exec_tfin_unbound (h : s.starts x none = some s1) (hm : (s.core x.core.toNat).matrixBound x.thr = false)
    (o : FmtTfin) (hrm : o.rm = 0) (hz : o.z = 0) :
    exec (.tfin x o) s = .next (s1.enterExc x.core.toNat x.thr { code := 0x0E, stval := 56 }) :=
  State.matrixIssue_unbound h (by simp [hrm, hz]) rfl hm

/-! ### `TMMA` -/

/-- A shape fault with nothing in flight (R128, R129). -/
theorem State.Quiet.shapeFault (q : s.Quiet c t) (sub unit : Nat) (opndB : Bool) (minor : Nat) :
    s.shapeFault c t sub unit opndB minor =
      .trap (s.modCore c (fun k => { k with mx := { k.mx with tfault := tfaultWord sub unit opndB minor } }))
        { code := 0x05, stval := 0 } := by
  simp only [State.shapeFault, q.settle]
  rfl

/-- A note in `TFAULT` keeps the thread quiet. -/
theorem State.Quiet.tfault (q : s.Quiet c t) (w : W64) :
    (s.modCore c (fun k => { k with mx := { k.mx with tfault := w } })).Quiet c t :=
  ⟨State.listed_setCore .., by simpa [State.thread] using q.loads, by simp [q.accs], by simp [q.queue], by simp [q.vq],
    by simp [q.vd]⟩

theorem tmma_legal {o : FmtTmma} (hrm : o.rm ≠ 3) (hz : o.z = 0) : (o.rm != 3 && o.z == 0) = true := by
  simpa [hz] using hrm

section
variable (o : FmtTmma) (h : s.starts x none = some s1) (hrm : o.rm ≠ 3) (hz : o.z = 0)
include h hrm hz

theorem exec_tmma_unbound (hm : (s.core x.core.toNat).matrixBound x.thr = false) :
    exec (.tmma x o) s = .next (s1.enterExc x.core.toNat x.thr { code := 0x0E, stval := 56 }) :=
  State.matrixIssue_unbound h (tmma_legal hrm hz) rfl hm

variable (hm : (s.core x.core.toNat).matrixBound x.thr = true)
  (hsa : srcRowFault ((s.core x.core.toNat).mx.tcfgOf o.ta) = none)
  (hsb : srcRowFault ((s.core x.core.toNat).mx.tcfgOf o.tb) = none)
include hm hsa hsb

/-- A reserved format (R112, R128). -/
theorem exec_tmma_format (hf : 9 ≤ cfgFmt ((s.core x.core.toNat).mx.tcfgOf o.ta) ∨
      9 ≤ cfgFmt ((s.core x.core.toNat).mx.tcfgOf o.tb)) :
    exec (.tmma x o) s =
      .next (s1.enterExc x.core.toNat x.thr { code := 0x06, stval := BitVec.ofNat 64 (encTmma 56 2 x o) }) := by
  refine State.matrixIssue_trap h (tmma_legal hrm hz) rfl hm ?_ (State.starts_quiet h)
  simp only [(State.starts_engines h).1, hsa, hsb, Option.orElse_none, if_pos hf]
  rfl

variable (hfa : cfgFmt ((s.core x.core.toNat).mx.tcfgOf o.ta) < 9) (hfb : cfgFmt ((s.core x.core.toNat).mx.tcfgOf o.tb) < 9)
include hfa hfb

/-- A check of the shape that fails (R128, R129). -/
theorem exec_tmma_shape {sub unit : Nat} {opndB : Bool}
    (hs : tmmaShape (s.core x.core.toNat).mx o.acc o.ta o.tb o.zf = some (sub, unit, opndB)) :
    exec (.tmma x o) s = .next ((s1.modCore x.core.toNat (fun k => { k with mx := { k.mx with
      tfault := tfaultWord sub unit opndB 2 } })).enterExc x.core.toNat x.thr { code := 0x05, stval := 0 }) := by
  have hfmt := fun hf : 9 ≤ _ ∨ 9 ≤ _ => hf.elim (Nat.not_le.2 hfa) (Nat.not_le.2 hfb)
  refine State.matrixIssue_trap h (tmma_legal hrm hz) rfl hm ?_ ((State.starts_quiet h).tfault _)
  simp only [(State.starts_engines h).1, hsa, hsb, Option.orElse_none, if_neg hfmt, hs,
    (State.starts_quiet h).shapeFault]

/-- Every check passes (R114, R117, R118). -/
theorem exec_tmma_enters (hs : tmmaShape (s.core x.core.toNat).mx o.acc o.ta o.tb o.zf = none) :
    let a := (s.core x.core.toNat).mx.tcfgOf o.ta
    let b := (s.core x.core.toNat).mx.tcfgOf o.tb
    let seed := (s.thread x.core.toNat x.thr).srseed
    exec (.tmma x o) s = .next ((((s1.addCollect x.core.toNat x.thr a).addCollect x.core.toNat x.thr b).enqueue x.core.toNat
      x.thr (.tmma o.rm o.acc o.ta o.tb o.zf a b seed none) (fun m => m.markAcc o.acc.toNat (pairInt (cfgFmt a)))).after x
        (fun y => { y with srseed := srAfter (tmmaDraws a b (Rm.of o.rm)) seed })) := by
  have q := State.starts_quiet h
  have hseed : (s1.thread x.core.toNat x.thr).srseed = (s.thread x.core.toNat x.thr).srseed := by
    rw [State.starts_thread h]; split <;> rfl
  have hfmt := fun hf : 9 ≤ _ ∨ 9 ≤ _ => hf.elim (Nat.not_le.2 hfa) (Nat.not_le.2 hfb)
  intro a b seed
  rw [← State.after_modThread]
  refine State.matrixIssue_done h (tmma_legal hrm hz) rfl hm ?_
  simp only [(State.starts_engines h).1, hsa, hsb, Option.orElse_none, if_neg hfmt, hs,
    State.tmmaIssue, q.idle.queueRoom, q.collectRoom, hseed]
  rfl

end

/-- Settles O17: each clause is one of the lemmas above. -/
theorem matrixIssue : Obligations.MatrixIssue := by
  unfold Obligations.MatrixIssue
  refine ⟨fun x s s1 h hm => ?_, fun x s s1 h => ?_⟩
  · exact ⟨fun o hrm hz hsa hsb hfa hfb hs => exec_tmma_enters o h hrm hz hm hsa hsb hfa hfb hs,
      fun o hrm hz => exec_tfin_starts h hm o hrm hz, fun o hrm hz hb => exec_tzero_starts h hm hb o hrm hz,
      fun o hrm hz hb => exec_tfree_starts h hm hb o hrm hz⟩
  · exact ⟨fun o hrm hz => ⟨exec_tmma_unbound o h hrm hz, fun hm hsa hsb => ⟨exec_tmma_format o h hrm hz hm hsa hsb,
        fun hfa hfb _ _ _ hs => exec_tmma_shape o h hrm hz hm hsa hsb hfa hfb hs⟩⟩,
      fun o hrm hz hm => exec_tfin_unbound h hm o hrm hz⟩

end Sys2Proof.Machine
end

section
/-!
PROOFS. Multi-row accesses of an instruction on a core with nothing in flight (R123, R217, R218): what their resolution, their
entry of the scoreboard and their count leave alone, and what a read and a write of all lines come to.
-/
namespace Sys2Proof.Machine

variable {s s1 s2 s3 : State} {x : Iss} {c : Nat} {t : BitVec 2}

@[simp] theorem State.homeUp_modCore (s : State) (c : Nat) (f : Core → Core) (pa : Nat) :
    (s.modCore c f).homeUp pa = s.homeUp pa := rfl

/-! ### What the parts of an access keep -/

/-- The threads, engines and accesses of core `c` are the same in both states. -/
structure State.SameWork (s : State) (c : Nat) (u : State) : Prop where
  listed : s.listed c → u.listed c
  thr : (u.core c).thr = (s.core c).thr
  mx : (u.core c).mx = (s.core c).mx
  vx : (u.core c).vx = (s.core c).vx
  accs : (u.core c).mem.accs = (s.core c).mem.accs

namespace State.SameWork

theorem refl (s : State) (c : Nat) : s.SameWork c s := ⟨id, rfl, rfl, rfl, rfl⟩

theorem trans (h : s1.SameWork c s2) (h' : s2.SameWork c s3) : s1.SameWork c s3 :=
  ⟨fun hl => h'.listed (h.listed hl), h'.thr.trans h.thr, h'.mx.trans h.mx, h'.vx.trans h.vx, h'.accs.trans h.accs⟩

theorem thread (h : s.SameWork c s1) (t : BitVec 2) : s1.thread c t = s.thread c t := by
  unfold State.thread
  rw [h.thr]

theorem quiet (h : s.SameWork c s1) (q : s.Quiet c t) : s1.Quiet c t :=
  ⟨h.listed q.listed, by rw [h.thread, q.loads], by rw [h.accs, q.accs], by rw [h.mx, q.queue], by rw [h.vx, q.vq],
    by rw [h.vx, q.vd]⟩

theorem resolve (s : State) (c : Nat) (ea : W64) (need : Need) (user : Bool) :
    s.SameWork c (s.resolve c ea need user).1 := by
  rcases s.resolve_frame c ea need user with e | ⟨tlb, e⟩ <;> rw [e]
  · exact refl s c
  · exact ⟨fun _ => State.listed_setCore .., by simp, by simp, by simp, by simp⟩

theorem resolveLine (s : State) (c : Nat) (need : Need) (user : Bool) (len : Nat) (l : RowLine) :
    s.SameWork c (s.resolveLine c need user len l).1 := by
  have hr := resolve s c l.ea need user
  unfold State.resolveLine
  split
  · exact refl s c
  · split <;> next e => rw [e] at hr; exact hr

theorem resolveLines (s : State) (c : Nat) (need : Need) (user : Bool) (len : Nat) (ls : List RowLine) :
    s.SameWork c (s.resolveLines c need user len ls).1 := by
  induction ls generalizing s with
  | nil => exact refl s c
  | cons l ls ih =>
    have hl := resolveLine s c need user len l
    unfold State.resolveLines
    split
    next e => rw [e] at hl; exact hl
    next u r e =>
      rw [e] at hl
      have hls := hl.trans (ih u)
      split <;> next e' => rw [e'] at hls; exact hls

theorem of_resolveLines {need : Need} {user : Bool} {len : Nat} {ls : List RowLine}
    {r : Except Exc (List (W64 × Resolved))} (h : s.resolveLines c need user len ls = (s1, r)) : s.SameWork c s1 := by
  have hw := resolveLines s c need user len ls
  rwa [h] at hw

end State.SameWork

theorem Core.foldl_cnt {α : Type} (f : Core → α → Core) (hf : ∀ k a, ∃ cnt, f k a = { k with cnt := cnt }) (l : List α)
    (k : Core) : ∃ cnt, l.foldl f k = { k with cnt := cnt } := by
  induction l generalizing k with
  | nil => exact ⟨k.cnt, rfl⟩
  | cons a l ih =>
    obtain ⟨cnt, h⟩ := hf k a
    obtain ⟨cnt', h'⟩ := ih { k with cnt := cnt }
    exact ⟨cnt', by rw [List.foldl_cons, h, h']⟩

theorem Core.countLine_eq (k : Core) (ea : W64) (p : Place) (w : Bool) : ∃ cnt, k.countLine ea p w = { k with cnt := cnt } := by
  unfold Core.countLine
  split
  · exact ⟨_, rfl⟩
  · exact ⟨k.cnt, rfl⟩

/-- The count of lines changes counters alone (R401). -/
theorem State.countLines_eq (s : State) (c : Nat) (ls : List (W64 × Resolved)) (w : Bool) :
    ∃ cnt, s.countLines c ls w = s.modCore c (fun k => { k with cnt := cnt }) := by
  refine (Core.foldl_cnt _ (fun k p => ?_) ls (s.core c)).imp fun cnt h => congrArg (s.setCore c) h
  split
  · exact ⟨k.cnt, rfl⟩
  · exact k.countLine_eq ..

theorem State.SameWork.countLines (s : State) (c : Nat) (ls : List (W64 × Resolved)) (w : Bool) :
    s.SameWork c (s.countLines c ls w) := by
  obtain ⟨cnt, h⟩ := s.countLines_eq c ls w
  rw [h]
  exact ⟨fun _ => State.listed_setCore .., by simp, by simp, by simp, by simp⟩

/-! ### The entry of the scoreboard -/

/-- With nothing else in flight, the access of many lines takes its number, and holds the only entry. -/
theorem Core.addLines_alone {k : Core} (h : k.mem.accs = []) (c : Nat) (t : BitVec 2) (ls : List RowLine) (len : Nat) (w : Bool) :
    ∀ a ∈ (k.addLines c t ls len w).mem.accs, a.id = k.mem.nextId ∧ a.alone = true := by
  unfold Core.addLines
  split
  · simp [Core.addAcc, h, Acc.alone]
  · simp [h]

/-- It is brought forward by its instruction alone, so that its lines find nothing to wait for in the scoreboard. -/
theorem State.orderLines_alone (h : ∀ a ∈ (s.core c).mem.accs, a.alone = true) {id : Nat} {ls : List (W64 × Resolved)}
    {w : Bool} {len : Nat} (ho : s.orderLines c t id ls w len = .ok s1) : s1 = s := by
  have hf : (s.core c).forcible = [] := by
    unfold Core.forcible
    rw [List.filter_eq_nil_iff.2 (fun a ha => by simp [h a ha])]
    rfl
  unfold State.orderLines at ho
  simp only [hf, List.filter_nil, State.forceList] at ho
  split at ho
  · exact (Drain.ok.inj ho).symm
  · cases ho

theorem Core.addLines_keeps (k : Core) (c : Nat) (t : BitVec 2) (ls : List RowLine) (len : Nat) (w : Bool) :
    (k.addLines c t ls len w).thr = k.thr ∧ (k.addLines c t ls len w).mx = k.mx ∧ (k.addLines c t ls len w).vx = k.vx := by
  unfold Core.addLines
  split <;> exact ⟨rfl, rfl, rfl⟩

/-- Once the access has taken its entry, and given it up again after what changes counters alone, the core's work is as
before. -/
theorem State.SameWork.entry (h : (s.core c).mem.accs = []) {ls : List RowLine} {len : Nat} {w : Bool}
    (hu : (s.modCore c (fun k => k.addLines c t ls len w)).SameWork c s1) :
    s.SameWork c (s1.modCore c (fun k => k.dropAcc (s.core c).mem.nextId)) := by
  obtain ⟨-, hthr, hmx, hvx, haccs⟩ := hu
  rw [State.core_modCore] at hthr hmx hvx haccs
  obtain ⟨kthr, kmx, kvx⟩ := (s.core c).addLines_keeps c t ls len w
  refine ⟨fun _ => State.listed_setCore .., ?_, ?_, ?_, ?_⟩ <;> rw [State.core_modCore]
  · exact hthr.trans kthr
  · exact hmx.trans kmx
  · exact hvx.trans kvx
  · rw [h]
    refine List.filter_eq_nil_iff.2 fun a ha => ?_
    rw [haccs] at ha
    simp [(Core.addLines_alone h c t ls len w a ha).1]

/-! ### All lines read, all lines written -/

/-- Lines that nothing holds back: they resolve, and then find nothing to wait for under their entry. -/
theorem State.linesOf_cases (q : s.Quiet x.core.toNat x.thr) {need : Need} {w : Bool} (hneed : (need == .write) = w)
    {len id : Nat} {lines : List RowLine} {ls : List (W64 × Resolved)}
    (h : s.linesOf x need len lines = some (s3, id, ls)) :
    ∃ s2, s.resolveLines x.core.toNat need (!(s.thread x.core.toNat x.thr).sup) len lines = (s2, .ok ls) ∧
      s.SameWork x.core.toNat s2 ∧ id = (s2.core x.core.toNat).mem.nextId ∧
      s3 = s2.modCore x.core.toNat (fun k => k.addLines x.core.toNat x.thr lines len w) ∧
      s3.orderLines x.core.toNat x.thr id ls w len = .ok s3 := by
  subst hneed
  unfold State.linesOf at h
  simp only [] at h
  split at h
  next s2 ls' hr =>
    have hw := State.SameWork.of_resolveLines hr
    split at h
    next s4 ho =>
      obtain ⟨rfl, rfl, rfl⟩ := Option.some.inj h
      obtain rfl := State.orderLines_alone (fun a ha => by
        rw [State.core_modCore] at ha
        exact (Core.addLines_alone (hw.quiet q).accs _ _ _ _ _ a ha).2) ho
      exact ⟨s2, hr, hw, rfl, rfl, ho⟩
    next => cases h
  next => cases h

/-- A multi-row read that nothing holds back (R123). -/
theorem State.multiRead_of_bytesOf (q : s.Quiet x.core.toNat x.thr) {len : Nat} {lines : List RowLine} {bs : List Byte}
    (h : s.bytesOf x len lines = some (s2, bs)) (kind : GatherKind) (fin : State → List Byte → Res) :
    s.multiRead x.core.toNat x.thr kind lines len fin = fin s2 bs ∧ s.SameWork x.core.toNat s2 := by
  unfold State.bytesOf at h
  split at h
  next s3 id ls hl =>
    obtain ⟨s4, hr, hw, rfl, rfl, ho⟩ := State.linesOf_cases (w := false) q rfl hl
    have q4 := hw.quiet q
    split at h
    next bs' hb =>
      split at h
      next hall =>
        obtain ⟨rfl, rfl⟩ := Option.some.inj h
        refine ⟨?_, hw.trans (.entry q4.accs (.countLines ..))⟩
        simp only [State.multiRead, hr, q4.makeRoom, State.linesRead, ho, hb, hall, if_true]
      next => cases h
    next => cases h
  next => cases h

/-- A multi-row write that nothing holds back (R123), of bytes of the matrix engine. -/
theorem State.multiWrite_of_placesOf (q : s.Quiet x.core.toNat x.thr) {lines : List RowLine} {ls : List (W64 × Resolved)}
    (h : s.placesOf x lines = some (s2, ls)) (bytes : Matrix → List (List Byte)) (fin : State → State) :
    s.multiWrite x.core.toNat x.thr lines (fun u => bytes (u.core x.core.toNat).mx) fin =
      .done (fin (s2.writeLines x.core.toNat x.thr ls (bytes (s2.core x.core.toNat).mx))) := by
  unfold State.placesOf at h
  split at h
  next s3 id ls hl =>
    obtain ⟨s4, hr, hw, rfl, rfl, ho⟩ := State.linesOf_cases (w := true) q rfl hl
    have q4 := hw.quiet q
    split at h
    next hup =>
      obtain ⟨rfl, rfl⟩ := Option.some.inj h
      simp only [State.multiWrite, hr, q4.makeRoom, ho]
      rw [List.find?_eq_none.2 fun p hp => ?_, (State.SameWork.countLines ..).mx]
      have hp := List.all_eq_true.1 hup p hp
      split
      next pa hpl => rw [hpl] at hp; simpa using hp
      next => exact Bool.false_ne_true
    next => cases h
  next => cases h

end Sys2Proof.Machine
end

section
/-!
PROOFS. `TLD`, `TST`, `TSLD`, `TSST`, `TALD` and `TAST` where they start, and the rows that a waiting `TLD` or `TST` moves (R121,
R126).
-/
namespace Sys2Proof.Machine

variable {s s1 s2 s3 : State} {x : Iss} {c : Nat} {t : BitVec 2}

/-! ### Where a memory instruction of the engine starts -/

section
variable {i : Info} {op : TileMem} {o : FmtCM} {need : Need} {all checked : State → List RowLine} {mark : Matrix → Matrix}
  {f : State → List RowLine → Res}
  (h : s.starts x i.base = some s1) (hl : i.legal = true) (hp : i.priv = false)
  (hm : (s.core x.core.toNat).matrixBound x.thr = true)
include h hl hp hm

/-- On an idle engine it runs at once. -/
theorem State.matrixMem_starts :
    s.matrixMem x i op o need all checked mark f = s1.runBody s x (fun u => f u (checked u)) := by
  have q := State.starts_quiet h
  unfold State.matrixMem
  rw [State.issue_of_starts h hl (fun e => by rw [hp] at e; cases e)]
  simp only [State.runBody, State.starts_matrixBound h, hm, q.idle.soft, q.idle.engineFree, Bool.not_true, Bool.false_eq_true,
    if_false, if_true]

theorem State.matrixMem_done (hf : f s1 (checked s1) = .done s2) :
    s.matrixMem x i op o need all checked mark f = .next (s2.after x id) := by
  rw [State.matrixMem_starts h hl hp hm]
  simp only [State.runBody, hf, State.starts_hw h]
  rfl

theorem State.matrixMem_wait (hf : f s1 (checked s1) = .wait s2) :
    s.matrixMem x i op o need all checked mark f = .next s2 := by
  rw [State.matrixMem_starts h hl hp hm]
  simp only [State.runBody, hf, State.starts_hw h]

end

/-! ### The addresses (R85, R121) -/

/-- The address of row 0, and the row stride. -/
def State.cmBase (s : State) (x : Iss) (o : FmtCM) : W64 := s.gAt x (baseReg o.bn) + o.disp.signExtend 64 * 64
def State.cmStride (s : State) (x : Iss) (o : FmtCM) : W64 := s.gAt x (BitVec.ofNat 5 (16 + o.bn.toNat))

section
variable {b : Option (BitVec 5 × Bool)} (h : s.starts x b = some s1) (o : FmtCM)
include h

theorem State.starts_eaCM : (s1.thread x.core.toNat x.thr).eaCM o = s.cmBase x o := by
  rw [Thread.eaCM, State.starts_getG h, sext_toNat, State.cmBase]

theorem State.starts_strideCM : (s1.thread x.core.toNat x.thr).strideCM o = s.cmStride x o := State.starts_getG h _

theorem State.starts_cmLines (rows per : Nat) :
    s1.cmLines x o rows per = rowLines (s.cmBase x o) (s.cmStride x o) rows per := by
  simp only [State.cmLines, State.starts_eaCM h, State.starts_strideCM h]

theorem State.starts_tileRows :
    s1.tileRows x o =
      rowLines (s.cmBase x o) (s.cmStride x o) (cfgRows ((s.core x.core.toNat).mx.tcfgOf (cmTile o))) 1 := by
  simp only [State.tileRows, State.starts_eaCM h, State.starts_strideCM h, (State.starts_engines h).1]

end

/-! ### Scale registers and accumulators -/

section
variable {o : FmtCM} (h : s.starts x (some (baseReg o.bn, true)) = some s1)
  (hm : (s.core x.core.toNat).matrixBound x.thr = true)
include h

/-- A read of all lines that leaves the engine idle. -/
theorem State.multiRead_retires (hb : (s.core x.core.toNat).matrixBusy = false) {lines : List RowLine} {bs : List Byte}
    (hbs : s1.bytesOf x 64 lines = some (s2, bs)) (kind : GatherKind) {f : Core → List Byte → Core}
    (hq : ∀ k, (f k bs).mx.queue = k.mx.queue) (ht : ∀ k, (f k bs).thr = k.thr) (hv : ∀ k, (f k bs).vx = k.vx) :
    s1.multiRead x.core.toNat x.thr kind lines 64
        (fun u bs => .done ((u.modCore x.core.toNat (fun k => f k bs)).afterMatrix x.core.toNat)) =
      .done ((s2.modCore x.core.toNat (fun k => f k bs)).setPenn x.core.toNat 16) := by
  obtain ⟨hread, hw⟩ := State.multiRead_of_bytesOf (State.starts_quiet h) hbs kind
    (fun u bs => .done ((u.modCore x.core.toNat (fun k => f k bs)).afterMatrix x.core.toNat))
  have hb2 : (s2.core x.core.toNat).matrixBusy = false :=
    (Core.matrixBusy_congr (congrArg Matrix.queue hw.mx) hw.thr).trans (State.starts_matrixBusy h hb)
  rw [hread, (hw.quiet (State.starts_quiet h)).idle.afterMatrix hb2 (hq _) (ht _) (hv _)]

include hm

theorem exec_tsld_starts (hvr : o.vr.toNat < 8) (hb : (s.core x.core.toNat).matrixBusy = false) {bs : List Byte}
    (hbs : s1.bytesOf x 64 (rowLines (s.cmBase x o) (s.cmStride x o) 8 1) = some (s2, bs)) :
    exec (.tsld x o) s = .next (((s2.modCore x.core.toNat (fun k => k.putScales (cmTile o) bs)).setPenn x.core.toNat 16).after
      x id) := by
  rw [exec_tsld, execTsld]
  refine State.matrixMem_done h (decide_eq_true hvr) rfl hm ?_
  rw [← State.starts_cmLines h] at hbs
  exact State.multiRead_retires h hb hbs _ (fun _ => rfl) (fun _ => rfl) (fun _ => rfl)

theorem exec_tald_starts (hvr : o.vr.toNat < 8) (hb : (s.core x.core.toNat).matrixBusy = false) {bs : List Byte}
    (hbs : s1.bytesOf x 64 (rowLines (s.cmBase x o) (s.cmStride x o) 32 2) = some (s2, bs)) :
    exec (.tald x o) s = .next (((s2.modCore x.core.toNat (fun k => k.putAcc (cmAcc o) (o.vr.getLsbD 2) bs)).setPenn
      x.core.toNat 16).after x id) := by
  rw [exec_tald, execTald]
  refine State.matrixMem_done h (decide_eq_true hvr) rfl hm ?_
  rw [← State.starts_cmLines h] at hbs
  exact State.multiRead_retires h hb hbs _ (fun _ => rfl) (fun _ => rfl) (fun _ => rfl)

theorem exec_tsst_starts (hvr : o.vr.toNat < 8) {ls : List (W64 × Resolved)}
    (hls : s1.placesOf x (rowLines (s.cmBase x o) (s.cmStride x o) 8 1) = some (s2, ls)) :
    exec (.tsst x o) s = .next ((((s2.writeLines x.core.toNat x.thr ls
      (cutLines ((s2.core x.core.toNat).mx.scales (cmTile o)).toNat 8)).modCore x.core.toNat
        (fun k => { k with mx := k.mx.markTile (cmTile o).toNat })).afterMatrix x.core.toNat).after x id) := by
  rw [exec_tsst, execTsst]
  refine State.matrixMem_done h (decide_eq_true hvr) rfl hm ?_
  rw [← State.starts_cmLines h] at hls
  exact State.multiWrite_of_placesOf (State.starts_quiet h) hls (fun m => cutLines (m.scales (cmTile o)).toNat 8) _

theorem exec_tast_starts (hvr : o.vr.toNat < 4) {ls : List (W64 × Resolved)}
    (hls : s1.placesOf x (rowLines (s.cmBase x o) (s.cmStride x o) 32 2) = some (s2, ls)) :
    exec (.tast x o) s = .next (((s2.writeLines x.core.toNat x.thr ls
      (cutLines ((s2.core x.core.toNat).mx.acc (cmAcc o)).toNat 64)).afterMatrix x.core.toNat).after x id) := by
  rw [exec_tast, execTast]
  refine State.matrixMem_done h (decide_eq_true hvr) rfl hm ?_
  rw [← State.starts_cmLines h] at hls
  exact State.multiWrite_of_placesOf (State.starts_quiet h) hls (fun m => cutLines (m.acc (cmAcc o)).toNat 64) _

end

/-! ### Tile rows -/

theorem State.thread_addLines (s : State) (c : Nat) (t : BitVec 2) (ls : List RowLine) (len : Nat) (w : Bool) :
    (s.modCore c (fun k => k.addLines c t ls len w)).thread c t = s.thread c t := by
  simp only [State.thread, State.core_modCore, (Core.addLines_keeps ..).1]

theorem State.modThread_congr {f g : Thread → Thread} (hfg : f (s.thread c t) = g (s.thread c t)) :
    s.modThread c t f = s.modThread c t g := congrArg (s.setThread c t) hfg

/-- The rows that such a `TLD` or `TST` moves. -/
def State.cmRows (s : State) (x : Iss) (o : FmtCM) : List RowLine :=
  rowLines (s.cmBase x o) (s.cmStride x o) (cfgRows ((s.core x.core.toNat).mx.tcfgOf (cmTile o))) 1

section
variable {o : FmtCM} (h : s.starts x (some (baseReg o.bn, true)) = some s1) {store : Bool} {ls : List (W64 × Resolved)}
  (hrows : rowsOk ((s.core x.core.toNat).mx.tcfgOf (cmTile o)) = true)
  (hfirst : fld (s.core x.core.toNat).mx.trow 0 5 < cfgRows ((s.core x.core.toNat).mx.tcfgOf (cmTile o)))
include h hrows hfirst

/-- A `TLD` or `TST` of valid rows, the first of which resolves (R126): its access takes an entry for all of them, and its
thread waits. -/
theorem State.rowsStart_starts (hls : s1.resolveLines x.core.toNat (if store then .write else .read) (!s.supAt x) 64
      (s1.firstRow x (s1.tileRows x o)) = (s2, .ok ls)) :
    s1.rowsStart x o store (s1.tileRows x o) = .wait ((s2.modCore x.core.toNat (fun k =>
      k.addLines x.core.toNat x.thr (s1.tileRows x o) 64 store)).modThread x.core.toNat x.thr (fun y =>
        { y with wait := some (.rows (s2.nextAcc x) store (cmTile o) (s.cmBase x o) (s.cmStride x o)) })) := by
  have hw := State.SameWork.of_resolveLines hls
  have hshape : ¬ ((!rowsOk ((s.core x.core.toNat).mx.tcfgOf (cmTile o))) = true ∨
      cfgRows ((s.core x.core.toNat).mx.tcfgOf (cmTile o)) ≤ fld (s.core x.core.toNat).mx.trow 0 5) := by
    rw [hrows]
    rintro (h | h)
    · cases h
    · omega
  have hthr : (s2.modCore x.core.toNat (fun k => k.addLines x.core.toNat x.thr (s1.tileRows x o) 64 store)).thread
      x.core.toNat x.thr = s1.thread x.core.toNat x.thr := by
    rw [State.thread_addLines, hw.thread]
  simp only [State.rowsStart, State.starts_sup h, hls, hw.mx, (State.starts_engines h).1, if_neg hshape,
    (hw.quiet (State.starts_quiet h)).makeRoom]
  refine congrArg Res.wait (State.modThread_congr ?_)
  rw [hthr, State.starts_eaCM h, State.starts_strideCM h]
  rfl

theorem exec_rows_starts (hm : (s.core x.core.toNat).matrixBound x.thr = true) (hvr : o.vr.toNat < 8)
    (hls : s1.resolveLines x.core.toNat (if store then .write else .read) (!s.supAt x) 64
      (((s.cmRows x o).drop (fld (s.core x.core.toNat).mx.trow 0 5)).take 1) = (s2, .ok ls)) :
    exec (if store then .tst x o else .tld x o) s = .next ((s2.modCore x.core.toNat (fun k =>
      k.addLines x.core.toNat x.thr (s.cmRows x o) 64 store)).modThread x.core.toNat x.thr (fun y =>
        { y with wait := some (.rows (s2.nextAcc x) store (cmTile o) (s.cmBase x o) (s.cmStride x o)) })) := by
  rw [State.cmRows, ← State.starts_tileRows h] at hls ⊢
  rw [← (State.starts_engines h).1] at hls
  have hstart := State.rowsStart_starts h hrows hfirst hls
  cases store
  · rw [if_neg Bool.false_ne_true, exec_tld, execTld]
    exact State.matrixMem_wait h (decide_eq_true hvr) rfl hm hstart
  · rw [if_pos rfl, exec_tst, execTst]
    exact State.matrixMem_wait h (decide_eq_true hvr) rfl hm hstart

end

/-! ### The rows of a waiting `TLD` or `TST` -/

section
variable {core : BitVec 10} {id : Nat} {tile : BitVec 3} {base stride ea : W64} {dest : Resolved}

/-- The address of the row that `TROW` names. -/
def State.rowAddr (s : State) (c : Nat) (base stride : W64) : W64 :=
  base + BitVec.ofNat 64 (fld (s.core c).mx.trow 0 5) * stride

/-- What the event finds: a row is to move, whose line resolves and waits for nothing. -/
structure State.RowMoves (s : State) (c : Nat) (t : BitVec 2) (id : Nat) (store : Bool) (tile : BitVec 3) (base stride ea : W64)
    (dest : Resolved) (s3 : State) : Prop where
  wait : (s.thread c t).wait = some (.rows id store tile base stride)
  runs : s.coreRuns c = true
  calm : s.eventDue c t = false
  lines : ∃ s2, s.resolveLines c (if store then .write else .read) (!(s.thread c t).sup) 64
      [⟨s.rowAddr c base stride, s.rowAddr c base stride⟩] = (s2, .ok [(ea, dest)]) ∧
    s2.orderLines c t id [(ea, dest)] store 64 = .ok s3

theorem State.RowMoves.exec_eq {store : Bool} (h : s.RowMoves core.toNat t id store tile base stride ea dest s3) :
    exec (.tileRowTransfer core t .good) s = s.rowMove core.toNat t id store tile base stride .good := by
  simp [exec_tileRowTransfer, execTileRowTransfer, h.wait, h.runs, h.calm]

/-- A row is loaded into the tile, which is then in use (R126). -/
theorem State.RowMoves.load (h : s.RowMoves core.toNat t id false tile base stride ea dest s3) {pa : Nat}
    (hpl : dest.place = .here pa) (hp : s3.poisoned pa 64 = false) (hup : s3.homeUp pa = true) :
    exec (.tileRowTransfer core t .good) s = .next (((s3.countLines core.toNat [(ea, dest)] false).modCore core.toNat (fun k =>
      { k with mx := k.mx.loadRow tile (fld (s.core core.toNat).mx.trow 0 5) (Memory.readBytes s3.mem pa 64) })).rowDone
        core.toNat t id false tile (fld (s.core core.toNat).mx.trow 0 5) base stride) := by
  obtain ⟨s2, hr, ho⟩ := h.lines
  obtain ⟨place, space, lo⟩ := dest
  obtain rfl : place = .here pa := hpl
  rw [h.exec_eq, State.rowMove]
  simp only [State.rowAddr, Bool.false_eq_true, if_false] at hr
  have hread : (s3.countLines core.toNat [(ea, ⟨.here pa, space, lo⟩)] false).homeRead pa 64 .good =
      (s3.countLines core.toNat [(ea, ⟨.here pa, space, lo⟩)] false, Memory.readBytes s3.mem pa 64, false) := by
    show (_, _, s3.poisoned pa 64 || !s3.homeUp pa) = _
    rw [hp, hup]
    rfl
  simp only [hr, ho, hread, Bool.false_eq_true, if_false]

/-- A row is stored from the tile (R126). -/
theorem State.RowMoves.store (h : s.RowMoves core.toNat t id true tile base stride ea dest s3)
    (hup : ∀ pa, dest.place = .here pa → s3.homeUp pa = true) :
    exec (.tileRowTransfer core t .good) s = .next (((s3.countLines core.toNat [(ea, dest)] true).writeLines core.toNat t
      [(ea, dest)] [toLE 64 (fld ((s3.core core.toNat).mx.tile tile) (512 * fld (s.core core.toNat).mx.trow 0 5) 512)]).rowDone
        core.toNat t id true tile (fld (s.core core.toNat).mx.trow 0 5) base stride) := by
  obtain ⟨s2, hr, ho⟩ := h.lines
  obtain ⟨place, space, lo⟩ := dest
  simp only [State.rowAddr] at hr
  rw [h.exec_eq, State.rowMove]
  simp only [hr, ho, (State.SameWork.countLines ..).mx]
  cases place with
  | here pa =>
    have hpa : (s3.countLines core.toNat [(ea, ⟨.here pa, space, lo⟩)] true).homeUp pa = true := hup pa rfl
    simp only [hpa, if_true]
  | remote g => rfl

end

/-- Settles O18: each clause is one of the lemmas above. -/
theorem matrixMemory : Obligations.MatrixMemory := by
  unfold Obligations.MatrixMemory
  refine ⟨fun x o s s1 s2 h hm => ?_, fun s s2 s3 core t id store tile base stride ea dest hwait hruns hcalm hr ho => ?_⟩
  · exact ⟨fun hvr hb bs hbs => exec_tsld_starts h hm hvr hb hbs, fun hvr hb bs hbs => exec_tald_starts h hm hvr hb hbs,
      fun hvr ls hls => exec_tsst_starts h hm hvr hls, fun hvr ls hls => exec_tast_starts h hm hvr hls,
      fun hvr hrows hfirst store ls hls => exec_rows_starts h hrows hfirst hm hvr hls⟩
  · have hmoves : s.RowMoves core.toNat t id store tile base stride ea dest s3 := ⟨hwait, hruns, hcalm, s2, hr, ho⟩
    refine ⟨fun pa hstore hpl hp hup => ?_, fun hstore hup => ?_⟩
    · subst hstore
      exact hmoves.load hpl hp hup
    · subst hstore
      exact hmoves.store hup

end Sys2Proof.Machine
end

section
/-!
PROOFS. The events of the matrix engine at the head of its queue (R119, R120, R131).
-/
namespace Sys2Proof.Machine

variable {s : State} {c : Nat} {m : Matrix} {q : MOp} {rest : List MOp}

/-! ### The head of the queue -/

section
variable (hq : m.queue = q :: rest)
include hq

theorem Matrix.nextCollect_head {rm acc : BitVec 2} {ta tb : BitVec 3} {zf : Bool} {a b : W64} {seed : W32}
    (hk : q.kind = .tmma rm acc ta tb zf a b seed none) : m.nextCollect = some (0, q) := by
  simp [Matrix.nextCollect, hq, hk]

theorem Matrix.nextFinish_head {rm acc : BitVec 2} {ta tb : BitVec 3} {zf : Bool} {a b : W64} {seed : W32}
    {buf : Option Collected} (hk : q.kind = .tmma rm acc ta tb zf a b seed buf) : m.nextFinish = some (0, q) := by
  simp [Matrix.nextFinish, hq, hk]

theorem Matrix.nextTfin_head {acc : BitVec 2} {tag : BitVec 8} {waited : Bool} (hk : q.kind = .tfin acc tag waited) :
    m.nextTfin = some (0, q) := by
  simp [Matrix.nextTfin, hq, hk]

end

/-- Nothing stands before the head. -/
theorem Matrix.clear_zero (m : Matrix) : m.clear 0 = true := by simp [Matrix.clear]

theorem Matrix.tfinBefore_zero (m : Matrix) (acc : BitVec 2) : m.tfinBefore 0 acc = false := by simp [Matrix.tfinBefore]

theorem Matrix.tfinStarts_zero {m : Matrix} (h : m.ftq.length < 4) (acc : BitVec 2) : m.tfinStarts 0 acc = true := by
  simp [Matrix.tfinStarts, h]

/-! ### `TMMA_COLLECT` and `TMMA_FINISH` -/

section
variable {rm acc : BitVec 2} {ta tb : BitVec 3} {zf : Bool} {a b : W64} {seed : W32}
  (hq : (s.core c).mx.queue = q :: rest)
include hq

/-- The head copies its operands into a collector buffer (R119). -/
theorem State.collect_head (hk : q.kind = .tmma rm acc ta tb zf a b seed none) (ha : cfgSrc a = false) (hb : cfgSrc b = false)
    (hbuf : (s.core c).mx.buffers < 2) (hheld : s.collectHeld c q = false) :
    let m := (s.core c).mx
    (s.collect c .good).1 = s.modCore c (fun k => { k with
      mx := { k.mx with queue :=
        { q with kind := .tmma rm acc ta tb zf a b seed (some ⟨m.tile ta, m.tile tb, m.scales ta, m.scales tb⟩) } :: rest }
      mem := { k.mem with accs := k.mem.accs.filter (fun x => !(x.kind == .collect && x.thr == q.thr && x.n == q.n)) } }) := by
  have hnext := Matrix.nextCollect_head hq hk
  obtain ⟨t, n, kind, snap, tiu⟩ := q
  obtain rfl : kind = _ := hk
  have hpoison (w : W64) (hw : cfgSrc w = false) : s.lmRowPoison c w = none := by simp [State.lmRowPoison, hw]
  have hstart : ¬(2 ≤ (s.core c).mx.buffers ∨ (!(s.core c).mx.clear 0) = true ∨
      s.collectHeld c ⟨t, n, .tmma rm acc ta tb zf a b seed none, snap, tiu⟩ = true) := by
    rw [Matrix.clear_zero, hheld]
    simpa using hbuf
  simp only [State.collect, hnext, if_neg hstart, ha, hb, hpoison a ha, hpoison b hb, Option.orElse_none, Bool.false_eq_true,
    if_false, State.modCore, hq, List.set_cons_zero]

/-- The head, collected, adds its products to its accumulator, and leaves the queue (R119). -/
theorem State.finish_head {buf : Collected} (hk : q.kind = .tmma rm acc ta tb zf a b seed (some buf))
    (hset : (s.core c).unsettled q.thr q.n = false) :
    let res := tmmaResult a b buf (Rm.of rm) zf seed ((s.core c).mx.acc acc)
    s.finish c false = ((s.modCore c (fun k =>
      { k with
        mx := { k.mx.setAcc acc res.1 with queue := rest }
        cnt := { k.cnt with
          pcTmma := k.cnt.pcTmma + 1
          pcArray := k.cnt.pcArray + BitVec.ofNat 64 (arrayCycles a) } }.modThrAll q.thr
            (fun y => y.addFlags res.2))).afterMatrix c).ftqServeAll c := by
  have hnext := Matrix.nextFinish_head hq hk
  obtain ⟨t, n, kind, snap, tiu⟩ := q
  obtain rfl : kind = _ := hk
  simp only [State.finish, hnext, Matrix.tfinBefore_zero, hset, Bool.false_eq_true, or_self, if_false, State.modCore, hq,
    List.eraseIdx_cons_zero, Nat.mul_one]

end

/-! ### `TFIN_COPY_DONE` -/

theorem State.setPenn_modCore (h : s.present c = true) (f : Core → Core) (i : Nat) :
    (s.modCore c f).setPenn c i = s.modCore c (fun k => { f k with penn := setBit (f k).penn i true }) := by
  rw [State.setPenn, if_pos (by exact h), State.modCore_modCore]

theorem State.present_of_coreRuns (h : s.coreRuns c = true) : s.present c = true := (Bool.and_eq_true_iff.1 h).1

/-- Threads that do not wait in `VFTQ` are not served by the finished-tile queue (R151). -/
theorem State.ftqServeAll_idle (h : ∀ t, (s.thread c t).wait ≠ some .vftqPop ∧
    ∀ r g e, (s.thread c t).wait ≠ some (.vftqRead r g e)) : s.ftqServeAll c = s := by
  have hserve (t : BitVec 2) : s.ftqServe c t = s := by
    obtain ⟨hpop, hread⟩ := h t
    unfold State.ftqServe
    simp only []
    split
    · rfl
    · split
      next hw _ => exact (hread _ _ _ hw).elim
      next hw _ => exact (hread _ _ _ hw).elim
      next hw _ => exact (hpop hw).elim
      next => rfl
  simp only [State.ftqServeAll, List.foldl_cons, List.foldl_nil, hserve]

/-- The head of the queue, a `TFIN`, has copied its accumulator to the finished-tile queue, and freed it (R120, R150). -/
def Core.copyOut (k : Core) (acc : BitVec 2) (tag : BitVec 8) (int : Bool) : Core :=
  { k with mx := { k.mx.setAcc acc 0 with
    queue := k.mx.queue.tail, ftq := k.mx.ftq ++ [⟨k.mx.acc acc, tag, int, acc⟩], ftIn := k.mx.ftIn + 1 } }

section
variable {acc : BitVec 2} {tag : BitVec 8} (hk : q.kind = .tfin acc tag false) (hroom : (s.core c).mx.ftq.length < 4)
  (hset : (s.core c).unsettled q.thr q.n = false)
include hk hroom hset

theorem State.tfinDone_head (hq : (s.core c).mx.queue = q :: rest) :
    s.tfinDone c = (((s.modCore c (fun k => k.copyOut acc tag (q.tiu.getLsbD (12 + acc.toNat)))).setPenn c 18).afterMatrix
      c).ftqServeAll c := by
  have hnext := Matrix.nextTfin_head hq hk
  obtain ⟨t, n, kind, snap, tiu⟩ := q
  obtain rfl : kind = _ := hk
  simp only [State.tfinDone, hnext, Matrix.clear_zero, Matrix.tfinStarts_zero hroom, hset, Bool.not_true, Bool.false_eq_true,
    or_self, if_false, State.modCore, hq, List.eraseIdx_cons_zero, Core.copyOut, List.tail_cons]

/-- Where it is the only instruction of the engines, and nothing waits for its entry, all that follows is pennant 18, and
pennant 16 (R133). -/
theorem State.tfinDone_alone (hpresent : s.present c = true) (hq : (s.core c).mx.queue = [q])
    (hvq : (s.core c).vx.queue = []) (hvd : (s.core c).vx.done = [])
    (hthr : ∀ t, (s.thread c t).inMatrix = false ∧ (s.thread c t).wait ≠ some .vftqPop ∧
      ∀ r g e, (s.thread c t).wait ≠ some (.vftqRead r g e)) :
    s.tfinDone c = s.modCore c (fun k => { k.copyOut acc tag (q.tiu.getLsbD (12 + acc.toNat)) with
      penn := setBit (setBit k.penn 18 true) 16 true }) := by
  have hempty : ((s.core c).copyOut acc tag (q.tiu.getLsbD (12 + acc.toNat))).mx.queue = [] := by
    simp only [Core.copyOut, hq, List.tail_cons]
  rw [State.tfinDone_head hk hroom hset hq, State.setPenn_modCore hpresent,
    State.afterMatrix_idle (by rw [State.core_modCore]; exact hempty) (by rw [State.core_modCore]; exact hvq)
      (by rw [State.core_modCore]; exact hvd),
    Core.matrixBusy_eq_false.2 ⟨by rw [State.core_modCore]; exact hempty, fun t => by
      rw [State.core_modCore]; exact (hthr t).1⟩, if_neg Bool.false_ne_true, State.setPenn_modCore hpresent]
  refine State.ftqServeAll_idle fun t => ?_
  rw [State.thread, State.core_modCore]
  exact (hthr t).2

end

end Sys2Proof.Machine
end

section
/-!
PROOFS. `CHECKSUM_FAIL` (R131): what reporting it leaves of the core, what the discard of its thread's instructions does (R98), and
the exception.
-/
namespace Sys2Proof.Machine

variable {s s1 s2 s3 : State} {c : Nat} {t : BitVec 2}

/-! ### What a report leaves -/

/-- The presence masks are not among the words that the work of cores writes. -/
theorem Works.present (h : Works s s1) (hc : c < 1024) : s1.present c = s.present c := by
  have hreg : s1.reg (0x200 + 8 * coreRow c) = s.reg (0x200 + 8 * coreRow c) := by
    induction h with
    | refl => rfl
    | side _ ih => exact ih
    | mem _ _ _ ih => exact ih
    | port _ _ _ ih => exact ih
    | reg _ ho v ih =>
      rw [State.reg_setReg_ne _ _ fun e => ?_]
      · exact ih
      · subst e
        rcases ho with h | ⟨p, w, _, h⟩ | ⟨n, b, _, _, h⟩ <;> simp only [fabp, barOff, prt, coreRow] at h <;> omega
  simp only [State.present, hreg]

/-- `s1` comes of `s` by reports of core `c`: of the core, its count of records and the source that makes it suspect may change;
memory stays. -/
structure State.Reported (s : State) (c : Nat) (s1 : State) : Prop where
  core : ∃ seq n src, s1.core c = { s.core c with seqno := seq, traced := n, suspSrc := src }
  mem : s1.mem = s.mem

namespace State.Reported

theorem refl (s : State) (c : Nat) : s.Reported c s := ⟨⟨_, _, _, rfl⟩, rfl⟩

theorem trans (h : s1.Reported c s2) (h' : s2.Reported c s3) : s1.Reported c s3 := by
  obtain ⟨⟨_, _, _, e⟩, m⟩ := h
  obtain ⟨⟨_, _, _, e'⟩, m'⟩ := h'
  exact ⟨⟨_, _, _, by rw [e', e]⟩, m'.trans m⟩

theorem of_apart (h : s1.apart = s.apart) : s.Reported c s1 := by
  refine ⟨?_, State.apart_mem h⟩
  rw [State.apart_core h]
  exact ⟨_, _, _, rfl⟩

theorem traceCore (s : State) (c thr ty p : Nat) : s.Reported c (s.traceCore c thr ty p) := by
  rcases s.traceCore_apart c thr ty p with h | h
  · exact of_apart h
  · refine ⟨?_, (State.apart_mem h :)⟩
    rw [State.apart_core h, State.core_setCore]
    exact ⟨_, _, _, rfl⟩

theorem suspect (s : State) (c src : Nat) : s.Reported c (s.suspect c src) := by
  unfold State.suspect
  simp only []
  split
  · exact refl s c
  · refine ⟨?_, rfl⟩
    rw [State.core_modCore]
    exact ⟨_, _, _, rfl⟩

theorem coreUncorrected (s : State) (c thr src code : Nat) (addr : W64) (loc : Bool) :
    s.Reported c (s.coreUncorrected c thr src code addr loc) := by
  unfold State.coreUncorrected
  refine trans (of_apart ?_) (suspect ..)
  rw [State.errLog_apart]
  split <;> simp

end State.Reported

/-! ### A discard (R98) -/

/-- The threads, engines and records of a core are kept when lines are invalidated. -/
theorem Core.foldl_invalidate (f : Acc → Place → Bool) (l : List Acc) (k : Core) :
    ∃ mem, l.foldl (fun k a => k.invalidate (f a)) k = { k with mem := mem } := by
  induction l generalizing k with
  | nil => exact ⟨k.mem, rfl⟩
  | cons a l ih =>
    obtain ⟨mem, h⟩ := ih (k.invalidate (f a))
    exact ⟨mem, by rw [List.foldl_cons, h]; rfl⟩

/-- The thread that a discard returns to. -/
def Core.backTo (k : Core) (t : BitVec 2) (snap : Thread) : Thread :=
  { snap with wdog := (rget k.thr (tix t)).wdog, remErr := (rget k.thr (tix t)).remErr }

theorem Core.discard_eq (k : Core) (t : BitVec 2) (n : Nat) (snap : Thread) :
    ∃ mem, k.discard t n snap = { k with
      thr := rset k.thr (tix t) (k.backTo t snap)
      mem := mem
      mx := { k.mx.discard t n with
        ftq := k.vx.popped t n ++ k.mx.ftq, ftOut := k.mx.ftOut - BitVec.ofNat 64 (k.vx.popped t n).length }
      vx := k.vx.discard t n } := by
  obtain ⟨mem, h⟩ := Core.foldl_invalidate (fun a => touches a.place a.len)
    (k.mem.accs.filter (fun a => a.thr == t && n ≤ a.n && a.writes)) k
  unfold Core.discard
  simp only [h]
  exact ⟨_, rfl⟩

theorem VecEng.discard_queue {v : VecEng} (h : v.queue = []) (t : BitVec 2) (n : Nat) : (v.discard t n).queue = [] := by
  simp [VecEng.discard, h]

theorem VecEng.discard_done {v : VecEng} (h : v.done = []) (t : BitVec 2) (n : Nat) : (v.discard t n).done = [] := by
  simp [VecEng.discard, h]

/-! ### The exception -/

theorem Thread.showAll_pc (y : Thread) : y.showAll.pc = y.pc := by
  have hfold (l : List PLoad) (y : Thread) : (l.foldl Thread.showLoad y).pc = y.pc := by
    induction l generalizing y with
    | nil => rfl
    | cons a l ih =>
      rw [List.foldl_cons, ih]
      unfold Thread.showLoad Thread.setG
      split
      · split <;> rfl
      · rfl
  exact hfold y.loads y

/-- A thread outside a handler enters its own (R100). -/
theorem State.Reported.enterExc (h : (s.thread c t).stat.getLsbD 4 = false) (e : Exc) :
    (s.setThread c t ((s.thread c t).enter e)).Reported c (s.enterExc c t e) := by
  unfold State.enterExc
  simp only [h, Bool.false_eq_true, if_false]
  exact traceCore ..

/-- After an instruction that leaves both engines empty only pennant 16 may change. -/
theorem State.afterMatrix_empty (hq : (s.core c).mx.queue = []) (hv : (s.core c).vx.queue = []) (hd : (s.core c).vx.done = []) :
    (∃ p, (s.afterMatrix c).core c = { s.core c with penn := p } ∧ ∀ i ≠ 16, p.getLsbD i = (s.core c).penn.getLsbD i) ∧
      (s.afterMatrix c).mem = s.mem := by
  rw [State.afterMatrix_idle hq hv hd]
  unfold State.setPenn
  split
  · exact ⟨⟨_, rfl, fun _ _ => rfl⟩, rfl⟩
  · split
    · refine ⟨⟨_, State.core_modCore .., fun i hi => ?_⟩, rfl⟩
      rw [getLsbD_setBit, if_neg fun h => hi h.1]
    · exact ⟨⟨_, rfl, fun _ _ => rfl⟩, rfl⟩

/-- An instruction of an engine raises an exception late, which leaves nothing in the engines (R98, R100). -/
theorem State.enterExc_discard (n : Nat) {snap : Thread} (e : Exc) (hvq : (s.core c).vx.queue = [])
    (hvd : (s.core c).vx.done = []) (hgone : ((s.core c).mx.discard t n).queue = []) (hexl : snap.stat.getLsbD 4 = false) :
    let u := ((s.modCore c (fun k => k.discard t n snap)).enterExc c t e).afterMatrix c
    u.thread c t = ((s.core c).backTo t snap).enter e ∧ (u.core c).mx.a = (s.core c).mx.a ∧
      (u.core c).cnt = (s.core c).cnt ∧ (∀ i ≠ 16, (u.core c).penn.getLsbD i = (s.core c).penn.getLsbD i) ∧ u.mem = s.mem := by
  obtain ⟨accs, hback⟩ := (s.core c).discard_eq t n snap
  have hthr : (s.modCore c (fun k => k.discard t n snap)).thread c t = (s.core c).backTo t snap := by
    rw [State.thread, State.core_modCore, hback, rget_rset_same]
  obtain ⟨⟨seq, m, src, hcore⟩, hmem⟩ := State.Reported.enterExc (by rw [hthr]; exact hexl) e
  rw [hthr, State.setThread, State.core_modCore, State.core_modCore, hback] at hcore
  obtain ⟨⟨p, hafter, hpenn⟩, hmem'⟩ := State.afterMatrix_empty (by rw [hcore]; exact hgone)
    (by rw [hcore]; exact VecEng.discard_queue hvq ..) (by rw [hcore]; exact VecEng.discard_done hvd ..)
  refine ⟨?_, ?_, ?_, ?_, hmem'.trans hmem⟩
  · rw [State.thread, hafter, hcore]
    exact Core.thr_setThr ..
  · rw [hafter, hcore]
    rfl
  · rw [hafter, hcore]
    rfl
  · intro i hi
    rw [hafter, hpenn i hi, hcore]
    rfl

/-! ### `CHECKSUM_FAIL` -/

/-- The core once a second checksum failure has been counted; and once it has been reported too, with pennant 31 (R131). -/
def Core.countReissue (k : Core) (cfgA : W64) : Core :=
  { k with cnt := { k.cnt with
    pcReissue := k.cnt.pcReissue + 1
    pcArray := k.cnt.pcArray + BitVec.ofNat 64 (2 * arrayCycles cfgA) } }
def Core.checksumFailed (k : Core) (cfgA : W64) : Core := { k.countReissue cfgA with penn := setBit k.penn 31 true }

/-- The state once the failure has been counted, logged and traced. -/
def State.checksumReported (s : State) (c : Nat) (t acc : BitVec 2) (cfgA : W64) : State :=
  ((((s.modCore c (fun k => k.countReissue cfgA)).coreUncorrected c t.toNat 7 excChecksum (BitVec.ofNat 64 acc.toNat)
    false).setPenn c 31).traceCore c t.toNat 0x06 (acc.toNat + 256))

theorem State.Reported.checksum (hc : c < 1024) (hp : s.present c = true) (t acc : BitVec 2) (cfgA : W64) :
    (s.modCore c (fun k => k.checksumFailed cfgA)).Reported c (s.checksumReported c t acc cfgA) := by
  refine trans ?_ (traceCore ..)
  have hpresent := (Works.refl (s := s.modCore c (fun k => k.countReissue cfgA))).coreUncorrected c t.toNat 7 excChecksum
    (BitVec.ofNat 64 acc.toNat) false
  obtain ⟨⟨seq, n, src, hcore⟩, hmem⟩ := coreUncorrected (s.modCore c (fun k => k.countReissue cfgA)) c t.toNat 7 excChecksum
    (BitVec.ofNat 64 acc.toNat) false
  rw [State.setPenn, if_pos ((hpresent.present hc).trans hp)]
  refine ⟨⟨seq, n, src, ?_⟩, hmem⟩
  rw [State.core_modCore, hcore, State.core_modCore, State.core_modCore]
  rfl

section
variable {q : MOp} {rest : List MOp} {rm acc : BitVec 2} {ta tb : BitVec 3} {zf : Bool} {a b : W64} {seed : W32}
  {buf : Collected} (hq : (s.core c).mx.queue = q :: rest) (hk : q.kind = .tmma rm acc ta tb zf a b seed (some buf))
  (hfirst : ∀ z ∈ (s.core c).mem.accs, ¬(z.thr = q.thr ∧ z.n < q.n))
include hq hk hfirst

/-- The head fails its checksum twice: it and what follows it of its thread is discarded, and the exception raised (R98, R131). -/
theorem State.checksumFails_head :
    s.checksumFails c = (((s.checksumReported c q.thr acc a).modCore c (fun k => k.discard q.thr q.n q.snap)).enterExc c q.thr
      { code := excChecksum, stval := BitVec.ofNat 64 acc.toNat }).afterMatrix c := by
  have hnext := Matrix.nextFinish_head hq hk
  have hany : (s.core c).mem.accs.any (fun z => z.thr == q.thr && z.n < q.n) = false :=
    List.any_eq_false.2 fun z hz => by simpa using hfirst z hz
  obtain ⟨t, n, kind, snap, tiu⟩ := q
  obtain rfl : kind = _ := hk
  simp only [State.checksumFails, hnext, hany, Nat.lt_irrefl, Bool.false_eq_true, or_self, if_false]
  rfl

/-- With nothing left in the engines: what is then in the core, and in memory. -/
theorem State.checksumFails_alone (hc : c < 1024) (hp : s.present c = true) (hvq : (s.core c).vx.queue = [])
    (hvd : (s.core c).vx.done = []) (hgone : ((s.core c).discard q.thr q.n q.snap).mx.queue = [])
    (hexl : q.snap.stat.getLsbD 4 = false) :
    (s.checksumFails c).thread c q.thr =
      ((s.core c).backTo q.thr q.snap).enter { code := excChecksum, stval := BitVec.ofNat 64 acc.toNat } ∧
    ((s.checksumFails c).core c).mx.a = (s.core c).mx.a ∧ ((s.checksumFails c).core c).penn.getLsbD 31 = true ∧
    ((s.checksumFails c).core c).cnt.pcReissue = (s.core c).cnt.pcReissue + 1 ∧ (s.checksumFails c).mem = s.mem := by
  obtain ⟨⟨seq, n, src, hcore⟩, hmem⟩ := State.Reported.checksum hc hp q.thr acc a
  rw [State.core_modCore] at hcore
  obtain ⟨accs, hback⟩ := (s.core c).discard_eq q.thr q.n q.snap
  rw [hback] at hgone
  obtain ⟨hthr, ha, hcnt, hpenn, hmem'⟩ := State.enterExc_discard (s := s.checksumReported c q.thr acc a) q.n
    { code := excChecksum, stval := BitVec.ofNat 64 acc.toNat } (by rw [hcore]; exact hvq) (by rw [hcore]; exact hvd)
    (by rw [hcore]; exact hgone) hexl
  rw [State.checksumFails_head hq hk hfirst, hthr, ha, hcnt, hpenn 31 (by decide), hmem', hmem, hcore]
  refine ⟨rfl, rfl, ?_, rfl, rfl⟩
  exact (getLsbD_setBit ..).trans (if_pos (by decide))

end

theorem Exc.scause_checksum (v : W64) : Exc.scause { code := excChecksum, stval := v } = 0x09 := by
  simp [Exc.scause, excChecksum]

/-- Settles O19: the lemmas on the head of the queue, for each of the four events. -/
theorem matrixEvents : Obligations.MatrixEvents := by
  unfold Obligations.MatrixEvents
  intro s core q rest c k hq hruns
  have hp := State.present_of_coreRuns hruns
  refine ⟨?_, ?_, ?_, ?_⟩
  · intro rm acc ta tb zf a b seed hk ha hb hbuf hheld
    rw [exec_tmmaCollect, execTmmaCollect, if_pos hruns, State.collect_head hq hk ha hb hbuf hheld]
  · intro rm acc ta tb zf a b seed buf hk hset
    rw [exec_tmmaFinish, execTmmaFinish, if_pos hruns, State.finish_head hq hk hset]
  · intro rm acc ta tb zf a b seed buf hk hfirst hvq hvd hgone hexl
    obtain ⟨hthr, ha, hpenn, hcnt, hmem⟩ := State.checksumFails_alone hq hk hfirst core.isLt hp hvq hvd hgone hexl
    refine ⟨s.checksumFails c, ?_, ?_, ?_, ?_, ha, hpenn, hcnt, hmem⟩
    · rw [exec_checksumFail, execChecksumFail, if_pos hruns]
    · rw [hthr]; exact Exc.scause_checksum _
    · rw [hthr]; exact BitVec.ofNat_toNat ..
    · rw [hthr]; exact Thread.showAll_pc _
  · intro acc tag hk hrest hvq hvd hroom hset hthr
    subst hrest
    refine ⟨_, by rw [exec_tfinCopyDone, execTfinCopyDone, if_pos hruns, State.tfinDone_alone hk hroom hset hp hq hvq hvd hthr],
      ?_⟩
    rw [State.core_modCore]
    refine ⟨?_, rget_rset_same .., rfl, rfl, ?_, ?_, rfl, rfl⟩
    · show k.mx.queue.tail = []
      rw [hq]
      rfl
    · simp [getLsbD_setBit]
    · simp [getLsbD_setBit]

end Sys2Proof.Machine
end
